-- ==== Sys2Proof/Word.lean ====
section
/-!
DEFINITION. Sys2Proof/Word.lean: the plain types of the machine's data: bytes, words, cells, register numbers,
element formats and rounding modes (R5, R8, R57, R60, R91, R310).
-/
namespace Sys2Proof

/-- One byte of memory. -/
abbrev Byte := BitVec 8
/-- One 64-bit scalar word (R313). -/
abbrev Word := BitVec 64
/-- One 32-bit plane cell or accumulator element (R56). -/
abbrev Cell := BitVec 32
/-- A scalar register number, s0 to s31, or l0 to l31 in a virtual processor (R310). -/
abbrev Reg := BitVec 5
/-- A shape-table entry number, v0 to v63 (R58). -/
abbrev Ent := BitVec 6
/-- A mask register number, m0 to m7 (R310). -/
abbrev MaskNo := BitVec 3
/-- A one-bit field of an instruction word, a chain bit for example (R77). -/
abbrev Bit := BitVec 1
/-- A mask register: bit i governs element i (R70). -/
abbrev Mask := BitVec 4096

/-- The element formats of Table 3.3 (R60), in the order of their codes. -/
inductive Fmt where
  | fp32 | bf16 | fp16 | e4m3 | e5m2 | mxfp4 | int32 | uint32 | int16 | uint16
  | int8 | uint8 | int4 | uint4 | e8m0 | qpair | tbl8
  deriving DecidableEq, Repr

/-- The classes of Table 3.3 (R60). -/
inductive FmtClass where
  | float | integer | special
  deriving DecidableEq, Repr

/-- The rounding modes of R91. -/
inductive Rm where
  | rne | rtz | rdn | rup | rna | sr
  deriving DecidableEq, Repr

/-- The kinds of a shape (R58, Table 3.1). -/
inductive ShapeKind where
  | row | rect | col | diag
  deriving DecidableEq, Repr

/-- The element width in bits (Table 3.3). -/
def Fmt.width : Fmt → Nat
  | .fp32 | .int32 | .uint32 | .qpair => 32
  | .bf16 | .fp16 | .int16 | .uint16 => 16
  | .e4m3 | .e5m2 | .int8 | .uint8 | .e8m0 | .tbl8 => 8
  | .mxfp4 | .int4 | .uint4 => 4

/-- The class of a format (Table 3.3). -/
def Fmt.cls : Fmt → FmtClass
  | .fp32 | .bf16 | .fp16 | .e4m3 | .e5m2 | .mxfp4 => .float
  | .int32 | .uint32 | .int16 | .uint16 | .int8 | .uint8 | .int4 | .uint4 => .integer
  | .e8m0 | .qpair | .tbl8 => .special

/-- The format code of Table 3.3. -/
def Fmt.code : Fmt → Nat
  | .fp32 => 0 | .bf16 => 1 | .fp16 => 2 | .e4m3 => 3 | .e5m2 => 4 | .mxfp4 => 5
  | .int32 => 6 | .uint32 => 7 | .int16 => 8 | .uint16 => 9 | .int8 => 10 | .uint8 => 11
  | .int4 => 12 | .uint4 => 13 | .e8m0 => 14 | .qpair => 15 | .tbl8 => 16

/-- The format of a code; codes 17 to 31 are reserved (Table 3.3). -/
def Fmt.ofCode : Nat → Option Fmt
  | 0 => some .fp32 | 1 => some .bf16 | 2 => some .fp16 | 3 => some .e4m3 | 4 => some .e5m2
  | 5 => some .mxfp4 | 6 => some .int32 | 7 => some .uint32 | 8 => some .int16 | 9 => some .uint16
  | 10 => some .int8 | 11 => some .uint8 | 12 => some .int4 | 13 => some .uint4 | 14 => some .e8m0
  | 15 => some .qpair | 16 => some .tbl8 | _ => none

/-- Elements per cell, epc = 32/w (R57). -/
def Fmt.epc (f : Fmt) : Nat := 32 / f.width

end Sys2Proof
end

