-- ==== Sys2Proof/Syntax.lean ====
section
/-!
DEFINITION. Sys2Proof/Syntax.lean: `Instr`, one constructor for each row of spec/opcode_table.json. The first part are
the instructions that a word encodes, with the fields of their layout under the table's own letters (d destination,
a and b sources, m mask, x and y chain bits, i immediate, o offset ...); the second part are the package's further
steps (95_what_each_step_holds.md), with what comes from outside the machine in their arguments.
-/
namespace Sys2Proof

/-- The atomic functions of Table 9.5 (R214). -/
inductive AtomFn where
  | add | min | max | and | or | xchg | cas
  deriving DecidableEq, Repr

/-- Why the collector stops a seat (R251, R259). -/
inductive StopCause where
  | dispatcher | page | debug | kill | ecc
  deriving DecidableEq, Repr

/-- Who kills a context (R260): the host, by the KILL command of a VI's ring, or privileged firmware. -/
inductive Killer where
  | host (vi : Nat) | firmware (ctx : Nat)
  deriving DecidableEq, Repr

/-- A request that reaches a unit (R14, R261) with an address: the bytes of a write, a line's read (`kind` is 0 raw, 1 expanded,
2 decoded), an atomic, or a page walk, whose address is a virtual one. -/
inductive UnitRequest where
  | write (bytes : List Byte)
  | read (kind : Nat)
  | atomic (fn : AtomFn) (wide uns : Bool) (op cmp : Word)
  | walk (store : Bool)
  deriving DecidableEq, Repr

/-- Who made a request whose response arrives (R261): of a seat, the command at a position of its queues or a copy channel; of a
context, a stream. -/
inductive Requester where
  | seat (pos : Nat) | channel (ch : Nat) | stream (handle : Nat)
  deriving DecidableEq, Repr

/-- A trigger of the Barograph (R298). -/
inductive BaroTrigger where
  | immediate | pc (at_ : Word) | tmark (value : Word) | anyTrap | hostCommand
  deriving DecidableEq, Repr

/-- The options a peer negotiates at connection set-up (R299, Table 15.1). -/
structure ConnOpts where
  peer : Nat
  portSpeed800 : Bool
  rudi : Bool
  uudForData : Bool
  rccc : Bool
  deferrable : Bool
  rendezvous : Bool
  encrypted : Bool
  inNetworkReduction : Bool
  deriving DecidableEq, Repr

/-- What a fabric packet asks of the VI it is delivered to (R301). -/
inductive Packet where
  | rmaRead (handle : Nat) (va : Word) (len : Nat)
  | rmaWrite (handle : Nat) (va : Word) (bytes : List Byte)
  | doorbell (count : Nat)
  | atomic (handle : Nat) (va : Word) (fn : AtomFn) (wide uns : Bool) (op cmp : Word)
  | frame (handle stream : Nat) (media payload : Word) (len : BitVec 32) (barge : Bool)
  | other
  deriving DecidableEq, Repr

/-- Where the engines of a seat stand at an asynchronous stop (R81, R127): of the V-queue instruction in progress how many element
groups each lane cluster has performed, and the next row of the MMT or LDST in progress; `[]` and `none` when they stand
between instructions. -/
structure Partway where
  v : List Nat
  m : Option Nat
  deriving DecidableEq, Repr

/-- The engines of a seat have stopped, at a boundary (R251). -/
structure EngineStop where
  seat : Nat
  part : Partway
  deriving DecidableEq, Repr

/-- A host's atomic on a doorbell counter: the endpoint that sends it, and what it adds (R302, R304). -/
structure RingWrite where
  peer : Nat
  count : Nat
  deriving DecidableEq, Repr

/-- Whose own read meets an uncorrectable error (R259). -/
inductive EccReader where
  /-- a command at a position of the seat's queues, at an element or a row -/
  | queued (pos e : Nat)
  /-- the transfer that a channel's engine works on, at an element or a tile -/
  | copy (ch e : Nat)
  /-- the background gather of a CPIX, by its tag, at an element -/
  | gather (tag e : Nat)
  /-- the instruction a virtual processor is at -/
  | lane (l : Nat)
  deriving DecidableEq, Repr

/-- Where an uncorrectable error is met (R180, R259): the datum that is lost (a cell, a code, an L1 line or an address), where the
engines stand at an asynchronous stop, and whose own read meets the error, if one does. -/
structure EccSite where
  lost : Option Nat
  part : Partway
  meets : Option EccReader
  deriving DecidableEq, Repr

/-- What the operator provisions for a VI (R301, R302, R307, R358). `bytes` of a ring lie at `ringBase`. -/
structure ViProvision where
  fabricAddr : Nat
  keySet : Nat
  ringBase : Nat
  ringSize : Nat
  mcg : List Nat
  routineKeys : List Nat
  domain : Nat
  deriving DecidableEq, Repr

/-- One constructor per row of spec/opcode_table.json. -/
inductive Instr where
  /-- ADD (R339): Writes the 64-bit sum of two scalar registers to sd. -/
  | add (d : Reg) (a : Reg) (b : Reg)
  /-- ADD_IMM (R339): Adds a sign-extended imm16 to a scalar register. -/
  | addImm (d : Reg) (a : Reg) (i : BitVec 16)
  /-- SUB (R403): Writes the 64-bit difference of two scalar registers to sd. -/
  | sub (d : Reg) (a : Reg) (b : Reg)
  /-- MUL (R380): Writes the low 64 bits of a product to sd. -/
  | mul (d : Reg) (a : Reg) (b : Reg)
  /-- MULH (R380): Writes the high 64 bits of a signed 128-bit product to sd. -/
  | mulh (d : Reg) (a : Reg) (b : Reg)
  /-- MULH_U (R380): Writes the high 64 bits of an unsigned 128-bit product to sd. -/
  | mulhU (d : Reg) (a : Reg) (b : Reg)
  /-- DIV (R352): Signed division truncated toward zero; a zero divisor gives all ones. -/
  | div (d : Reg) (a : Reg) (b : Reg)
  /-- DIV_U (R352): Unsigned division; a zero divisor gives all ones. -/
  | divU (d : Reg) (a : Reg) (b : Reg)
  /-- REM (R390): Signed remainder with the sign of the dividend. -/
  | rem (d : Reg) (a : Reg) (b : Reg)
  /-- REM_U (R390): Unsigned remainder. -/
  | remU (d : Reg) (a : Reg) (b : Reg)
  /-- AND (R340): Bitwise AND of two scalar registers. -/
  | and (d : Reg) (a : Reg) (b : Reg)
  /-- AND_IMM (R340): Bitwise AND with a zero-extended imm16. -/
  | andImm (d : Reg) (a : Reg) (i : BitVec 16)
  /-- OR (R382): Bitwise OR of two scalar registers. -/
  | or (d : Reg) (a : Reg) (b : Reg)
  /-- OR_IMM (R382): Bitwise OR with a zero-extended imm16. -/
  | orImm (d : Reg) (a : Reg) (i : BitVec 16)
  /-- XOR (R432): Bitwise XOR of two scalar registers. -/
  | xor (d : Reg) (a : Reg) (b : Reg)
  /-- XOR_IMM (R432): Bitwise XOR with a sign-extended imm16. -/
  | xorImm (d : Reg) (a : Reg) (i : BitVec 16)
  /-- SHL (R398): Shifts left by s[sb][5:0] with zero fill. -/
  | shl (d : Reg) (a : Reg) (b : Reg)
  /-- SHR (R398): Shifts right by s[sb][5:0] with zero fill. -/
  | shr (d : Reg) (a : Reg) (b : Reg)
  /-- SRA (R398): Shifts right by s[sb][5:0] with sign fill. -/
  | sra (d : Reg) (a : Reg) (b : Reg)
  /-- SHL_I (R398): Shifts left by an immediate amount of 0 to 63. -/
  | shlI (d : Reg) (a : Reg) (k : BitVec 5) (h : Bit)
  /-- SHR_I (R398): Shifts right with zero fill by an immediate amount. -/
  | shrI (d : Reg) (a : Reg) (k : BitVec 5) (h : Bit)
  /-- SRA_I (R398): Shifts right with sign fill by an immediate amount. -/
  | sraI (d : Reg) (a : Reg) (k : BitVec 5) (h : Bit)
  /-- SLT (R400): Writes 1 when s[sa] is less than s[sb], compared as signed values. -/
  | slt (d : Reg) (a : Reg) (b : Reg)
  /-- SLT_U (R400): Writes 1 when s[sa] is less than s[sb], compared as unsigned values. -/
  | sltU (d : Reg) (a : Reg) (b : Reg)
  /-- SLT_IMM (R400): Signed set-on-less-than against a sign-extended imm16. -/
  | sltImm (d : Reg) (a : Reg) (i : BitVec 16)
  /-- SLT_U_IMM (R400): Unsigned set-on-less-than against a sign-extended imm16. -/
  | sltUImm (d : Reg) (a : Reg) (i : BitVec 16)
  /-- MIN (R377): Writes the signed minimum of two registers. -/
  | min (d : Reg) (a : Reg) (b : Reg)
  /-- MIN_U (R377): Writes the unsigned minimum of two registers. -/
  | minU (d : Reg) (a : Reg) (b : Reg)
  /-- MAX (R377): Writes the signed maximum of two registers. -/
  | max (d : Reg) (a : Reg) (b : Reg)
  /-- MAX_U (R377): Writes the unsigned maximum of two registers. -/
  | maxU (d : Reg) (a : Reg) (b : Reg)
  /-- CLZ (R345): Counts the leading zero bits of s[sa]. -/
  | clz (d : Reg) (a : Reg)
  /-- POPC (R385): Counts the set bits of s[sa]. -/
  | popc (d : Reg) (a : Reg)
  /-- SEL (R396): Selects s[sa] or s[sb] according to whether the old sd is non-zero. -/
  | sel (d : Reg) (a : Reg) (b : Reg)
  /-- LUI (R374): Writes the sign-extended imm16 shifted left by 16 to sd. -/
  | lui (d : Reg) (i : BitVec 16)
  /-- LD_B (R370): Loads a sign-extended byte through the P queue. -/
  | ldB (d : Reg) (a : Reg) (i : BitVec 16)
  /-- LD_BU (R370): Loads a zero-extended byte. -/
  | ldBu (d : Reg) (a : Reg) (i : BitVec 16)
  /-- LD_H (R370): Loads a sign-extended halfword. -/
  | ldH (d : Reg) (a : Reg) (i : BitVec 16)
  /-- LD_HU (R370): Loads a zero-extended halfword. -/
  | ldHu (d : Reg) (a : Reg) (i : BitVec 16)
  /-- LD_W (R370): Loads a sign-extended word. -/
  | ldW (d : Reg) (a : Reg) (i : BitVec 16)
  /-- LD_WU (R370): Loads a zero-extended word. -/
  | ldWu (d : Reg) (a : Reg) (i : BitVec 16)
  /-- LD_D (R370): Loads a doubleword. -/
  | ldD (d : Reg) (a : Reg) (i : BitVec 16)
  /-- ST_B (R401): Stores the low byte of the data register. -/
  | stB (d : Reg) (a : Reg) (i : BitVec 16)
  /-- ST_H (R401): Stores the low halfword of the data register. -/
  | stH (d : Reg) (a : Reg) (i : BitVec 16)
  /-- ST_W (R401): Stores the low word of the data register. -/
  | stW (d : Reg) (a : Reg) (i : BitVec 16)
  /-- ST_D (R401): Stores the data register as a doubleword. -/
  | stD (d : Reg) (a : Reg) (i : BitVec 16)
  /-- BEQ (R341): Branches when the two registers are equal. -/
  | beq (a : Reg) (b : Reg) (o : BitVec 16)
  /-- BNE (R341): Branches when the two registers differ. -/
  | bne (a : Reg) (b : Reg) (o : BitVec 16)
  /-- BLT (R341): Branches on signed less-than. -/
  | blt (a : Reg) (b : Reg) (o : BitVec 16)
  /-- BGE (R341): Branches on signed greater-or-equal. -/
  | bge (a : Reg) (b : Reg) (o : BitVec 16)
  /-- BLT_U (R341): Branches on unsigned less-than. -/
  | bltU (a : Reg) (b : Reg) (o : BitVec 16)
  /-- BGE_U (R341): Branches on unsigned greater-or-equal. -/
  | bgeU (a : Reg) (b : Reg) (o : BitVec 16)
  /-- JMP (R367): Jumps to PC plus 4 times the offset. -/
  | jmp (o : BitVec 26)
  /-- JAL (R367): Pushes the return address on the return stack, spilling if it is full, and jumps. -/
  | jal (o : BitVec 26)
  /-- STRIP (R402): Ends a strip: subtracts VL, advances the pointers, STRIPBASE and prefetches, sets a new VL and branches. -/
  | strip (a : Reg) (p : BitVec 4) (o : BitVec 17)
  /-- BTAG (R344): Branches on a snapshot of TAGS under a mask. -/
  | btag (a : Reg) (c : BitVec 5) (o : BitVec 16)
  /-- BMASK (R342): Waits for the mask and VL, then branches on the mask bits within VL. -/
  | bmask (m : MaskNo) (c : BitVec 5) (o : BitVec 16)
  /-- AADD (R333): Atomically adds the operand at the word's home. -/
  | aadd (d : Reg) (a : Reg) (b : Reg) (s : Bit) (w : Bit)
  /-- AMIN (R333): Atomically stores the signed or unsigned minimum. -/
  | amin (d : Reg) (a : Reg) (b : Reg) (s : Bit) (u : Bit) (w : Bit)
  /-- AMAX (R333): Atomically stores the signed or unsigned maximum. -/
  | amax (d : Reg) (a : Reg) (b : Reg) (s : Bit) (u : Bit) (w : Bit)
  /-- AAND (R333): Atomic AND at the word's home. -/
  | aand (d : Reg) (a : Reg) (b : Reg) (s : Bit) (w : Bit)
  /-- AOR (R333): Atomic OR at the word's home. -/
  | aor (d : Reg) (a : Reg) (b : Reg) (s : Bit) (w : Bit)
  /-- AXCHG (R333): Atomic exchange at the word's home. -/
  | axchg (d : Reg) (a : Reg) (b : Reg) (s : Bit) (w : Bit)
  /-- ACAS (R333): Atomic compare-and-swap against the old sd. -/
  | acas (d : Reg) (a : Reg) (b : Reg) (s : Bit) (w : Bit)
  /-- PHASE (R213): Phase boundary: write-back, barrier arrival and wait, then invalidation of clean lines. -/
  | phase (g : BitVec 2)
  /-- PUB (R386): Release: waits for earlier P and V memory commands, writes back, then stores the flag at its home. -/
  | pub (a : Reg) (b : Reg) (c : BitVec 3)
  /-- ACQ (R338): Acquire: reads the flag at its home and invalidates clean L1 lines. -/
  | acq (d : Reg) (a : Reg) (c : BitVec 3)
  /-- FENCE (R354): Orders the P and V queues by kind; scoped kinds add a phase boundary. -/
  | fence (k : BitVec 3)
  /-- QFENCE (R388): Orders the commands of the queues named in a mask. -/
  | qfence (a : Reg)
  /-- GBAR (R357): Arrives at a group's GBAR barrier and waits, ordering no memory. -/
  | gbar (g : BitVec 2)
  /-- RCLM (R389): Privileged wait until the reclaim of a context's old incarnation completes. -/
  | rclm (a : Reg)
  /-- VADD (R411): Element-wise add. -/
  | vadd (d : Ent) (a : Ent) (b : Ent) (x : Bit) (y : Bit) (m : MaskNo)
  /-- VSUB (R411): Element-wise subtract. -/
  | vsub (d : Ent) (a : Ent) (b : Ent) (x : Bit) (y : Bit) (m : MaskNo)
  /-- VMUL (R411): Element-wise multiply. -/
  | vmul (d : Ent) (a : Ent) (b : Ent) (x : Bit) (y : Bit) (m : MaskNo)
  /-- VDIV (R411): Element-wise divide. -/
  | vdiv (d : Ent) (a : Ent) (b : Ent) (x : Bit) (y : Bit) (m : MaskNo)
  /-- VMIN (R411): Element-wise minimum. -/
  | vmin (d : Ent) (a : Ent) (b : Ent) (x : Bit) (y : Bit) (m : MaskNo)
  /-- VMAX (R411): Element-wise maximum. -/
  | vmax (d : Ent) (a : Ent) (b : Ent) (x : Bit) (y : Bit) (m : MaskNo)
  /-- VABS (R411): Element-wise absolute value. -/
  | vabs (d : Ent) (a : Ent) (x : Bit) (m : MaskNo)
  /-- VNEG (R411): Element-wise negation. -/
  | vneg (d : Ent) (a : Ent) (x : Bit) (m : MaskNo)
  /-- VFMA (R420): Fused multiply-add into vd, with one rounding. -/
  | vfma (d : Ent) (a : Ent) (b : Ent) (x : Bit) (y : Bit) (m : MaskNo)
  /-- VFMS (R420): Fused multiply minus vd, with one rounding. -/
  | vfms (d : Ent) (a : Ent) (b : Ent) (x : Bit) (y : Bit) (m : MaskNo)
  /-- VSQRT (R420): Correctly rounded square root. -/
  | vsqrt (d : Ent) (a : Ent) (x : Bit) (m : MaskNo)
  /-- VRCP (R420): Correctly rounded reciprocal. -/
  | vrcp (d : Ent) (a : Ent) (x : Bit) (m : MaskNo)
  /-- VRSQRT (R420): Correctly rounded reciprocal square root. -/
  | vrsqrt (d : Ent) (a : Ent) (x : Bit) (m : MaskNo)
  /-- VEXP2 (R420): Correctly rounded base-2 exponential. -/
  | vexp2 (d : Ent) (a : Ent) (x : Bit) (m : MaskNo)
  /-- VAND (R412): Element-wise bitwise AND. -/
  | vand (d : Ent) (a : Ent) (b : Ent) (x : Bit) (y : Bit) (m : MaskNo)
  /-- VOR (R412): Element-wise bitwise OR. -/
  | vor (d : Ent) (a : Ent) (b : Ent) (x : Bit) (y : Bit) (m : MaskNo)
  /-- VXOR (R412): Element-wise bitwise XOR. -/
  | vxor (d : Ent) (a : Ent) (b : Ent) (x : Bit) (y : Bit) (m : MaskNo)
  /-- VNOT (R412): Element-wise bitwise NOT. -/
  | vnot (d : Ent) (a : Ent) (x : Bit) (m : MaskNo)
  /-- VSHL (R412): Element-wise left shift by vector amounts. -/
  | vshl (d : Ent) (a : Ent) (b : Ent) (x : Bit) (y : Bit) (m : MaskNo)
  /-- VSHR (R412): Element-wise logical right shift. -/
  | vshr (d : Ent) (a : Ent) (b : Ent) (x : Bit) (y : Bit) (m : MaskNo)
  /-- VSRA (R412): Element-wise arithmetic right shift. -/
  | vsra (d : Ent) (a : Ent) (b : Ent) (x : Bit) (y : Bit) (m : MaskNo)
  /-- VCMP_EQ (R416): Compares for equality into a mask. -/
  | vcmpEq (d : MaskNo) (a : Ent) (b : Ent) (x : Bit) (y : Bit) (m : MaskNo)
  /-- VCMP_NE (R416): Compares for inequality into a mask. -/
  | vcmpNe (d : MaskNo) (a : Ent) (b : Ent) (x : Bit) (y : Bit) (m : MaskNo)
  /-- VCMP_LT (R416): Compares less-than into a mask. -/
  | vcmpLt (d : MaskNo) (a : Ent) (b : Ent) (x : Bit) (y : Bit) (m : MaskNo)
  /-- VCMP_LE (R416): Compares less-or-equal into a mask. -/
  | vcmpLe (d : MaskNo) (a : Ent) (b : Ent) (x : Bit) (y : Bit) (m : MaskNo)
  /-- VCMP_UN (R416): Tests for unordered operands into a mask. -/
  | vcmpUn (d : MaskNo) (a : Ent) (b : Ent) (x : Bit) (y : Bit) (m : MaskNo)
  /-- VSEL (R423): Selects va or vb element by element under a selector mask, which must be non-zero. -/
  | vsel (d : Ent) (a : Ent) (b : Ent) (x : Bit) (y : Bit) (m : MaskNo)
  /-- VMOV (R423): Copies element bits between shapes of one width. -/
  | vmov (d : Ent) (a : Ent) (x : Bit) (m : MaskNo)
  /-- VIDX (R423): Writes each element's index. -/
  | vidx (d : Ent) (m : MaskNo)
  /-- VCVT_RM (R418): Converts elements with an explicit rounding mode (fn 0 to 5). -/
  | vcvtRm (d : Ent) (a : Ent) (x : Bit) (m : MaskNo) (r : BitVec 3)
  /-- VCVT (R418): Converts elements with ROUND.MODE. -/
  | vcvt (d : Ent) (a : Ent) (x : Bit) (m : MaskNo)
  /-- VRSUM (R430): Tree sum reduction into element 0. -/
  | vrsum (d : Ent) (a : Ent) (x : Bit) (m : MaskNo)
  /-- VRMAX (R430): Tree maximum reduction. -/
  | vrmax (d : Ent) (a : Ent) (x : Bit) (m : MaskNo)
  /-- VRMIN (R430): Tree minimum reduction. -/
  | vrmin (d : Ent) (a : Ent) (x : Bit) (m : MaskNo)
  /-- VSCAN (R430): Inclusive running sum with one rounding per step. -/
  | vscan (d : Ent) (a : Ent) (x : Bit) (m : MaskNo)
  /-- VRSUM_SEG (R430): Segmented sum reduction with segment flags in a mask. -/
  | vrsumSeg (d : Ent) (a : Ent) (x : Bit) (m : MaskNo)
  /-- VRMAX_SEG (R430): Segmented maximum reduction. -/
  | vrmaxSeg (d : Ent) (a : Ent) (x : Bit) (m : MaskNo)
  /-- VRMIN_SEG (R430): Segmented minimum reduction. -/
  | vrminSeg (d : Ent) (a : Ent) (x : Bit) (m : MaskNo)
  /-- VSCAN_SEG (R430): Segmented running sum. -/
  | vscanSeg (d : Ent) (a : Ent) (x : Bit) (m : MaskNo)
  /-- VPERM (R429): Permutes elements by an index vector. -/
  | vperm (d : Ent) (a : Ent) (b : Ent) (x : Bit) (y : Bit) (m : MaskNo)
  /-- VCOMPR (R417): Compresses the selected elements to the front of vd. -/
  | vcompr (d : Ent) (a : Ent) (x : Bit) (m : MaskNo)
  /-- VEXPND (R417): Expands consecutive elements into the selected positions. -/
  | vexpnd (d : Ent) (a : Ent) (x : Bit) (m : MaskNo)
  /-- VNMSEL (R428): Keeps the n largest-magnitude elements of each group of M and writes their positions. -/
  | vnmsel (d : Ent) (a : Ent) (b : Ent) (x : Bit)
  /-- VQNT (R419): Block-quantises into codes and scales. -/
  | vqnt (d : Ent) (a : Ent) (b : Ent) (x : Bit)
  /-- VDQNT (R419): Dequantises codes with their block scales. -/
  | vdqnt (d : Ent) (a : Ent) (b : Ent) (x : Bit) (y : Bit)
  /-- VHAD (R422): Performs one Hadamard butterfly stage into the plane. -/
  | vhad (d : Ent) (a : Ent) (k : BitVec 6) (x : Bit)
  /-- VHAD_C (R422): Performs a Hadamard stage into the bypass v63. -/
  | vhadC (a : Ent) (k : BitVec 6) (x : Bit)
  /-- CPIX (R350): Probes and marks duplicates in the V queue, then hands a background gather to the engine. -/
  | cpix (d : Ent) (a : Ent) (b : Reg) (m : MaskNo) (t : BitVec 6)
  /-- VADD_SAT (R411): Saturating integer add. -/
  | vaddSat (d : Ent) (a : Ent) (b : Ent) (x : Bit) (y : Bit) (m : MaskNo)
  /-- VSUB_SAT (R411): Saturating integer subtract. -/
  | vsubSat (d : Ent) (a : Ent) (b : Ent) (x : Bit) (y : Bit) (m : MaskNo)
  /-- VMUL_SAT (R411): Saturating integer multiply. -/
  | vmulSat (d : Ent) (a : Ent) (b : Ent) (x : Bit) (y : Bit) (m : MaskNo)
  /-- VSHL_SAT (R412): Saturating integer left shift. -/
  | vshlSat (d : Ent) (a : Ent) (b : Ent) (x : Bit) (y : Bit) (m : MaskNo)
  /-- VADD_S (R410): Adds a scalar operand to each element. -/
  | vaddS (d : Ent) (a : Ent) (b : Reg) (x : Bit) (m : MaskNo)
  /-- VSUB_S (R410): Subtracts a scalar operand from each element. -/
  | vsubS (d : Ent) (a : Ent) (b : Reg) (x : Bit) (m : MaskNo)
  /-- VMUL_S (R410): Multiplies each element by a scalar operand. -/
  | vmulS (d : Ent) (a : Ent) (b : Reg) (x : Bit) (m : MaskNo)
  /-- VMIN_S (R410): Minimum of each element and a scalar operand. -/
  | vminS (d : Ent) (a : Ent) (b : Reg) (x : Bit) (m : MaskNo)
  /-- VMAX_S (R410): Maximum of each element and a scalar operand. -/
  | vmaxS (d : Ent) (a : Ent) (b : Reg) (x : Bit) (m : MaskNo)
  /-- VFMA_S (R420): Fused multiply-add with a scalar multiplier. -/
  | vfmaS (d : Ent) (a : Ent) (b : Reg) (x : Bit) (m : MaskNo)
  /-- VSHL_S (R412): Shifts each element left by a scalar amount. -/
  | vshlS (d : Ent) (a : Ent) (b : Reg) (x : Bit) (m : MaskNo)
  /-- VSHR_S (R412): Shifts each element right logically by a scalar amount. -/
  | vshrS (d : Ent) (a : Ent) (b : Reg) (x : Bit) (m : MaskNo)
  /-- VBCAST (R415): Broadcasts scalar bits into each element. -/
  | vbcast (d : Ent) (b : Reg) (m : MaskNo)
  /-- VEXTR (R415): Extracts one element into a scalar register. -/
  | vextr (d : Reg) (a : Ent) (b : Reg) (x : Bit)
  /-- VINS (R415): Inserts a scalar at element 0 and shifts va up by one. -/
  | vins (d : Ent) (a : Ent) (b : Reg) (x : Bit) (m : MaskNo)
  /-- VSLIDE (R415): Slides elements by a signed scalar offset, filling with zeros. -/
  | vslide (d : Ent) (a : Ent) (b : Reg) (x : Bit) (m : MaskNo)
  /-- VAPPEND (R413): Reserves slots with one atomic on TAIL and stores the active elements to a work vector. -/
  | vappend (a : Ent) (b : Reg) (x : Bit) (m : MaskNo)
  /-- VSRA_S (R412): Arithmetic right shift of each element by a scalar amount. -/
  | vsraS (d : Ent) (a : Ent) (b : Reg) (x : Bit) (m : MaskNo)
  /-- VLD (R424): Unit-stride vector load that also writes m0 expiry bits. -/
  | vld (v : Ent) (b : Reg) (m : MaskNo)
  /-- VLDS (R424): Strided vector load. -/
  | vlds (v : Ent) (b : Reg) (s : Reg) (m : MaskNo)
  /-- VLDF (R247): First-fault vector load that shortens VL at a fault beyond element 0. -/
  | vldf (v : Ent) (b : Reg) (m : MaskNo)
  /-- VST (R424): Unit-stride vector store. -/
  | vst (v : Ent) (b : Reg) (m : MaskNo)
  /-- VSTS (R424): Strided vector store. -/
  | vsts (v : Ent) (b : Reg) (s : Reg) (m : MaskNo)
  /-- VLDX (R427): Indexed vector load with a probe pass. -/
  | vldx (v : Ent) (b : Reg) (i : Ent) (c : Bit) (o : BitVec 2) (m : MaskNo)
  /-- VSTX_O (R427): Ordered scatter in which the highest index wins at a coinciding address. -/
  | vstxO (v : Ent) (b : Reg) (i : Ent) (c : Bit) (o : BitVec 2) (m : MaskNo)
  /-- VSTX_U (R427): Unordered scatter in which one coinciding element is written. -/
  | vstxU (v : Ent) (b : Reg) (i : Ent) (c : Bit) (o : BitVec 2) (m : MaskNo)
  /-- VLD2 (R424): Two-dimensional load of a RECT with a pitch. -/
  | vld2 (v : Ent) (b : Reg) (s : Reg) (m : MaskNo)
  /-- VST2 (R424): Two-dimensional store of a RECT with a pitch. -/
  | vst2 (v : Ent) (b : Reg) (s : Reg) (m : MaskNo)
  /-- MMR (R379): One matrix row-step into an accumulator row. -/
  | mmr (a : Ent) (p : BitVec 9) (c : BitVec 2) (x : Bit)
  /-- MMT (R379): Sequencer performs one row-step per row of a RECT. -/
  | mmt (a : Ent) (p : BitVec 9) (c : BitVec 2) (x : Bit)
  /-- ACCRD_RM (R334): Converts accumulator rows into a plane RECT with an explicit mode. -/
  | accrdRm (d : Ent) (p : BitVec 9) (r : BitVec 3)
  /-- ACCRD (R334): Converts accumulator rows into a plane RECT with ROUND.MODE. -/
  | accrd (d : Ent) (p : BitVec 9)
  /-- ACCWR (R337): Writes plane rows into accumulator rows exactly. -/
  | accwr (a : Ent) (p : BitVec 9) (x : Bit)
  /-- ACCWR_A (R337): Adds plane rows into accumulator rows. -/
  | accwrA (a : Ent) (p : BitVec 9) (x : Bit)
  /-- ACCSC (R335): Scales accumulator rows by DECAY. -/
  | accsc (n : BitVec 6) (p : BitVec 9)
  /-- ACCZ (R335): Zeroes accumulator rows. -/
  | accz (n : BitVec 6) (p : BitVec 9)
  /-- LDST (R371): Loads a stationary tile from memory into the shadow buffer. -/
  | ldst (a : Reg) (b : Reg) (f : Bit) (g : BitVec 2) (t : BitVec 4)
  /-- SWST (R404): Swaps the active and shadow stationary buffers in a single seat. -/
  | swst
  /-- LDSTP (R372): Loads a stationary tile from a plane RECT. -/
  | ldstp (a : Ent) (x : Bit)
  /-- DEFR (R351): Defines a shape-table entry at issue. -/
  | defr (d : Ent) (a : Reg) (b : Reg)
  /-- SHRD (R399): Reads a shape entry's geometry and format into scalars. -/
  | shrd (a : Ent) (g : Reg) (f : Reg)
  /-- LAYOUT (R369): Defines n uniform row strips in v0 onward and sets MAXVL. -/
  | layout (n : BitVec 6) (f : BitVec 5)
  /-- SETVL (R397): Sets VL from a scalar, bounded by MAXVL. -/
  | setvl (d : Reg) (a : Reg)
  /-- PZERO (R387): Zeroes the elements of a shape. -/
  | pzero (d : Ent)
  /-- REPF (R391): Captures the next n instructions and replays them k times with shifted fields. -/
  | repf (v : BitVec 6) (n : BitVec 5) (k : BitVec 5) (c : BitVec 7)
  /-- MAND (R375): Mask AND. -/
  | mand (d : MaskNo) (a : MaskNo) (b : MaskNo)
  /-- MOR (R375): Mask OR. -/
  | mor (d : MaskNo) (a : MaskNo) (b : MaskNo)
  /-- MXOR (R375): Mask XOR. -/
  | mxor (d : MaskNo) (a : MaskNo) (b : MaskNo)
  /-- MANDN (R375): Mask AND NOT. -/
  | mandn (d : MaskNo) (a : MaskNo) (b : MaskNo)
  /-- MNOT (R375): Mask NOT. -/
  | mnot (d : MaskNo) (a : MaskNo)
  /-- MPOP (R375): Counts the mask bits set below VL into a scalar. -/
  | mpop (d : Reg) (a : MaskNo)
  /-- MFIRST (R375): Finds the lowest set mask bit below VL, or -1. -/
  | mfirst (d : Reg) (a : MaskNo)
  /-- MSETN (R375): Sets the first c bits of a mask. -/
  | msetn (d : MaskNo) (a : Reg)
  /-- FRNW (R174): Renews a live fleeting tile and returns LIFE, or returns 0. -/
  | frnw (d : Reg) (a : Reg)
  /-- FLIFE (R175): Returns a fleeting tile's remaining life. -/
  | flife (d : Reg) (a : Reg)
  /-- FINIT (R173): Fills a fleeting tile, stamps its birth and makes it live. -/
  | finit (a : Reg) (b : Reg)
  /-- CPCFG (R346): Reads a descriptor and queues a PREFETCH or COPY transfer on a channel. -/
  | cpcfg (a : Reg) (b : Reg) (c : BitVec 2)
  /-- CPDRN (R349): Waits until a channel's earlier copy commands have completed. -/
  | cpdrn (c : BitVec 2)
  /-- CPXF (R346): Queues a transform-routine transfer on a channel. -/
  | cpxf (a : Reg) (b : Reg) (c : BitVec 2)
  /-- CPIMG (R346): Queues the writing of a compressed image into compressed slots. -/
  | cpimg (a : Reg) (b : Reg) (c : BitVec 2)
  /-- TWALL (R405): Waits until every tag of a mask is set. -/
  | twall (a : Reg)
  /-- TWANY (R405): Waits until any tag of a mask is set and returns the lowest. -/
  | twany (d : Reg) (a : Reg)
  /-- TFFR (R405): Returns the lowest set tag of a mask without waiting. -/
  | tffr (d : Reg) (a : Reg)
  /-- TCLR (R405): Clears the TAGS and TAGFAULT bits of a mask. -/
  | tclr (a : Reg)
  /-- SAPP (R229): Appends a sample to the egress ring at the generation cursor. -/
  | sapp (d : Reg) (a : Reg) (b : Reg)
  /-- SCKP (R230): Saves accumulator rows into the next checkpoint slot with a tag. -/
  | sckp (d : Reg) (a : Reg) (b : Reg)
  /-- SCUR (R231): Reads a stream cursor (codes 0 to 6). -/
  | scur (d : Reg) (a : Reg) (c : BitVec 3)
  /-- SCUR_ARM (R231): Makes the seat the stream's watcher, resets its tag and sets it if a barge is pending. -/
  | scurArm (d : Reg) (a : Reg)
  /-- SRECV (R233): Takes the oldest input descriptor as an acquire, trapping on late frames if LTRAP is set. -/
  | srecv (d : Reg) (a : Reg) (b : Reg)
  /-- STRUNC (R235): Truncates the stream to the pending barge position and returns the checkpoint to reload. -/
  | strunc (d : Reg) (a : Reg)
  /-- GCAST (R361): Group broadcast command queued on the X queue. -/
  | gcast (a : Reg) (g : BitVec 2)
  /-- GRED (R362): Group reduction command queued on the X queue. -/
  | gred (a : Reg) (g : BitVec 2)
  /-- VFORK (R421): Forks the active lanes into virtual processors. -/
  | vfork (a : Reg) (m : MaskNo)
  /-- VJOIN (R421): Waits until every virtual processor of the fork has exited. -/
  | vjoin (d : Reg)
  /-- LFETCH (R373): A virtual processor starts fetching a 512-byte block into the lane buffer. -/
  | lfetch (a : Reg)
  /-- LEXIT (R373): Ends a virtual processor; the last exit ends the fork. -/
  | lexit
  /-- TRAP (R408): Raises a software trap with EVAL from s[sa]. -/
  | trap (a : Reg)
  /-- ERET (R353): Returns from a trap, re-issuing set-aside commands. -/
  | eret
  /-- MFSR (R378): Reads a special register, waiting where its rule requires. -/
  | mfsr (d : Reg) (h : BitVec 5) (l : BitVec 5)
  /-- MTSR (R378): Writes a special register that has no row of its own. -/
  | mtsr (a : Reg) (h : BitVec 5) (l : BitVec 5)
  /-- HALT (R366): Ends the control thread; the seat drains its queues. -/
  | halt
  /-- BRK (R343): Raises a precise breakpoint trap. -/
  | brk
  /-- TMARK (R407): Offers a value as a Barograph trigger and writes a MARK record. -/
  | tmark (a : Reg)
  /-- TLBI (R406): Invalidates translations package-wide and waits for acknowledgements. -/
  | tlbi (a : Reg) (f : BitVec 2)
  /-- JR (R368): Jumps to the address in a register. -/
  | jr (a : Reg)
  /-- RET (R393): Pops the return stack, refilling if empty, and jumps. -/
  | ret
  /-- YIELD (R433): Offers issue to the other ready resident seat. -/
  | yield
  /-- WAITE (R431): Waits until DEVTIME reaches a deadline. -/
  | waite (a : Reg)
  /-- BARRIER_EPISODE_COMPLETE (R356): A barrier episode completes once every member has arrived, finished or failed, releasing the waiters. -/
  | barrierEpisodeComplete (ctx launch group : Nat) (gbar : Bool)
  /-- CPIX_GATHER_COMPLETE (R190): The background gather finishes writing vd and sets its tag, with CPIXERR on a fault. -/
  | cpixGatherComplete (seat tag : Nat)
  /-- COPY_TRANSFER_COMPLETE (R188): A COPY transfer ends, writes RESULT and EADDR and sets its tag. -/
  | copyTransferComplete (seat ch : Nat)
  /-- OPERANDS_CONSUMED (R347): Once every source byte has been read, the engine sets OCTAG. -/
  | operandsConsumed (seat ch : Nat)
  /-- PREFETCH_COMPLETE (R187): A PREFETCH transfer completes when exhausted or ended early, writing RESULT and setting its tag. -/
  | prefetchComplete (seat ch : Nat)
  /-- IMAGE_COMPLETE (R199): A CPIMG ends after its last tile or at a bad encoding or fault, and sets its tag. -/
  | imageComplete (seat ch : Nat)
  /-- ROUTINE_YIELD (R198): A routine's ECALL yield drains SB1 and refills SB0 with the next chunk. -/
  | routineYield (seat ch : Nat) (bytes : List Byte)
  /-- ROUTINE_DONE (R198): A routine's ECALL done drains the last bytes and completes the CPXF. -/
  | routineDone (seat ch : Nat) (bytes : List Byte)
  /-- ROUTINE_FAIL (R198): A routine's ECALL fail ends the command with CAUSE TRAP. -/
  | routineFail (seat ch : Nat) (code : Byte)
  /-- ROUTINE_ILLEGAL_ACCESS (R197): An access outside the routine's map or an illegal instruction ends the command. -/
  | routineIllegalAccess (seat ch : Nat) (illegal : Bool)
  /-- COLLECTIVE_PART_START (R360): Once every unfinished member has issued its command, the package's part starts, or every member fails on a mismatch. -/
  | collectivePartStart (ctx : Nat) (collid : Word)
  /-- MULTICAST_CHUNK_ARRIVAL (R361): A received multicast chunk or contribution is written at DST or combined. -/
  | multicastChunkArrival (ctx : Nat) (collid : Word) (rank offset : Nat) (bytes : List Byte)
  /-- COLLECTIVE_PART_COMPLETE (R363): The package's part completes or fails; RESULT is written and each member's tag is set. -/
  | collectivePartComplete (ctx : Nat) (collid : Word)
  /-- LANE_BLOCK_FETCH_DONE (R49): A lane cluster's block fetch completes, and waiting VPs can issue. -/
  | laneBlockFetchDone (seat cluster block : Nat)
  /-- WAITE_DEADLINE (R431): DEVTIME reaches a waiting seat's deadline and the WAITE completes. -/
  | waiteDeadline (seat : Nat)
  /-- MTSR_PTROOT (R140): A privileged write sets the context's page-table root for later walks. -/
  | mtsrPtroot (a : Reg)
  /-- MTSR_CVTDAT (R189): Writes a conversion-table entry in every die's engines and increments CVTIDX. -/
  | mtsrCvtdat (a : Reg)
  /-- MTSR_CTXLK (R264): Names a context by VI and handle for a later lookup. -/
  | mtsrCtxlk (a : Reg)
  /-- MFSR_CTXLK (R264): Looks up the named context's CIN in the master table, or sets NONE. -/
  | mfsrCtxlk (d : Reg)
  /-- MTSR_VL (R68): Sets VL to the written value, bounded by MAXVL. -/
  | mtsrVl (a : Reg)
  /-- MTSR_SRDPTR (R289): Records consumed sample-buffer bytes, ignored if it would exceed SWPTR. -/
  | mtsrSrdptr (a : Reg)
  /-- MTSR_GUSTLVL (R277): Writes the seat's Gust CLAIM, counted from the next interval. -/
  | mtsrGustlvl (a : Reg)
  /-- MTSR_STATUS (R167): Writes the sticky EXP and LIFECHG bits only. -/
  | mtsrStatus (a : Reg)
  /-- MTSR_EXCFLAGS (R96): Waits for earlier V and M commands, then writes the flags. -/
  | mtsrExcflags (a : Reg)
  /-- SEAT_SWITCH (R42): Issue passes to the other ready seat when the holder stops issuing, at a cost of 24 cycles. -/
  | seatSwitch (core : Nat)
  /-- ISSUE_SHARE_SPENT (R42): After 4096 cycles held while the other seat was ready, issue switches seats. -/
  | issueShareSpent (core : Nat)
  /-- TRAP_ENTRY (R241): A late fault detected by its queue enters the seat's handler, setting aside dependent commands. -/
  | trapEntry (seat pos : Nat)
  /-- PAGE_PARK_TIMEOUT (R248): 50 microseconds after parking without the page, the seat is saved. -/
  | pageParkTimeout (seat : Nat)
  /-- PAGE_ANSWER_TIMEOUT (R248): After 100 ms without an answer, the seat takes the XLATE NOTVALID trap. -/
  | pageAnswerTimeout (ctx : Nat) (node : Word)
  /-- DISPATCH_BIND (R34): When a seat, transform core or fabric slot frees, the dispatcher binds the best eligible ready node. -/
  | dispatchBind
  /-- PREEMPT (R251): The collector stops issue in a seat and tells its engines to stop at their boundaries. -/
  | preempt (seat : Nat) (cause : StopCause)
  /-- PREEMPT_DECLARED (R251): Once every engine has acknowledged, the seat is declared pre-empted and its save begins. -/
  | preemptDeclared (stop : EngineStop)
  /-- SAVE_COMPLETE (R253): The seat's state and dirty bytes are written and the seat becomes free. -/
  | saveComplete (seat : Nat)
  /-- RESTORE (R254): A saved node bound to a new seat has its state restored and resumes. -/
  | restore (ctx : Nat) (node : Word) (seat : Nat)
  /-- FUSION_CHANGE (R37): The dispatcher changes a quad's L1 fusion mode, writing back and invalidating in 2 microseconds. -/
  | fusionChange (quad : Nat)
  /-- NODE_FINISH (R30): A node finishes, makes its stores visible and decrements its successors' PREDCNT in order. -/
  | nodeFinish (ctx : Nat) (node : Word)
  /-- LAUNCH_COMPLETE (R33): A launch completes and its launch record is sent to the host. -/
  | launchComplete (ctx launch : Nat)
  /-- DOORBELL (R302): A host atomic advances a VI's doorbell counter, making command entries available. -/
  | doorbell (vi : Nat) (ring : RingWrite)
  /-- CREATE_CTX (R436): Creates a context with the lowest free handle and CTX. -/
  | createCtx (vi root : Nat)
  /-- MAP (R434): Firmware allocates frames and writes leaves for a range. -/
  | map (vi : Nat) (frames tables : List Nat)
  /-- LOAD_GRAPH (R436): Checks and validates a node array and returns a launch identifier. -/
  | loadGraph (vi : Nat)
  /-- LAUNCH (R303): Starts a loaded graph once and releases nodes with zero PREDCNT. -/
  | launch (vi : Nat)
  /-- QUERY_CONTEXT (R303): Writes context information to the host by RMA. -/
  | queryContext (vi : Nat) (info : List Byte)
  /-- QUERY_LAUNCH (R303): Writes launch information to the host by RMA. -/
  | queryLaunch (vi : Nat) (info : List Byte)
  /-- QUERY_ATTESTATION (R308): Builds and signs an attestation report with the host nonce. -/
  | queryAttestation (vi : Nat) (nonce signature : List Byte)
  /-- KILL (R260): Advances INC, discards the context's seats and nodes, resets its streams and starts the reclaim sweep. -/
  | kill (by_ : Killer)
  /-- RECLAIM (R303): Host command that completes when the previous incarnation's reclaim completes. -/
  | reclaim (vi : Nat)
  /-- RECLAIM_COMPLETE (R262): The sweep finishes; old lines, TLB entries, tiles and streams are cleared and the waiters released. -/
  | reclaimComplete (ctx : Nat)
  /-- STREAM_NEW (R435): Checks a stream object and binds a stream handle. -/
  | streamNew (vi : Nat)
  /-- ROUTINE (R307): Authenticates and registers a transform-routine image for the VI. -/
  | routine (vi : Nat) (signer : Nat) (image : Option (List Byte))
  /-- PAGE (R303): Host answer to a page request: installs or refuses. -/
  | page (vi : Nat) (frames tables : List Nat)
  /-- DHALT (R297): Host debug halt of a node as an asynchronous stop and save. -/
  | dhalt (vi : Nat)
  /-- HOST_RMA_READ (R437): A host RMA read translates through the context and is served by memory type. -/
  | hostRmaRead (vi handle : Nat) (va : Word) (len : Nat)
  /-- HOST_RMA_WRITE (R437): A host RMA write is performed by memory type, reaching all replicas. -/
  | hostRmaWrite (vi handle : Nat) (va : Word) (bytes : List Byte)
  /-- HOST_ATOMIC (R437): A host atomic into context memory is performed or refused. -/
  | hostAtomic (vi handle : Nat) (va : Word) (fn : AtomFn) (wide uns : Bool) (op cmp : Word)
  /-- CONNECTION_SETUP (R299): A peer connection is set up, or refused if it negotiates an unsupported option. -/
  | connectionSetup (port : Nat) (opts : ConnOpts)
  /-- PACKET_INGRESS (R301): Fabric ingress delivers a packet to the VI whose keys it carries, or drops it. -/
  | packetIngress (port peer keySet : Nat) (foreign : Bool) (payload : Packet)
  /-- FRAME_ARRIVAL (R232): An input frame is dropped, stored as late, or accepted, possibly setting a barge. -/
  | frameArrival (vi handle stream : Nat) (media payload : Word) (len : BitVec 32) (barge : Bool)
  /-- PLAYBACK_ACK (R226): A remote acknowledgement advances the playback cursor and removes heard egress entries. -/
  | playbackAck (ctx stream : Nat) (q : Word)
  /-- EGRESS_SEND (R229): The egress engine sends queued entries and cancel markers in position order. -/
  | egressSend (ctx stream : Nat)
  /-- UNIT_REQUEST_ARRIVAL (R261): A unit compares an arriving request's CIN and drops it if stale. -/
  | unitRequestArrival (cin : BitVec 18) (addr : Nat) (req : UnitRequest)
  /-- RESPONSE_ARRIVAL (R261): A response is discarded unless the requester's occupant holds its CIN. -/
  | responseArrival (owner : Nat) (cin : BitVec 18) (dest : Requester)
  /-- PAGE_WALK (R142): A walker walks the tables, setting A and D or raising XLATE. -/
  | pageWalk (quad ctx : Nat) (va : Word) (store : Bool)
  /-- L1_EVICTION (R203): The L1 evicts a line and writes back its dirty bytes. -/
  | l1Eviction (core line : Nat)
  /-- COMPRESSED_TILE_FILL (R155): An LLC miss on a compressed tile reads, checks and expands its encoding and fills four lines. -/
  | compressedTileFill (pa : Nat)
  /-- TILE_EXPIRY (R166): A fleeting tile stops being live once its age reaches LIFE. -/
  | tileExpiry (tile : Nat)
  /-- FLEET_SWEEP (R178): Each array sweeps its tiles and marks EXPD on every tile no longer live. -/
  | fleetSweep (die : Nat)
  /-- JUNCTION_READING (R165): Every 1 ms the controller reads each die's hottest junction and adjusts LIFE and the hot state. -/
  | junctionReading (die : Nat) (temp : Int)
  /-- BALANCER_SAMPLE (R270): Every 0.5 microseconds a pair's balancer samples currents and adjusts clamps. -/
  | balancerSample (pair lower upper : Nat)
  /-- GUST_INTERVAL (R273): At each 4-microsecond boundary a pair grants levels, charges and refills its permit pool. -/
  | gustInterval (pair : Nat)
  /-- CHAIN_WITHDRAW (R279): Every 0.5 microseconds under clamp or excess current, one more chaining pair is withdrawn. -/
  | chainWithdraw (quad : Nat) (excess : Bool)
  /-- HBM_THERMAL_READING (R280): Every 1 ms each stack's controller reads its temperature and sets refresh and bandwidth cap. -/
  | hbmThermalReading (stack : Nat) (temp : Int)
  /-- HOLD_RETENTION (R283): 1 microsecond into an unbound hold, the quad lowers to retention voltage. -/
  | holdRetention (quad : Nat)
  /-- HOLD_GATE (R283): 20 microseconds into an unbound hold, the quad is fully gated. -/
  | holdGate (quad : Nat)
  /-- WAKE_RAMP_START (R284): The in-rush arbiter starts ramping a waking quad when a ramp slot is free. -/
  | wakeRampStart (die : Nat)
  /-- WAKE_RAMP_COMPLETE (R284): A 4-microsecond ramp ends and the quad resumes issue. -/
  | wakeRampComplete (quad : Nat)
  /-- PLACEMENT_EPOCH (R160): At each 1 ms epoch end, PLC 7 pages meeting the tests are queued for migration and counters restart. -/
  | placementEpoch
  /-- MIGRATION_MARK (R162): Firmware sets MIG and performs a shootdown. -/
  | migrationMark (ctx : Nat) (va : Word) (frame : Nat)
  /-- MIGRATION_COPY (R162): Firmware copies the frame as raw lines or a compressed image. -/
  | migrationCopy (ctx : Nat) (va : Word)
  /-- MIGRATION_SWITCH (R162): Firmware writes the new frame, clears MIG and performs a second shootdown. -/
  | migrationSwitch (ctx : Nat) (va : Word)
  /-- ROUTINE_WATCHDOG (R257): A routine overrunning 1024 cycles between ECALLs ends with TIMEOUT. -/
  | routineWatchdog (seat ch : Nat)
  /-- COLLECTOR_WATCHDOG (R257): An engine not acknowledging the collector in time stops the device. -/
  | collectorWatchdog (seat : Nat)
  /-- RECLAIM_WATCHDOG (R257): A reclaim sweep overrunning its budget stops the device. -/
  | reclaimWatchdog (ctx : Nat)
  /-- ECC_CORRECTED (R258): A single-bit error is corrected and counted for telemetry. -/
  | eccCorrected (unit : Nat)
  /-- ECC_UNCORRECTABLE (R259): An uncorrectable error in a context's data raises ECC by a synchronous or asynchronous stop. -/
  | eccUncorrectable (seat detail : Nat) (value : Word) (site : EccSite)
  /-- DEVICE_STOP (R259): An uncorrectable error in shared state stops every seat and engine until reset. -/
  | deviceStop (unit : Nat)
  /-- VSAMPLE_WRITE (R293): A sampled V-pipe instruction completes and writes its VSAMPLE record. -/
  | vsampleWrite (seat : Nat) (counts : List (BitVec 16)) (total : BitVec 32)
  /-- BAROGRAPH_ARM (R298): Firmware arms a die's Barograph for one core with triggers and a post count. -/
  | barographArm (die core vi : Nat) (start stop : BaroTrigger) (post : Nat)
  /-- BAROGRAPH_FREEZE (R298): P cycles after the stop trigger, the Barograph freezes. -/
  | barographFreeze (die : Nat)
  /-- BOOT (R306): At reset the boot ROM authenticates firmware and takes first sensor readings, or stays in recovery. -/
  | boot (version : Option Nat) (junctions hbm : List Int)
  /-- EFFECTIVE_PRIORITY_AGING (R34): Each millisecond after its ready time, a waiting node's effective priority rises by one, up to 7, which can let it pre-empt a running node by R40. -/
  | effectivePriorityAging (ctx : Nat) (node : Word)
  /-- WORD_NAMING_NO_INSTRUCTION (R311): Issuing a word that names no instruction, such as a reserved major or an unlisted fn, raises ILLOP with EVAL holding the word. -/
  | wordNamingNoInstruction (w : BitVec 32)
  /-- INSTRUCTION_FETCH_FAULT (R309): A fetch from a page with X = 0, an unreachable page or an untranslated page raises PROT or XLATE at the fetched address. -/
  | instructionFetchFault
  /-- PEER_ACKNOWLEDGEMENT (R361): A peer package or fabric target acknowledges a chunk or an X-queue command, which a GCAST root, PUB.s, FENCE.s or an .s atomic waits for. -/
  | peerAcknowledgement (ctx : Nat) (collid : Word)
  /-- VI_PROVISIONING (R301): The operator provisions a VI through the management endpoint, setting its fabric address, TSS keys, command ring, multicast group and registered routine keys. -/
  | viProvisioning (vi : Nat) (prov : ViProvision)
  /-- PROVISIONING_RECORD_WRITE (R139): The operator writes the provisioning record holding LG into the flash through the management endpoint, to take effect at the next reset. -/
  | provisioningRecordWrite (lg : Option Nat)
  /-- BAROGRAPH_STOP_COMMAND (R298): A host command serves as the Barograph's stop trigger, after which it freezes P cycles later. -/
  | barographStopCommand (die : Nat)
  /-- RETENTION_LOWERING_COMPLETE (R283): The quad's lowering to retention voltage, taking up to 2 microseconds, finishes, releasing any wake that waited for it. -/
  | retentionLoweringComplete (quad : Nat)
  deriving DecidableEq, Repr

end Sys2Proof
end

