-- ==== Sys2Proof/WellFormed.lean ====
section
/-!
DEFINITION. Sys2Proof/WellFormed.lean: the field values that an instruction's layout admits (R311). A term that fails
here has no word of its own: the word its fields would make names no instruction, or is another row's.
-/
namespace Sys2Proof

/-- The fields hold values that name an instruction (R311, Table 16.2 and the rules it points to). -/
def Instr.wf : Instr → Bool
  | .add _ _ _ => true
  | .addImm _ _ _ => true
  | .sub _ _ _ => true
  | .mul _ _ _ => true
  | .mulh _ _ _ => true
  | .mulhU _ _ _ => true
  | .div _ _ _ => true
  | .divU _ _ _ => true
  | .rem _ _ _ => true
  | .remU _ _ _ => true
  | .and _ _ _ => true
  | .andImm _ _ _ => true
  | .or _ _ _ => true
  | .orImm _ _ _ => true
  | .xor _ _ _ => true
  | .xorImm _ _ _ => true
  | .shl _ _ _ => true
  | .shr _ _ _ => true
  | .sra _ _ _ => true
  | .shlI _ _ _ _ => true
  | .shrI _ _ _ _ => true
  | .sraI _ _ _ _ => true
  | .slt _ _ _ => true
  | .sltU _ _ _ => true
  | .sltImm _ _ _ => true
  | .sltUImm _ _ _ => true
  | .min _ _ _ => true
  | .minU _ _ _ => true
  | .max _ _ _ => true
  | .maxU _ _ _ => true
  | .clz _ _ => true
  | .popc _ _ => true
  | .sel _ _ _ => true
  | .lui _ _ => true
  | .ldB _ _ _ => true
  | .ldBu _ _ _ => true
  | .ldH _ _ _ => true
  | .ldHu _ _ _ => true
  | .ldW _ _ _ => true
  | .ldWu _ _ _ => true
  | .ldD _ _ _ => true
  | .stB _ _ _ => true
  | .stH _ _ _ => true
  | .stW _ _ _ => true
  | .stD _ _ _ => true
  | .beq _ _ _ => true
  | .bne _ _ _ => true
  | .blt _ _ _ => true
  | .bge _ _ _ => true
  | .bltU _ _ _ => true
  | .bgeU _ _ _ => true
  | .jmp _ => true
  | .jal _ => true
  | .strip _ _ _ => true
  | .btag _ c _ => decide (c.toNat ≤ 2)
  | .bmask _ c _ => decide (c.toNat ≤ 2)
  | .aadd _ _ _ _ _ => true
  | .amin _ _ _ _ _ _ => true
  | .amax _ _ _ _ _ _ => true
  | .aand _ _ _ _ _ => true
  | .aor _ _ _ _ _ => true
  | .axchg _ _ _ _ _ => true
  | .acas _ _ _ _ _ => true
  | .phase _ => true
  | .pub _ _ c => decide (c.toNat ≤ 4)
  | .acq _ _ c => decide (c.toNat ≤ 4)
  | .fence k => decide (k.toNat ≤ 6)
  | .qfence _ => true
  | .gbar _ => true
  | .barrierEpisodeComplete _ _ _ _ => true
  | .rclm _ => true
  | .vadd _ _ _ _ _ _ => true
  | .vsub _ _ _ _ _ _ => true
  | .vmul _ _ _ _ _ _ => true
  | .vdiv _ _ _ _ _ _ => true
  | .vmin _ _ _ _ _ _ => true
  | .vmax _ _ _ _ _ _ => true
  | .vabs _ _ _ _ => true
  | .vneg _ _ _ _ => true
  | .vfma _ _ _ _ _ _ => true
  | .vfms _ _ _ _ _ _ => true
  | .vsqrt _ _ _ _ => true
  | .vrcp _ _ _ _ => true
  | .vrsqrt _ _ _ _ => true
  | .vexp2 _ _ _ _ => true
  | .vand _ _ _ _ _ _ => true
  | .vor _ _ _ _ _ _ => true
  | .vxor _ _ _ _ _ _ => true
  | .vnot _ _ _ _ => true
  | .vshl _ _ _ _ _ _ => true
  | .vshr _ _ _ _ _ _ => true
  | .vsra _ _ _ _ _ _ => true
  | .vcmpEq _ _ _ _ _ _ => true
  | .vcmpNe _ _ _ _ _ _ => true
  | .vcmpLt _ _ _ _ _ _ => true
  | .vcmpLe _ _ _ _ _ _ => true
  | .vcmpUn _ _ _ _ _ _ => true
  | .vsel _ _ _ _ _ m => m != 0#3
  | .vmov _ _ _ _ => true
  | .vidx _ _ => true
  | .vcvtRm _ _ _ _ r => decide (r.toNat ≤ 5)
  | .vcvt _ _ _ _ => true
  | .vrsum _ _ _ _ => true
  | .vrmax _ _ _ _ => true
  | .vrmin _ _ _ _ => true
  | .vscan _ _ _ _ => true
  | .vrsumSeg _ _ _ m => m != 0#3
  | .vrmaxSeg _ _ _ m => m != 0#3
  | .vrminSeg _ _ _ m => m != 0#3
  | .vscanSeg _ _ _ m => m != 0#3
  | .vperm _ _ _ _ _ _ => true
  | .vcompr _ _ _ m => m != 0#3
  | .vexpnd _ _ _ m => m != 0#3
  | .vnmsel _ _ _ _ => true
  | .vqnt _ _ _ _ => true
  | .vdqnt _ _ _ _ _ => true
  | .vhad _ _ _ _ => true
  | .vhadC _ _ _ => true
  | .cpix _ _ _ _ t => t != 63#6
  | .cpixGatherComplete _ _ => true
  | .vaddSat _ _ _ _ _ _ => true
  | .vsubSat _ _ _ _ _ _ => true
  | .vmulSat _ _ _ _ _ _ => true
  | .vshlSat _ _ _ _ _ _ => true
  | .vaddS _ _ _ _ _ => true
  | .vsubS _ _ _ _ _ => true
  | .vmulS _ _ _ _ _ => true
  | .vminS _ _ _ _ _ => true
  | .vmaxS _ _ _ _ _ => true
  | .vfmaS _ _ _ _ _ => true
  | .vshlS _ _ _ _ _ => true
  | .vshrS _ _ _ _ _ => true
  | .vbcast _ _ _ => true
  | .vextr _ _ _ _ => true
  | .vins _ _ _ _ _ => true
  | .vslide _ _ _ _ _ => true
  | .vappend _ _ _ _ => true
  | .vsraS _ _ _ _ _ => true
  | .vld _ _ _ => true
  | .vlds _ _ _ _ => true
  | .vldf _ _ _ => true
  | .vst _ _ _ => true
  | .vsts _ _ _ _ => true
  | .vldx _ _ _ _ o _ => decide (o.toNat ≤ 1)
  | .vstxO _ _ _ _ o _ => decide (o.toNat ≤ 1)
  | .vstxU _ _ _ _ o _ => decide (o.toNat ≤ 1)
  | .vld2 _ _ _ _ => true
  | .vst2 _ _ _ _ => true
  | .mmr _ _ _ _ => true
  | .mmt _ _ _ _ => true
  | .accrdRm _ _ r => decide (r.toNat ≤ 5)
  | .accrd _ _ => true
  | .accwr _ _ _ => true
  | .accwrA _ _ _ => true
  | .accsc _ _ => true
  | .accz _ _ => true
  | .ldst _ _ _ _ _ => true
  | .swst => true
  | .ldstp _ _ => true
  | .defr _ _ _ => true
  | .shrd _ g f => (g != f || g == 0#5)
  | .layout n _ => decide (n.toNat ≤ 5)
  | .setvl _ _ => true
  | .pzero _ => true
  | .repf _ n _ _ => decide (n.toNat ≤ 15)
  | .mand _ _ _ => true
  | .mor _ _ _ => true
  | .mxor _ _ _ => true
  | .mandn _ _ _ => true
  | .mnot _ _ => true
  | .mpop _ _ => true
  | .mfirst _ _ => true
  | .msetn _ _ => true
  | .frnw _ _ => true
  | .flife _ _ => true
  | .finit _ _ => true
  | .cpcfg _ _ _ => true
  | .cpdrn _ => true
  | .cpxf _ _ _ => true
  | .cpimg _ _ _ => true
  | .copyTransferComplete _ _ => true
  | .operandsConsumed _ _ => true
  | .prefetchComplete _ _ => true
  | .imageComplete _ _ => true
  | .routineYield _ _ _ => true
  | .routineDone _ _ _ => true
  | .routineFail _ _ _ => true
  | .routineIllegalAccess _ _ _ => true
  | .twall _ => true
  | .twany _ _ => true
  | .tffr _ _ => true
  | .tclr _ => true
  | .sapp _ _ _ => true
  | .sckp _ _ _ => true
  | .scur _ _ c => decide (c.toNat ≤ 6)
  | .scurArm _ _ => true
  | .srecv _ _ _ => true
  | .strunc _ _ => true
  | .gcast _ _ => true
  | .gred _ _ => true
  | .collectivePartStart _ _ => true
  | .multicastChunkArrival _ _ _ _ _ => true
  | .collectivePartComplete _ _ => true
  | .vfork _ _ => true
  | .vjoin _ => true
  | .lfetch _ => true
  | .lexit => true
  | .laneBlockFetchDone _ _ _ => true
  | .trap _ => true
  | .eret => true
  | .mfsr _ _ _ => true
  | .mtsr _ _ _ => true
  | .halt => true
  | .brk => true
  | .tmark _ => true
  | .tlbi _ f => f != 3#2
  | .jr _ => true
  | .ret => true
  | .yield => true
  | .waite _ => true
  | .waiteDeadline _ => true
  | .mtsrPtroot _ => true
  | .mtsrCvtdat _ => true
  | .mtsrCtxlk _ => true
  | .mfsrCtxlk _ => true
  | .mtsrVl _ => true
  | .mtsrSrdptr _ => true
  | .mtsrGustlvl _ => true
  | .mtsrStatus _ => true
  | .mtsrExcflags _ => true
  | .seatSwitch _ => true
  | .issueShareSpent _ => true
  | .trapEntry _ _ => true
  | .pageParkTimeout _ => true
  | .pageAnswerTimeout _ _ => true
  | .dispatchBind => true
  | .preempt _ _ => true
  | .preemptDeclared _ => true
  | .saveComplete _ => true
  | .restore _ _ _ => true
  | .fusionChange _ => true
  | .nodeFinish _ _ => true
  | .launchComplete _ _ => true
  | .doorbell _ _ => true
  | .createCtx _ _ => true
  | .map _ _ _ => true
  | .loadGraph _ => true
  | .launch _ => true
  | .queryContext _ _ => true
  | .queryLaunch _ _ => true
  | .queryAttestation _ _ _ => true
  | .kill _ => true
  | .reclaim _ => true
  | .reclaimComplete _ => true
  | .streamNew _ => true
  | .routine _ _ _ => true
  | .page _ _ _ => true
  | .dhalt _ => true
  | .hostRmaRead _ _ _ _ => true
  | .hostRmaWrite _ _ _ _ => true
  | .hostAtomic _ _ _ _ _ _ _ _ => true
  | .connectionSetup _ _ => true
  | .packetIngress _ _ _ _ _ => true
  | .frameArrival _ _ _ _ _ _ _ => true
  | .playbackAck _ _ _ => true
  | .egressSend _ _ => true
  | .unitRequestArrival _ _ _ => true
  | .responseArrival _ _ _ => true
  | .pageWalk _ _ _ _ => true
  | .l1Eviction _ _ => true
  | .compressedTileFill _ => true
  | .tileExpiry _ => true
  | .fleetSweep _ => true
  | .junctionReading _ _ => true
  | .balancerSample _ _ _ => true
  | .gustInterval _ => true
  | .chainWithdraw _ _ => true
  | .hbmThermalReading _ _ => true
  | .holdRetention _ => true
  | .holdGate _ => true
  | .wakeRampStart _ => true
  | .wakeRampComplete _ => true
  | .placementEpoch => true
  | .migrationMark _ _ _ => true
  | .migrationCopy _ _ => true
  | .migrationSwitch _ _ => true
  | .routineWatchdog _ _ => true
  | .collectorWatchdog _ => true
  | .reclaimWatchdog _ => true
  | .eccCorrected _ => true
  | .eccUncorrectable _ _ _ _ => true
  | .deviceStop _ => true
  | .vsampleWrite _ _ _ => true
  | .barographArm _ _ _ _ _ _ => true
  | .barographFreeze _ => true
  | .boot _ _ _ => true
  | .effectivePriorityAging _ _ => true
  | .wordNamingNoInstruction _ => true
  | .instructionFetchFault => true
  | .peerAcknowledgement _ _ => true
  | .viProvisioning _ _ => true
  | .provisioningRecordWrite _ => true
  | .barographStopCommand _ => true
  | .retentionLoweringComplete _ => true

end Sys2Proof
end

