-- ==== Sys2Proof/Decode.lean ====
section
/-!
DEFINITION. Sys2Proof/Decode.lean: from bytes to an instruction (R309 to R312, R317, R318) and back. `decodeWord` reads
a word by its major, its fn (or ctl, code, condition) and the fields its layout fixes at 0; every word that names no
instruction is refused with `DecodeError.namesNone`.
-/
namespace Sys2Proof

/-- Why bytes decode to no instruction. -/
inductive DecodeError where
  /-- fewer than four bytes -/
  | short
  /-- a word that names no instruction (R311) -/
  | namesNone (w : BitVec 32)
  deriving DecidableEq, Repr

/-- Bits [lo+n−1 : lo] of an instruction word. -/
abbrev field (w : BitVec 32) (lo n : Nat) : BitVec n := w.extractLsb' lo n


/-- The rows of major 0x00 (Table 16.2). -/
def decodeMajor00 (w : BitVec 32) : Option Instr :=
  if field w 0 11 = 0#11 then some (.add (field w 21 5) (field w 16 5) (field w 11 5))
  else if field w 0 11 = 1#11 then some (.sub (field w 21 5) (field w 16 5) (field w 11 5))
  else if field w 0 11 = 2#11 then some (.mul (field w 21 5) (field w 16 5) (field w 11 5))
  else if field w 0 11 = 3#11 then some (.mulh (field w 21 5) (field w 16 5) (field w 11 5))
  else if field w 0 11 = 4#11 then some (.mulhU (field w 21 5) (field w 16 5) (field w 11 5))
  else if field w 0 11 = 5#11 then some (.div (field w 21 5) (field w 16 5) (field w 11 5))
  else if field w 0 11 = 6#11 then some (.divU (field w 21 5) (field w 16 5) (field w 11 5))
  else if field w 0 11 = 7#11 then some (.rem (field w 21 5) (field w 16 5) (field w 11 5))
  else if field w 0 11 = 8#11 then some (.remU (field w 21 5) (field w 16 5) (field w 11 5))
  else if field w 0 11 = 9#11 then some (.and (field w 21 5) (field w 16 5) (field w 11 5))
  else if field w 0 11 = 10#11 then some (.or (field w 21 5) (field w 16 5) (field w 11 5))
  else if field w 0 11 = 11#11 then some (.xor (field w 21 5) (field w 16 5) (field w 11 5))
  else if field w 0 11 = 12#11 then some (.shl (field w 21 5) (field w 16 5) (field w 11 5))
  else if field w 0 11 = 13#11 then some (.shr (field w 21 5) (field w 16 5) (field w 11 5))
  else if field w 0 11 = 14#11 then some (.sra (field w 21 5) (field w 16 5) (field w 11 5))
  else if field w 7 4 = 0#4 ∧ field w 0 6 = 24#6 then some (.shlI (field w 21 5) (field w 16 5) (field w 11 5) (field w 6 1))
  else if field w 7 4 = 0#4 ∧ field w 0 6 = 25#6 then some (.shrI (field w 21 5) (field w 16 5) (field w 11 5) (field w 6 1))
  else if field w 7 4 = 0#4 ∧ field w 0 6 = 26#6 then some (.sraI (field w 21 5) (field w 16 5) (field w 11 5) (field w 6 1))
  else if field w 0 11 = 15#11 then some (.slt (field w 21 5) (field w 16 5) (field w 11 5))
  else if field w 0 11 = 16#11 then some (.sltU (field w 21 5) (field w 16 5) (field w 11 5))
  else if field w 0 11 = 17#11 then some (.min (field w 21 5) (field w 16 5) (field w 11 5))
  else if field w 0 11 = 18#11 then some (.minU (field w 21 5) (field w 16 5) (field w 11 5))
  else if field w 0 11 = 19#11 then some (.max (field w 21 5) (field w 16 5) (field w 11 5))
  else if field w 0 11 = 20#11 then some (.maxU (field w 21 5) (field w 16 5) (field w 11 5))
  else if field w 0 16 = 21#16 then some (.clz (field w 21 5) (field w 16 5))
  else if field w 0 16 = 22#16 then some (.popc (field w 21 5) (field w 16 5))
  else if field w 0 11 = 23#11 then some (.sel (field w 21 5) (field w 16 5) (field w 11 5))
  else none

/-- The rows of major 0x07 (Table 16.2). -/
def decodeMajor07 (w : BitVec 32) : Option Instr :=
  if field w 16 5 = 0#5 then some (.lui (field w 21 5) (field w 0 16))
  else none

/-- The rows of major 0x1E (Table 16.2). -/
def decodeMajor1E (w : BitVec 32) : Option Instr :=
  if field w 9 2 = 0#2 ∧ field w 7 1 = 0#1 ∧ field w 0 6 = 0#6 then some (.aadd (field w 21 5) (field w 16 5) (field w 11 5) (field w 8 1) (field w 6 1))
  else if field w 9 2 = 0#2 ∧ field w 0 6 = 1#6 then some (.amin (field w 21 5) (field w 16 5) (field w 11 5) (field w 8 1) (field w 7 1) (field w 6 1))
  else if field w 9 2 = 0#2 ∧ field w 0 6 = 2#6 then some (.amax (field w 21 5) (field w 16 5) (field w 11 5) (field w 8 1) (field w 7 1) (field w 6 1))
  else if field w 9 2 = 0#2 ∧ field w 7 1 = 0#1 ∧ field w 0 6 = 3#6 then some (.aand (field w 21 5) (field w 16 5) (field w 11 5) (field w 8 1) (field w 6 1))
  else if field w 9 2 = 0#2 ∧ field w 7 1 = 0#1 ∧ field w 0 6 = 4#6 then some (.aor (field w 21 5) (field w 16 5) (field w 11 5) (field w 8 1) (field w 6 1))
  else if field w 9 2 = 0#2 ∧ field w 7 1 = 0#1 ∧ field w 0 6 = 5#6 then some (.axchg (field w 21 5) (field w 16 5) (field w 11 5) (field w 8 1) (field w 6 1))
  else if field w 9 2 = 0#2 ∧ field w 7 1 = 0#1 ∧ field w 0 6 = 6#6 then some (.acas (field w 21 5) (field w 16 5) (field w 11 5) (field w 8 1) (field w 6 1))
  else none

/-- The rows of major 0x1F (Table 16.2). -/
def decodeMajor1F (w : BitVec 32) : Option Instr :=
  if field w 8 18 = 0#18 ∧ field w 0 6 = 0#6 then some (.phase (field w 6 2))
  else if field w 21 5 = 0#5 ∧ field w 9 2 = 0#2 ∧ field w 0 6 = 1#6 then some (.pub (field w 16 5) (field w 11 5) (field w 6 3))
  else if field w 9 7 = 0#7 ∧ field w 0 6 = 2#6 then some (.acq (field w 21 5) (field w 16 5) (field w 6 3))
  else if field w 9 17 = 0#17 ∧ field w 0 6 = 3#6 then some (.fence (field w 6 3))
  else if field w 21 5 = 0#5 ∧ field w 0 16 = 4#16 then some (.qfence (field w 16 5))
  else if field w 8 18 = 0#18 ∧ field w 0 6 = 5#6 then some (.gbar (field w 6 2))
  else if field w 21 5 = 0#5 ∧ field w 0 16 = 6#16 then some (.rclm (field w 16 5))
  else none

/-- The rows of major 0x20 (Table 16.2). -/
def decodeMajor20 (w : BitVec 32) : Option Instr :=
  if field w 0 3 = 0#3 then some (.vadd (field w 20 6) (field w 14 6) (field w 8 6) (field w 7 1) (field w 6 1) (field w 3 3))
  else if field w 0 3 = 1#3 then some (.vsub (field w 20 6) (field w 14 6) (field w 8 6) (field w 7 1) (field w 6 1) (field w 3 3))
  else if field w 0 3 = 2#3 then some (.vmul (field w 20 6) (field w 14 6) (field w 8 6) (field w 7 1) (field w 6 1) (field w 3 3))
  else if field w 0 3 = 3#3 then some (.vdiv (field w 20 6) (field w 14 6) (field w 8 6) (field w 7 1) (field w 6 1) (field w 3 3))
  else if field w 0 3 = 4#3 then some (.vmin (field w 20 6) (field w 14 6) (field w 8 6) (field w 7 1) (field w 6 1) (field w 3 3))
  else if field w 0 3 = 5#3 then some (.vmax (field w 20 6) (field w 14 6) (field w 8 6) (field w 7 1) (field w 6 1) (field w 3 3))
  else if field w 8 6 = 0#6 ∧ field w 6 1 = 0#1 ∧ field w 0 3 = 6#3 then some (.vabs (field w 20 6) (field w 14 6) (field w 7 1) (field w 3 3))
  else if field w 8 6 = 0#6 ∧ field w 6 1 = 0#1 ∧ field w 0 3 = 7#3 then some (.vneg (field w 20 6) (field w 14 6) (field w 7 1) (field w 3 3))
  else none

/-- The rows of major 0x21 (Table 16.2). -/
def decodeMajor21 (w : BitVec 32) : Option Instr :=
  if field w 0 3 = 0#3 then some (.vfma (field w 20 6) (field w 14 6) (field w 8 6) (field w 7 1) (field w 6 1) (field w 3 3))
  else if field w 0 3 = 1#3 then some (.vfms (field w 20 6) (field w 14 6) (field w 8 6) (field w 7 1) (field w 6 1) (field w 3 3))
  else if field w 8 6 = 0#6 ∧ field w 6 1 = 0#1 ∧ field w 0 3 = 2#3 then some (.vsqrt (field w 20 6) (field w 14 6) (field w 7 1) (field w 3 3))
  else if field w 8 6 = 0#6 ∧ field w 6 1 = 0#1 ∧ field w 0 3 = 3#3 then some (.vrcp (field w 20 6) (field w 14 6) (field w 7 1) (field w 3 3))
  else if field w 8 6 = 0#6 ∧ field w 6 1 = 0#1 ∧ field w 0 3 = 4#3 then some (.vrsqrt (field w 20 6) (field w 14 6) (field w 7 1) (field w 3 3))
  else if field w 8 6 = 0#6 ∧ field w 6 1 = 0#1 ∧ field w 0 3 = 5#3 then some (.vexp2 (field w 20 6) (field w 14 6) (field w 7 1) (field w 3 3))
  else none

/-- The rows of major 0x22 (Table 16.2). -/
def decodeMajor22 (w : BitVec 32) : Option Instr :=
  if field w 0 3 = 0#3 then some (.vand (field w 20 6) (field w 14 6) (field w 8 6) (field w 7 1) (field w 6 1) (field w 3 3))
  else if field w 0 3 = 1#3 then some (.vor (field w 20 6) (field w 14 6) (field w 8 6) (field w 7 1) (field w 6 1) (field w 3 3))
  else if field w 0 3 = 2#3 then some (.vxor (field w 20 6) (field w 14 6) (field w 8 6) (field w 7 1) (field w 6 1) (field w 3 3))
  else if field w 8 6 = 0#6 ∧ field w 6 1 = 0#1 ∧ field w 0 3 = 3#3 then some (.vnot (field w 20 6) (field w 14 6) (field w 7 1) (field w 3 3))
  else if field w 0 3 = 4#3 then some (.vshl (field w 20 6) (field w 14 6) (field w 8 6) (field w 7 1) (field w 6 1) (field w 3 3))
  else if field w 0 3 = 5#3 then some (.vshr (field w 20 6) (field w 14 6) (field w 8 6) (field w 7 1) (field w 6 1) (field w 3 3))
  else if field w 0 3 = 6#3 then some (.vsra (field w 20 6) (field w 14 6) (field w 8 6) (field w 7 1) (field w 6 1) (field w 3 3))
  else none

/-- The rows of major 0x23 (Table 16.2). -/
def decodeMajor23 (w : BitVec 32) : Option Instr :=
  if field w 23 3 = 0#3 ∧ field w 0 3 = 0#3 then some (.vcmpEq (field w 20 3) (field w 14 6) (field w 8 6) (field w 7 1) (field w 6 1) (field w 3 3))
  else if field w 23 3 = 0#3 ∧ field w 0 3 = 1#3 then some (.vcmpNe (field w 20 3) (field w 14 6) (field w 8 6) (field w 7 1) (field w 6 1) (field w 3 3))
  else if field w 23 3 = 0#3 ∧ field w 0 3 = 2#3 then some (.vcmpLt (field w 20 3) (field w 14 6) (field w 8 6) (field w 7 1) (field w 6 1) (field w 3 3))
  else if field w 23 3 = 0#3 ∧ field w 0 3 = 3#3 then some (.vcmpLe (field w 20 3) (field w 14 6) (field w 8 6) (field w 7 1) (field w 6 1) (field w 3 3))
  else if field w 23 3 = 0#3 ∧ field w 0 3 = 4#3 then some (.vcmpUn (field w 20 3) (field w 14 6) (field w 8 6) (field w 7 1) (field w 6 1) (field w 3 3))
  else if field w 0 3 = 5#3 then some (.vsel (field w 20 6) (field w 14 6) (field w 8 6) (field w 7 1) (field w 6 1) (field w 3 3))
  else if field w 8 6 = 0#6 ∧ field w 6 1 = 0#1 ∧ field w 0 3 = 6#3 then some (.vmov (field w 20 6) (field w 14 6) (field w 7 1) (field w 3 3))
  else if field w 6 14 = 0#14 ∧ field w 0 3 = 7#3 then some (.vidx (field w 20 6) (field w 3 3))
  else none

/-- The rows of major 0x24 (Table 16.2). -/
def decodeMajor24 (w : BitVec 32) : Option Instr :=
  if field w 8 6 = 0#6 ∧ field w 6 1 = 0#1 ∧ field w 0 3 = 6#3 then some (.vcvt (field w 20 6) (field w 14 6) (field w 7 1) (field w 3 3))
  else if field w 8 6 = 0#6 ∧ field w 6 1 = 0#1 then some (.vcvtRm (field w 20 6) (field w 14 6) (field w 7 1) (field w 3 3) (field w 0 3))
  else none

/-- The rows of major 0x25 (Table 16.2). -/
def decodeMajor25 (w : BitVec 32) : Option Instr :=
  if field w 8 6 = 0#6 ∧ field w 6 1 = 0#1 ∧ field w 0 3 = 0#3 then some (.vrsum (field w 20 6) (field w 14 6) (field w 7 1) (field w 3 3))
  else if field w 8 6 = 0#6 ∧ field w 6 1 = 0#1 ∧ field w 0 3 = 1#3 then some (.vrmax (field w 20 6) (field w 14 6) (field w 7 1) (field w 3 3))
  else if field w 8 6 = 0#6 ∧ field w 6 1 = 0#1 ∧ field w 0 3 = 2#3 then some (.vrmin (field w 20 6) (field w 14 6) (field w 7 1) (field w 3 3))
  else if field w 8 6 = 0#6 ∧ field w 6 1 = 0#1 ∧ field w 0 3 = 3#3 then some (.vscan (field w 20 6) (field w 14 6) (field w 7 1) (field w 3 3))
  else if field w 8 6 = 0#6 ∧ field w 6 1 = 0#1 ∧ field w 0 3 = 4#3 then some (.vrsumSeg (field w 20 6) (field w 14 6) (field w 7 1) (field w 3 3))
  else if field w 8 6 = 0#6 ∧ field w 6 1 = 0#1 ∧ field w 0 3 = 5#3 then some (.vrmaxSeg (field w 20 6) (field w 14 6) (field w 7 1) (field w 3 3))
  else if field w 8 6 = 0#6 ∧ field w 6 1 = 0#1 ∧ field w 0 3 = 6#3 then some (.vrminSeg (field w 20 6) (field w 14 6) (field w 7 1) (field w 3 3))
  else if field w 8 6 = 0#6 ∧ field w 6 1 = 0#1 ∧ field w 0 3 = 7#3 then some (.vscanSeg (field w 20 6) (field w 14 6) (field w 7 1) (field w 3 3))
  else none

/-- The rows of major 0x26 (Table 16.2). -/
def decodeMajor26 (w : BitVec 32) : Option Instr :=
  if field w 0 3 = 0#3 then some (.vperm (field w 20 6) (field w 14 6) (field w 8 6) (field w 7 1) (field w 6 1) (field w 3 3))
  else if field w 8 6 = 0#6 ∧ field w 6 1 = 0#1 ∧ field w 0 3 = 1#3 then some (.vcompr (field w 20 6) (field w 14 6) (field w 7 1) (field w 3 3))
  else if field w 8 6 = 0#6 ∧ field w 6 1 = 0#1 ∧ field w 0 3 = 2#3 then some (.vexpnd (field w 20 6) (field w 14 6) (field w 7 1) (field w 3 3))
  else if field w 0 7 = 3#7 then some (.vnmsel (field w 20 6) (field w 14 6) (field w 8 6) (field w 7 1))
  else none

/-- The rows of major 0x27 (Table 16.2). -/
def decodeMajor27 (w : BitVec 32) : Option Instr :=
  if field w 0 7 = 0#7 then some (.vqnt (field w 20 6) (field w 14 6) (field w 8 6) (field w 7 1))
  else if field w 0 6 = 1#6 then some (.vdqnt (field w 20 6) (field w 14 6) (field w 8 6) (field w 7 1) (field w 6 1))
  else if field w 0 7 = 2#7 then some (.vhad (field w 20 6) (field w 14 6) (field w 8 6) (field w 7 1))
  else if field w 20 6 = 63#6 ∧ field w 0 7 = 3#7 then some (.vhadC (field w 14 6) (field w 8 6) (field w 7 1))
  else none

/-- The rows of major 0x29 (Table 16.2). -/
def decodeMajor29 (w : BitVec 32) : Option Instr :=
  if field w 0 3 = 0#3 then some (.vaddSat (field w 20 6) (field w 14 6) (field w 8 6) (field w 7 1) (field w 6 1) (field w 3 3))
  else if field w 0 3 = 1#3 then some (.vsubSat (field w 20 6) (field w 14 6) (field w 8 6) (field w 7 1) (field w 6 1) (field w 3 3))
  else if field w 0 3 = 2#3 then some (.vmulSat (field w 20 6) (field w 14 6) (field w 8 6) (field w 7 1) (field w 6 1) (field w 3 3))
  else if field w 0 3 = 3#3 then some (.vshlSat (field w 20 6) (field w 14 6) (field w 8 6) (field w 7 1) (field w 6 1) (field w 3 3))
  else none

/-- The rows of major 0x2C (Table 16.2). -/
def decodeMajor2C (w : BitVec 32) : Option Instr :=
  if field w 6 2 = 0#2 ∧ field w 0 3 = 0#3 then some (.vaddS (field w 20 6) (field w 14 6) (field w 9 5) (field w 8 1) (field w 3 3))
  else if field w 6 2 = 0#2 ∧ field w 0 3 = 1#3 then some (.vsubS (field w 20 6) (field w 14 6) (field w 9 5) (field w 8 1) (field w 3 3))
  else if field w 6 2 = 0#2 ∧ field w 0 3 = 2#3 then some (.vmulS (field w 20 6) (field w 14 6) (field w 9 5) (field w 8 1) (field w 3 3))
  else if field w 6 2 = 0#2 ∧ field w 0 3 = 3#3 then some (.vminS (field w 20 6) (field w 14 6) (field w 9 5) (field w 8 1) (field w 3 3))
  else if field w 6 2 = 0#2 ∧ field w 0 3 = 4#3 then some (.vmaxS (field w 20 6) (field w 14 6) (field w 9 5) (field w 8 1) (field w 3 3))
  else if field w 6 2 = 0#2 ∧ field w 0 3 = 5#3 then some (.vfmaS (field w 20 6) (field w 14 6) (field w 9 5) (field w 8 1) (field w 3 3))
  else if field w 6 2 = 0#2 ∧ field w 0 3 = 6#3 then some (.vshlS (field w 20 6) (field w 14 6) (field w 9 5) (field w 8 1) (field w 3 3))
  else if field w 6 2 = 0#2 ∧ field w 0 3 = 7#3 then some (.vshrS (field w 20 6) (field w 14 6) (field w 9 5) (field w 8 1) (field w 3 3))
  else none

/-- The rows of major 0x2D (Table 16.2). -/
def decodeMajor2D (w : BitVec 32) : Option Instr :=
  if field w 14 6 = 0#6 ∧ field w 6 3 = 0#3 ∧ field w 0 3 = 0#3 then some (.vbcast (field w 20 6) (field w 9 5) (field w 3 3))
  else if field w 25 1 = 0#1 ∧ field w 0 8 = 1#8 then some (.vextr (field w 20 5) (field w 14 6) (field w 9 5) (field w 8 1))
  else if field w 6 2 = 0#2 ∧ field w 0 3 = 2#3 then some (.vins (field w 20 6) (field w 14 6) (field w 9 5) (field w 8 1) (field w 3 3))
  else if field w 6 2 = 0#2 ∧ field w 0 3 = 3#3 then some (.vslide (field w 20 6) (field w 14 6) (field w 9 5) (field w 8 1) (field w 3 3))
  else if field w 20 6 = 0#6 ∧ field w 6 2 = 0#2 ∧ field w 0 3 = 4#3 then some (.vappend (field w 14 6) (field w 9 5) (field w 8 1) (field w 3 3))
  else if field w 6 2 = 0#2 ∧ field w 0 3 = 5#3 then some (.vsraS (field w 20 6) (field w 14 6) (field w 9 5) (field w 8 1) (field w 3 3))
  else none

/-- The rows of major 0x30 (Table 16.2). -/
def decodeMajor30 (w : BitVec 32) : Option Instr :=
  if field w 6 9 = 0#9 ∧ field w 0 3 = 0#3 then some (.vld (field w 20 6) (field w 15 5) (field w 3 3))
  else if field w 14 1 = 0#1 ∧ field w 6 3 = 0#3 ∧ field w 0 3 = 1#3 then some (.vlds (field w 20 6) (field w 15 5) (field w 9 5) (field w 3 3))
  else if field w 6 9 = 0#9 ∧ field w 0 3 = 2#3 then some (.vldf (field w 20 6) (field w 15 5) (field w 3 3))
  else none

/-- The rows of major 0x31 (Table 16.2). -/
def decodeMajor31 (w : BitVec 32) : Option Instr :=
  if field w 6 9 = 0#9 ∧ field w 0 3 = 0#3 then some (.vst (field w 20 6) (field w 15 5) (field w 3 3))
  else if field w 14 1 = 0#1 ∧ field w 6 3 = 0#3 ∧ field w 0 3 = 1#3 then some (.vsts (field w 20 6) (field w 15 5) (field w 9 5) (field w 3 3))
  else none

/-- The rows of major 0x32 (Table 16.2). -/
def decodeMajor32 (w : BitVec 32) : Option Instr :=
  if field w 0 3 = 0#3 then some (.vldx (field w 20 6) (field w 15 5) (field w 9 6) (field w 8 1) (field w 6 2) (field w 3 3))
  else if field w 0 3 = 1#3 then some (.vstxO (field w 20 6) (field w 15 5) (field w 9 6) (field w 8 1) (field w 6 2) (field w 3 3))
  else if field w 0 3 = 2#3 then some (.vstxU (field w 20 6) (field w 15 5) (field w 9 6) (field w 8 1) (field w 6 2) (field w 3 3))
  else none

/-- The rows of major 0x33 (Table 16.2). -/
def decodeMajor33 (w : BitVec 32) : Option Instr :=
  if field w 14 1 = 0#1 ∧ field w 6 3 = 0#3 ∧ field w 0 3 = 0#3 then some (.vld2 (field w 20 6) (field w 15 5) (field w 9 5) (field w 3 3))
  else if field w 14 1 = 0#1 ∧ field w 6 3 = 0#3 ∧ field w 0 3 = 1#3 then some (.vst2 (field w 20 6) (field w 15 5) (field w 9 5) (field w 3 3))
  else none

/-- The rows of major 0x34 (Table 16.2). -/
def decodeMajor34 (w : BitVec 32) : Option Instr :=
  if field w 10 1 = 0#1 ∧ field w 0 7 = 0#7 then some (.mmr (field w 20 6) (field w 11 9) (field w 8 2) (field w 7 1))
  else if field w 10 1 = 0#1 ∧ field w 0 7 = 1#7 then some (.mmt (field w 20 6) (field w 11 9) (field w 8 2) (field w 7 1))
  else if field w 0 11 = 1538#11 then some (.accrd (field w 20 6) (field w 11 9))
  else if field w 8 3 = 0#3 ∧ field w 0 7 = 3#7 then some (.accwr (field w 20 6) (field w 11 9) (field w 7 1))
  else if field w 8 3 = 1#3 ∧ field w 0 7 = 3#7 then some (.accwrA (field w 20 6) (field w 11 9) (field w 7 1))
  else if field w 0 11 = 4#11 then some (.accsc (field w 20 6) (field w 11 9))
  else if field w 0 11 = 5#11 then some (.accz (field w 20 6) (field w 11 9))
  else if field w 25 1 = 0#1 ∧ field w 11 4 = 0#4 ∧ field w 7 1 = 0#1 ∧ field w 0 3 = 6#3 then some (.ldst (field w 20 5) (field w 15 5) (field w 10 1) (field w 8 2) (field w 3 4))
  else if field w 0 26 = 7#26 then some (.swst)
  else if field w 8 12 = 1#12 ∧ field w 0 7 = 7#7 then some (.ldstp (field w 20 6) (field w 7 1))
  else if field w 0 8 = 2#8 then some (.accrdRm (field w 20 6) (field w 11 9) (field w 8 3))
  else none

/-- The rows of major 0x35 (Table 16.2). -/
def decodeMajor35 (w : BitVec 32) : Option Instr :=
  if field w 0 10 = 0#10 then some (.defr (field w 20 6) (field w 15 5) (field w 10 5))
  else if field w 0 10 = 1#10 then some (.shrd (field w 20 6) (field w 15 5) (field w 10 5))
  else if field w 15 5 = 0#5 ∧ field w 0 10 = 2#10 then some (.layout (field w 20 6) (field w 10 5))
  else if field w 25 1 = 0#1 ∧ field w 0 15 = 3#15 then some (.setvl (field w 20 5) (field w 15 5))
  else if field w 0 20 = 4#20 then some (.pzero (field w 20 6))
  else if field w 0 3 = 5#3 then some (.repf (field w 20 6) (field w 15 5) (field w 10 5) (field w 3 7))
  else none

/-- The rows of major 0x36 (Table 16.2). -/
def decodeMajor36 (w : BitVec 32) : Option Instr :=
  if field w 24 2 = 0#2 ∧ field w 19 2 = 0#2 ∧ field w 14 2 = 0#2 ∧ field w 0 11 = 0#11 then some (.mand (field w 21 3) (field w 16 3) (field w 11 3))
  else if field w 24 2 = 0#2 ∧ field w 19 2 = 0#2 ∧ field w 14 2 = 0#2 ∧ field w 0 11 = 1#11 then some (.mor (field w 21 3) (field w 16 3) (field w 11 3))
  else if field w 24 2 = 0#2 ∧ field w 19 2 = 0#2 ∧ field w 14 2 = 0#2 ∧ field w 0 11 = 2#11 then some (.mxor (field w 21 3) (field w 16 3) (field w 11 3))
  else if field w 24 2 = 0#2 ∧ field w 19 2 = 0#2 ∧ field w 14 2 = 0#2 ∧ field w 0 11 = 3#11 then some (.mandn (field w 21 3) (field w 16 3) (field w 11 3))
  else if field w 24 2 = 0#2 ∧ field w 19 2 = 0#2 ∧ field w 0 16 = 4#16 then some (.mnot (field w 21 3) (field w 16 3))
  else if field w 19 2 = 0#2 ∧ field w 0 16 = 5#16 then some (.mpop (field w 21 5) (field w 16 3))
  else if field w 19 2 = 0#2 ∧ field w 0 16 = 6#16 then some (.mfirst (field w 21 5) (field w 16 3))
  else if field w 24 2 = 0#2 ∧ field w 0 16 = 7#16 then some (.msetn (field w 21 3) (field w 16 5))
  else none

/-- The rows of major 0x37 (Table 16.2). -/
def decodeMajor37 (w : BitVec 32) : Option Instr :=
  if field w 0 16 = 0#16 then some (.frnw (field w 21 5) (field w 16 5))
  else if field w 0 16 = 1#16 then some (.flife (field w 21 5) (field w 16 5))
  else if field w 21 5 = 0#5 ∧ field w 0 11 = 2#11 then some (.finit (field w 16 5) (field w 11 5))
  else none

/-- The rows of major 0x38 (Table 16.2). -/
def decodeMajor38 (w : BitVec 32) : Option Instr :=
  if field w 21 5 = 0#5 ∧ field w 8 3 = 0#3 ∧ field w 0 6 = 0#6 then some (.cpcfg (field w 16 5) (field w 11 5) (field w 6 2))
  else if field w 8 18 = 0#18 ∧ field w 0 6 = 2#6 then some (.cpdrn (field w 6 2))
  else if field w 21 5 = 0#5 ∧ field w 8 3 = 0#3 ∧ field w 0 6 = 3#6 then some (.cpxf (field w 16 5) (field w 11 5) (field w 6 2))
  else if field w 21 5 = 0#5 ∧ field w 8 3 = 0#3 ∧ field w 0 6 = 4#6 then some (.cpimg (field w 16 5) (field w 11 5) (field w 6 2))
  else none

/-- The rows of major 0x39 (Table 16.2). -/
def decodeMajor39 (w : BitVec 32) : Option Instr :=
  if field w 21 5 = 0#5 ∧ field w 0 16 = 0#16 then some (.twall (field w 16 5))
  else if field w 0 16 = 1#16 then some (.twany (field w 21 5) (field w 16 5))
  else if field w 0 16 = 2#16 then some (.tffr (field w 21 5) (field w 16 5))
  else if field w 21 5 = 0#5 ∧ field w 0 16 = 3#16 then some (.tclr (field w 16 5))
  else none

/-- The rows of major 0x3A (Table 16.2). -/
def decodeMajor3A (w : BitVec 32) : Option Instr :=
  if field w 0 11 = 0#11 then some (.sapp (field w 21 5) (field w 16 5) (field w 11 5))
  else if field w 0 11 = 1#11 then some (.sckp (field w 21 5) (field w 16 5) (field w 11 5))
  else if field w 0 16 = 450#16 then some (.scurArm (field w 21 5) (field w 16 5))
  else if field w 0 11 = 3#11 then some (.srecv (field w 21 5) (field w 16 5) (field w 11 5))
  else if field w 0 16 = 4#16 then some (.strunc (field w 21 5) (field w 16 5))
  else if field w 9 7 = 0#7 ∧ field w 0 6 = 2#6 then some (.scur (field w 21 5) (field w 16 5) (field w 6 3))
  else none

/-- The rows of major 0x3B (Table 16.2). -/
def decodeMajor3B (w : BitVec 32) : Option Instr :=
  if field w 21 5 = 0#5 ∧ field w 8 8 = 0#8 ∧ field w 0 6 = 0#6 then some (.gcast (field w 16 5) (field w 6 2))
  else if field w 21 5 = 0#5 ∧ field w 8 8 = 0#8 ∧ field w 0 6 = 1#6 then some (.gred (field w 16 5) (field w 6 2))
  else none

/-- The rows of major 0x3C (Table 16.2). -/
def decodeMajor3C (w : BitVec 32) : Option Instr :=
  if field w 21 5 = 0#5 ∧ field w 9 7 = 0#7 ∧ field w 0 6 = 0#6 then some (.vfork (field w 16 5) (field w 6 3))
  else if field w 0 21 = 1#21 then some (.vjoin (field w 21 5))
  else if field w 21 5 = 0#5 ∧ field w 0 16 = 2#16 then some (.lfetch (field w 16 5))
  else if field w 0 26 = 3#26 then some (.lexit)
  else none

/-- The rows of major 0x3D (Table 16.2). -/
def decodeMajor3D (w : BitVec 32) : Option Instr :=
  if field w 21 5 = 0#5 ∧ field w 0 16 = 0#16 then some (.trap (field w 16 5))
  else if field w 0 26 = 1#26 then some (.eret)
  else if field w 16 5 = 0#5 ∧ field w 0 6 = 2#6 then some (.mfsr (field w 21 5) (field w 11 5) (field w 6 5))
  else if field w 21 5 = 0#5 ∧ field w 0 6 = 3#6 then some (.mtsr (field w 16 5) (field w 11 5) (field w 6 5))
  else if field w 0 26 = 4#26 then some (.halt)
  else if field w 0 26 = 5#26 then some (.brk)
  else if field w 21 5 = 0#5 ∧ field w 0 16 = 6#16 then some (.tmark (field w 16 5))
  else if field w 21 5 = 0#5 ∧ field w 8 8 = 0#8 ∧ field w 0 6 = 7#6 then some (.tlbi (field w 16 5) (field w 6 2))
  else if field w 21 5 = 0#5 ∧ field w 0 16 = 8#16 then some (.jr (field w 16 5))
  else if field w 0 26 = 9#26 then some (.ret)
  else if field w 0 26 = 10#26 then some (.yield)
  else if field w 21 5 = 0#5 ∧ field w 0 16 = 11#16 then some (.waite (field w 16 5))
  else none

/-- The rows of major 0x3E (Table 16.2). -/
def decodeMajor3E (w : BitVec 32) : Option Instr :=
  if field w 24 2 = 0#2 then some (.bmask (field w 21 3) (field w 16 5) (field w 0 16))
  else none

/-- The major opcode, bits [31:26] (R309). -/
def majorOf (w : BitVec 32) : Nat := (field w 26 6).toNat

/-- The instruction whose layout the word fits, by its major (Table 16.2), before the checks of `Instr.wf`. -/
def layoutOf (w : BitVec 32) : Option Instr :=
  match majorOf w with
  | 0x00 => decodeMajor00 w
  | 0x01 => some (.addImm (field w 21 5) (field w 16 5) (field w 0 16))
  | 0x02 => some (.andImm (field w 21 5) (field w 16 5) (field w 0 16))
  | 0x03 => some (.orImm (field w 21 5) (field w 16 5) (field w 0 16))
  | 0x04 => some (.xorImm (field w 21 5) (field w 16 5) (field w 0 16))
  | 0x05 => some (.sltImm (field w 21 5) (field w 16 5) (field w 0 16))
  | 0x06 => some (.sltUImm (field w 21 5) (field w 16 5) (field w 0 16))
  | 0x07 => decodeMajor07 w
  | 0x08 => some (.ldB (field w 21 5) (field w 16 5) (field w 0 16))
  | 0x09 => some (.ldBu (field w 21 5) (field w 16 5) (field w 0 16))
  | 0x0A => some (.ldH (field w 21 5) (field w 16 5) (field w 0 16))
  | 0x0B => some (.ldHu (field w 21 5) (field w 16 5) (field w 0 16))
  | 0x0C => some (.ldW (field w 21 5) (field w 16 5) (field w 0 16))
  | 0x0D => some (.ldWu (field w 21 5) (field w 16 5) (field w 0 16))
  | 0x0E => some (.ldD (field w 21 5) (field w 16 5) (field w 0 16))
  | 0x10 => some (.stB (field w 21 5) (field w 16 5) (field w 0 16))
  | 0x11 => some (.stH (field w 21 5) (field w 16 5) (field w 0 16))
  | 0x12 => some (.stW (field w 21 5) (field w 16 5) (field w 0 16))
  | 0x13 => some (.stD (field w 21 5) (field w 16 5) (field w 0 16))
  | 0x14 => some (.beq (field w 21 5) (field w 16 5) (field w 0 16))
  | 0x15 => some (.bne (field w 21 5) (field w 16 5) (field w 0 16))
  | 0x16 => some (.blt (field w 21 5) (field w 16 5) (field w 0 16))
  | 0x17 => some (.bge (field w 21 5) (field w 16 5) (field w 0 16))
  | 0x18 => some (.bltU (field w 21 5) (field w 16 5) (field w 0 16))
  | 0x19 => some (.bgeU (field w 21 5) (field w 16 5) (field w 0 16))
  | 0x1A => some (.jmp (field w 0 26))
  | 0x1B => some (.jal (field w 0 26))
  | 0x1C => some (.strip (field w 21 5) (field w 17 4) (field w 0 17))
  | 0x1D => some (.btag (field w 21 5) (field w 16 5) (field w 0 16))
  | 0x1E => decodeMajor1E w
  | 0x1F => decodeMajor1F w
  | 0x20 => decodeMajor20 w
  | 0x21 => decodeMajor21 w
  | 0x22 => decodeMajor22 w
  | 0x23 => decodeMajor23 w
  | 0x24 => decodeMajor24 w
  | 0x25 => decodeMajor25 w
  | 0x26 => decodeMajor26 w
  | 0x27 => decodeMajor27 w
  | 0x28 => some (.cpix (field w 20 6) (field w 14 6) (field w 9 5) (field w 6 3) (field w 0 6))
  | 0x29 => decodeMajor29 w
  | 0x2C => decodeMajor2C w
  | 0x2D => decodeMajor2D w
  | 0x30 => decodeMajor30 w
  | 0x31 => decodeMajor31 w
  | 0x32 => decodeMajor32 w
  | 0x33 => decodeMajor33 w
  | 0x34 => decodeMajor34 w
  | 0x35 => decodeMajor35 w
  | 0x36 => decodeMajor36 w
  | 0x37 => decodeMajor37 w
  | 0x38 => decodeMajor38 w
  | 0x39 => decodeMajor39 w
  | 0x3A => decodeMajor3A w
  | 0x3B => decodeMajor3B w
  | 0x3C => decodeMajor3C w
  | 0x3D => decodeMajor3D w
  | 0x3E => decodeMajor3E w
  | _ => none

/-- The instruction a word names, or `none` when it names none (R311). -/
def decodeWord (w : BitVec 32) : Option Instr :=
  match layoutOf w with
  | some i => if i.wf then some i else none
  | none => none

/-- A little-endian 32-bit word of four bytes (R309). -/
def wordOfBytes (b0 b1 b2 b3 : Byte) : BitVec 32 := b3 ++ b2 ++ b1 ++ b0

/-- The four bytes of a word as memory holds them (R309). -/
def bytesOfWord (w : BitVec 32) : List Byte :=
  [w.extractLsb' 0 8, w.extractLsb' 8 8, w.extractLsb' 16 8, w.extractLsb' 24 8]

/-- Decoding, total on any bytes: the instruction and the bytes after it, or the reason there is none. -/
def decode : List Byte → Except DecodeError (Instr × List Byte)
  | b0 :: b1 :: b2 :: b3 :: rest =>
    match decodeWord (wordOfBytes b0 b1 b2 b3) with
    | some i => .ok (i, rest)
    | none => .error (.namesNone (wordOfBytes b0 b1 b2 b3))
  | _ => .error .short

/-- The instruction the decoder reads from a word numbered as spec/opcode_table.json numbers its bits: one 32-bit word,
so bits above bit 31 name nothing, and the word is laid out as memory holds it. -/
def decodeTableWord (nbits w : Nat) : Option Instr :=
  match decode (bytesOfWord (BitVec.ofNat 32 (w % 2 ^ nbits))) with
  | .ok (i, _) => some i
  | .error _ => none

/-- The word of an instruction, from the encoding tables of the spec (Table 16.1 and the groups' own tables); the
package's other steps have none. -/
def encode : Instr → Option (BitVec 32)
  | .add d a b => some (0#6 ++ d ++ a ++ b ++ 0#11)
  | .addImm d a i => some (1#6 ++ d ++ a ++ i)
  | .sub d a b => some (0#6 ++ d ++ a ++ b ++ 1#11)
  | .mul d a b => some (0#6 ++ d ++ a ++ b ++ 2#11)
  | .mulh d a b => some (0#6 ++ d ++ a ++ b ++ 3#11)
  | .mulhU d a b => some (0#6 ++ d ++ a ++ b ++ 4#11)
  | .div d a b => some (0#6 ++ d ++ a ++ b ++ 5#11)
  | .divU d a b => some (0#6 ++ d ++ a ++ b ++ 6#11)
  | .rem d a b => some (0#6 ++ d ++ a ++ b ++ 7#11)
  | .remU d a b => some (0#6 ++ d ++ a ++ b ++ 8#11)
  | .and d a b => some (0#6 ++ d ++ a ++ b ++ 9#11)
  | .andImm d a i => some (2#6 ++ d ++ a ++ i)
  | .or d a b => some (0#6 ++ d ++ a ++ b ++ 0xa#11)
  | .orImm d a i => some (3#6 ++ d ++ a ++ i)
  | .xor d a b => some (0#6 ++ d ++ a ++ b ++ 0xb#11)
  | .xorImm d a i => some (4#6 ++ d ++ a ++ i)
  | .shl d a b => some (0#6 ++ d ++ a ++ b ++ 0xc#11)
  | .shr d a b => some (0#6 ++ d ++ a ++ b ++ 0xd#11)
  | .sra d a b => some (0#6 ++ d ++ a ++ b ++ 0xe#11)
  | .shlI d a k h => some (0#6 ++ d ++ a ++ k ++ 0#4 ++ h ++ 0x18#6)
  | .shrI d a k h => some (0#6 ++ d ++ a ++ k ++ 0#4 ++ h ++ 0x19#6)
  | .sraI d a k h => some (0#6 ++ d ++ a ++ k ++ 0#4 ++ h ++ 0x1a#6)
  | .slt d a b => some (0#6 ++ d ++ a ++ b ++ 0xf#11)
  | .sltU d a b => some (0#6 ++ d ++ a ++ b ++ 0x10#11)
  | .sltImm d a i => some (5#6 ++ d ++ a ++ i)
  | .sltUImm d a i => some (6#6 ++ d ++ a ++ i)
  | .min d a b => some (0#6 ++ d ++ a ++ b ++ 0x11#11)
  | .minU d a b => some (0#6 ++ d ++ a ++ b ++ 0x12#11)
  | .max d a b => some (0#6 ++ d ++ a ++ b ++ 0x13#11)
  | .maxU d a b => some (0#6 ++ d ++ a ++ b ++ 0x14#11)
  | .clz d a => some (0#6 ++ d ++ a ++ 0x15#16)
  | .popc d a => some (0#6 ++ d ++ a ++ 0x16#16)
  | .sel d a b => some (0#6 ++ d ++ a ++ b ++ 0x17#11)
  | .lui d i => some (7#6 ++ d ++ 0#5 ++ i)
  | .ldB d a i => some (8#6 ++ d ++ a ++ i)
  | .ldBu d a i => some (9#6 ++ d ++ a ++ i)
  | .ldH d a i => some (0xa#6 ++ d ++ a ++ i)
  | .ldHu d a i => some (0xb#6 ++ d ++ a ++ i)
  | .ldW d a i => some (0xc#6 ++ d ++ a ++ i)
  | .ldWu d a i => some (0xd#6 ++ d ++ a ++ i)
  | .ldD d a i => some (0xe#6 ++ d ++ a ++ i)
  | .stB d a i => some (0x10#6 ++ d ++ a ++ i)
  | .stH d a i => some (0x11#6 ++ d ++ a ++ i)
  | .stW d a i => some (0x12#6 ++ d ++ a ++ i)
  | .stD d a i => some (0x13#6 ++ d ++ a ++ i)
  | .beq a b o => some (0x14#6 ++ a ++ b ++ o)
  | .bne a b o => some (0x15#6 ++ a ++ b ++ o)
  | .blt a b o => some (0x16#6 ++ a ++ b ++ o)
  | .bge a b o => some (0x17#6 ++ a ++ b ++ o)
  | .bltU a b o => some (0x18#6 ++ a ++ b ++ o)
  | .bgeU a b o => some (0x19#6 ++ a ++ b ++ o)
  | .jmp o => some (0x1a#6 ++ o)
  | .jal o => some (0x1b#6 ++ o)
  | .strip a p o => some (0x1c#6 ++ a ++ p ++ o)
  | .btag a c o => some (0x1d#6 ++ a ++ c ++ o)
  | .bmask m c o => some (0xf8#8 ++ m ++ c ++ o)
  | .aadd d a b s w => some (0x1e#6 ++ d ++ a ++ b ++ 0#2 ++ s ++ 0#1 ++ w ++ 0#6)
  | .amin d a b s u w => some (0x1e#6 ++ d ++ a ++ b ++ 0#2 ++ s ++ u ++ w ++ 1#6)
  | .amax d a b s u w => some (0x1e#6 ++ d ++ a ++ b ++ 0#2 ++ s ++ u ++ w ++ 2#6)
  | .aand d a b s w => some (0x1e#6 ++ d ++ a ++ b ++ 0#2 ++ s ++ 0#1 ++ w ++ 3#6)
  | .aor d a b s w => some (0x1e#6 ++ d ++ a ++ b ++ 0#2 ++ s ++ 0#1 ++ w ++ 4#6)
  | .axchg d a b s w => some (0x1e#6 ++ d ++ a ++ b ++ 0#2 ++ s ++ 0#1 ++ w ++ 5#6)
  | .acas d a b s w => some (0x1e#6 ++ d ++ a ++ b ++ 0#2 ++ s ++ 0#1 ++ w ++ 6#6)
  | .phase g => some (0x7c0000#24 ++ g ++ 0#6)
  | .pub a b c => some (0x3e0#11 ++ a ++ b ++ 0#2 ++ c ++ 1#6)
  | .acq d a c => some (0x1f#6 ++ d ++ a ++ 0#7 ++ c ++ 2#6)
  | .fence k => some (0x3e0000#23 ++ k ++ 3#6)
  | .qfence a => some (0x3e0#11 ++ a ++ 4#16)
  | .gbar g => some (0x7c0000#24 ++ g ++ 5#6)
  | .barrierEpisodeComplete _ _ _ _ => none
  | .rclm a => some (0x3e0#11 ++ a ++ 6#16)
  | .vadd d a b x y m => some (0x20#6 ++ d ++ a ++ b ++ x ++ y ++ m ++ 0#3)
  | .vsub d a b x y m => some (0x20#6 ++ d ++ a ++ b ++ x ++ y ++ m ++ 1#3)
  | .vmul d a b x y m => some (0x20#6 ++ d ++ a ++ b ++ x ++ y ++ m ++ 2#3)
  | .vdiv d a b x y m => some (0x20#6 ++ d ++ a ++ b ++ x ++ y ++ m ++ 3#3)
  | .vmin d a b x y m => some (0x20#6 ++ d ++ a ++ b ++ x ++ y ++ m ++ 4#3)
  | .vmax d a b x y m => some (0x20#6 ++ d ++ a ++ b ++ x ++ y ++ m ++ 5#3)
  | .vabs d a x m => some (0x20#6 ++ d ++ a ++ 0#6 ++ x ++ 0#1 ++ m ++ 6#3)
  | .vneg d a x m => some (0x20#6 ++ d ++ a ++ 0#6 ++ x ++ 0#1 ++ m ++ 7#3)
  | .vfma d a b x y m => some (0x21#6 ++ d ++ a ++ b ++ x ++ y ++ m ++ 0#3)
  | .vfms d a b x y m => some (0x21#6 ++ d ++ a ++ b ++ x ++ y ++ m ++ 1#3)
  | .vsqrt d a x m => some (0x21#6 ++ d ++ a ++ 0#6 ++ x ++ 0#1 ++ m ++ 2#3)
  | .vrcp d a x m => some (0x21#6 ++ d ++ a ++ 0#6 ++ x ++ 0#1 ++ m ++ 3#3)
  | .vrsqrt d a x m => some (0x21#6 ++ d ++ a ++ 0#6 ++ x ++ 0#1 ++ m ++ 4#3)
  | .vexp2 d a x m => some (0x21#6 ++ d ++ a ++ 0#6 ++ x ++ 0#1 ++ m ++ 5#3)
  | .vand d a b x y m => some (0x22#6 ++ d ++ a ++ b ++ x ++ y ++ m ++ 0#3)
  | .vor d a b x y m => some (0x22#6 ++ d ++ a ++ b ++ x ++ y ++ m ++ 1#3)
  | .vxor d a b x y m => some (0x22#6 ++ d ++ a ++ b ++ x ++ y ++ m ++ 2#3)
  | .vnot d a x m => some (0x22#6 ++ d ++ a ++ 0#6 ++ x ++ 0#1 ++ m ++ 3#3)
  | .vshl d a b x y m => some (0x22#6 ++ d ++ a ++ b ++ x ++ y ++ m ++ 4#3)
  | .vshr d a b x y m => some (0x22#6 ++ d ++ a ++ b ++ x ++ y ++ m ++ 5#3)
  | .vsra d a b x y m => some (0x22#6 ++ d ++ a ++ b ++ x ++ y ++ m ++ 6#3)
  | .vcmpEq d a b x y m => some (0x118#9 ++ d ++ a ++ b ++ x ++ y ++ m ++ 0#3)
  | .vcmpNe d a b x y m => some (0x118#9 ++ d ++ a ++ b ++ x ++ y ++ m ++ 1#3)
  | .vcmpLt d a b x y m => some (0x118#9 ++ d ++ a ++ b ++ x ++ y ++ m ++ 2#3)
  | .vcmpLe d a b x y m => some (0x118#9 ++ d ++ a ++ b ++ x ++ y ++ m ++ 3#3)
  | .vcmpUn d a b x y m => some (0x118#9 ++ d ++ a ++ b ++ x ++ y ++ m ++ 4#3)
  | .vsel d a b x y m => some (0x23#6 ++ d ++ a ++ b ++ x ++ y ++ m ++ 5#3)
  | .vmov d a x m => some (0x23#6 ++ d ++ a ++ 0#6 ++ x ++ 0#1 ++ m ++ 6#3)
  | .vidx d m => some (0x23#6 ++ d ++ 0#14 ++ m ++ 7#3)
  | .vcvtRm d a x m r => some (0x24#6 ++ d ++ a ++ 0#6 ++ x ++ 0#1 ++ m ++ r)
  | .vcvt d a x m => some (0x24#6 ++ d ++ a ++ 0#6 ++ x ++ 0#1 ++ m ++ 6#3)
  | .vrsum d a x m => some (0x25#6 ++ d ++ a ++ 0#6 ++ x ++ 0#1 ++ m ++ 0#3)
  | .vrmax d a x m => some (0x25#6 ++ d ++ a ++ 0#6 ++ x ++ 0#1 ++ m ++ 1#3)
  | .vrmin d a x m => some (0x25#6 ++ d ++ a ++ 0#6 ++ x ++ 0#1 ++ m ++ 2#3)
  | .vscan d a x m => some (0x25#6 ++ d ++ a ++ 0#6 ++ x ++ 0#1 ++ m ++ 3#3)
  | .vrsumSeg d a x m => some (0x25#6 ++ d ++ a ++ 0#6 ++ x ++ 0#1 ++ m ++ 4#3)
  | .vrmaxSeg d a x m => some (0x25#6 ++ d ++ a ++ 0#6 ++ x ++ 0#1 ++ m ++ 5#3)
  | .vrminSeg d a x m => some (0x25#6 ++ d ++ a ++ 0#6 ++ x ++ 0#1 ++ m ++ 6#3)
  | .vscanSeg d a x m => some (0x25#6 ++ d ++ a ++ 0#6 ++ x ++ 0#1 ++ m ++ 7#3)
  | .vperm d a b x y m => some (0x26#6 ++ d ++ a ++ b ++ x ++ y ++ m ++ 0#3)
  | .vcompr d a x m => some (0x26#6 ++ d ++ a ++ 0#6 ++ x ++ 0#1 ++ m ++ 1#3)
  | .vexpnd d a x m => some (0x26#6 ++ d ++ a ++ 0#6 ++ x ++ 0#1 ++ m ++ 2#3)
  | .vnmsel d a b x => some (0x26#6 ++ d ++ a ++ b ++ x ++ 3#7)
  | .vqnt d a b x => some (0x27#6 ++ d ++ a ++ b ++ x ++ 0#7)
  | .vdqnt d a b x y => some (0x27#6 ++ d ++ a ++ b ++ x ++ y ++ 1#6)
  | .vhad d a k x => some (0x27#6 ++ d ++ a ++ k ++ x ++ 2#7)
  | .vhadC a k x => some (0x9ff#12 ++ a ++ k ++ x ++ 3#7)
  | .cpix d a b m t => some (0x28#6 ++ d ++ a ++ b ++ m ++ t)
  | .cpixGatherComplete _ _ => none
  | .vaddSat d a b x y m => some (0x29#6 ++ d ++ a ++ b ++ x ++ y ++ m ++ 0#3)
  | .vsubSat d a b x y m => some (0x29#6 ++ d ++ a ++ b ++ x ++ y ++ m ++ 1#3)
  | .vmulSat d a b x y m => some (0x29#6 ++ d ++ a ++ b ++ x ++ y ++ m ++ 2#3)
  | .vshlSat d a b x y m => some (0x29#6 ++ d ++ a ++ b ++ x ++ y ++ m ++ 3#3)
  | .vaddS d a b x m => some (0x2c#6 ++ d ++ a ++ b ++ x ++ 0#2 ++ m ++ 0#3)
  | .vsubS d a b x m => some (0x2c#6 ++ d ++ a ++ b ++ x ++ 0#2 ++ m ++ 1#3)
  | .vmulS d a b x m => some (0x2c#6 ++ d ++ a ++ b ++ x ++ 0#2 ++ m ++ 2#3)
  | .vminS d a b x m => some (0x2c#6 ++ d ++ a ++ b ++ x ++ 0#2 ++ m ++ 3#3)
  | .vmaxS d a b x m => some (0x2c#6 ++ d ++ a ++ b ++ x ++ 0#2 ++ m ++ 4#3)
  | .vfmaS d a b x m => some (0x2c#6 ++ d ++ a ++ b ++ x ++ 0#2 ++ m ++ 5#3)
  | .vshlS d a b x m => some (0x2c#6 ++ d ++ a ++ b ++ x ++ 0#2 ++ m ++ 6#3)
  | .vshrS d a b x m => some (0x2c#6 ++ d ++ a ++ b ++ x ++ 0#2 ++ m ++ 7#3)
  | .vbcast d b m => some (0x2d#6 ++ d ++ 0#6 ++ b ++ 0#3 ++ m ++ 0#3)
  | .vextr d a b x => some (0x5a#7 ++ d ++ a ++ b ++ x ++ 1#8)
  | .vins d a b x m => some (0x2d#6 ++ d ++ a ++ b ++ x ++ 0#2 ++ m ++ 2#3)
  | .vslide d a b x m => some (0x2d#6 ++ d ++ a ++ b ++ x ++ 0#2 ++ m ++ 3#3)
  | .vappend a b x m => some (0xb40#12 ++ a ++ b ++ x ++ 0#2 ++ m ++ 4#3)
  | .vsraS d a b x m => some (0x2d#6 ++ d ++ a ++ b ++ x ++ 0#2 ++ m ++ 5#3)
  | .vld v b m => some (0x30#6 ++ v ++ b ++ 0#9 ++ m ++ 0#3)
  | .vlds v b s m => some (0x30#6 ++ v ++ b ++ 0#1 ++ s ++ 0#3 ++ m ++ 1#3)
  | .vldf v b m => some (0x30#6 ++ v ++ b ++ 0#9 ++ m ++ 2#3)
  | .vst v b m => some (0x31#6 ++ v ++ b ++ 0#9 ++ m ++ 0#3)
  | .vsts v b s m => some (0x31#6 ++ v ++ b ++ 0#1 ++ s ++ 0#3 ++ m ++ 1#3)
  | .vldx v b i c o m => some (0x32#6 ++ v ++ b ++ i ++ c ++ o ++ m ++ 0#3)
  | .vstxO v b i c o m => some (0x32#6 ++ v ++ b ++ i ++ c ++ o ++ m ++ 1#3)
  | .vstxU v b i c o m => some (0x32#6 ++ v ++ b ++ i ++ c ++ o ++ m ++ 2#3)
  | .vld2 v b s m => some (0x33#6 ++ v ++ b ++ 0#1 ++ s ++ 0#3 ++ m ++ 0#3)
  | .vst2 v b s m => some (0x33#6 ++ v ++ b ++ 0#1 ++ s ++ 0#3 ++ m ++ 1#3)
  | .mmr a p c x => some (0x34#6 ++ a ++ p ++ 0#1 ++ c ++ x ++ 0#7)
  | .mmt a p c x => some (0x34#6 ++ a ++ p ++ 0#1 ++ c ++ x ++ 1#7)
  | .accrdRm d p r => some (0x34#6 ++ d ++ p ++ r ++ 2#8)
  | .accrd d p => some (0x34#6 ++ d ++ p ++ 0x602#11)
  | .accwr a p x => some (0x34#6 ++ a ++ p ++ 0#3 ++ x ++ 3#7)
  | .accwrA a p x => some (0x34#6 ++ a ++ p ++ 1#3 ++ x ++ 3#7)
  | .accsc n p => some (0x34#6 ++ n ++ p ++ 4#11)
  | .accz n p => some (0x34#6 ++ n ++ p ++ 5#11)
  | .ldst a b f g t => some (0x68#7 ++ a ++ b ++ 0#4 ++ f ++ g ++ 0#1 ++ t ++ 6#3)
  | .swst => some (0xd0000007#32)
  | .ldstp a x => some (0x34#6 ++ a ++ 1#12 ++ x ++ 7#7)
  | .defr d a b => some (0x35#6 ++ d ++ a ++ b ++ 0#10)
  | .shrd a g f => some (0x35#6 ++ a ++ g ++ f ++ 1#10)
  | .layout n f => some (0x35#6 ++ n ++ 0#5 ++ f ++ 2#10)
  | .setvl d a => some (0x6a#7 ++ d ++ a ++ 3#15)
  | .pzero d => some (0x35#6 ++ d ++ 4#20)
  | .repf v n k c => some (0x35#6 ++ v ++ n ++ k ++ c ++ 5#3)
  | .mand d a b => some (0xd8#8 ++ d ++ 0#2 ++ a ++ 0#2 ++ b ++ 0#11)
  | .mor d a b => some (0xd8#8 ++ d ++ 0#2 ++ a ++ 0#2 ++ b ++ 1#11)
  | .mxor d a b => some (0xd8#8 ++ d ++ 0#2 ++ a ++ 0#2 ++ b ++ 2#11)
  | .mandn d a b => some (0xd8#8 ++ d ++ 0#2 ++ a ++ 0#2 ++ b ++ 3#11)
  | .mnot d a => some (0xd8#8 ++ d ++ 0#2 ++ a ++ 4#16)
  | .mpop d a => some (0x36#6 ++ d ++ 0#2 ++ a ++ 5#16)
  | .mfirst d a => some (0x36#6 ++ d ++ 0#2 ++ a ++ 6#16)
  | .msetn d a => some (0xd8#8 ++ d ++ a ++ 7#16)
  | .frnw d a => some (0x37#6 ++ d ++ a ++ 0#16)
  | .flife d a => some (0x37#6 ++ d ++ a ++ 1#16)
  | .finit a b => some (0x6e0#11 ++ a ++ b ++ 2#11)
  | .cpcfg a b c => some (0x700#11 ++ a ++ b ++ 0#3 ++ c ++ 0#6)
  | .cpdrn c => some (0xe00000#24 ++ c ++ 2#6)
  | .cpxf a b c => some (0x700#11 ++ a ++ b ++ 0#3 ++ c ++ 3#6)
  | .cpimg a b c => some (0x700#11 ++ a ++ b ++ 0#3 ++ c ++ 4#6)
  | .copyTransferComplete _ _ => none
  | .operandsConsumed _ _ => none
  | .prefetchComplete _ _ => none
  | .imageComplete _ _ => none
  | .routineYield _ _ _ => none
  | .routineDone _ _ _ => none
  | .routineFail _ _ _ => none
  | .routineIllegalAccess _ _ _ => none
  | .twall a => some (0x720#11 ++ a ++ 0#16)
  | .twany d a => some (0x39#6 ++ d ++ a ++ 1#16)
  | .tffr d a => some (0x39#6 ++ d ++ a ++ 2#16)
  | .tclr a => some (0x720#11 ++ a ++ 3#16)
  | .sapp d a b => some (0x3a#6 ++ d ++ a ++ b ++ 0#11)
  | .sckp d a b => some (0x3a#6 ++ d ++ a ++ b ++ 1#11)
  | .scur d a c => some (0x3a#6 ++ d ++ a ++ 0#7 ++ c ++ 2#6)
  | .scurArm d a => some (0x3a#6 ++ d ++ a ++ 0x1c2#16)
  | .srecv d a b => some (0x3a#6 ++ d ++ a ++ b ++ 3#11)
  | .strunc d a => some (0x3a#6 ++ d ++ a ++ 4#16)
  | .gcast a g => some (0x760#11 ++ a ++ 0#8 ++ g ++ 0#6)
  | .gred a g => some (0x760#11 ++ a ++ 0#8 ++ g ++ 1#6)
  | .collectivePartStart _ _ => none
  | .multicastChunkArrival _ _ _ _ _ => none
  | .collectivePartComplete _ _ => none
  | .vfork a m => some (0x780#11 ++ a ++ 0#7 ++ m ++ 0#6)
  | .vjoin d => some (0x3c#6 ++ d ++ 1#21)
  | .lfetch a => some (0x780#11 ++ a ++ 2#16)
  | .lexit => some (0xf0000003#32)
  | .laneBlockFetchDone _ _ _ => none
  | .trap a => some (0x7a0#11 ++ a ++ 0#16)
  | .eret => some (0xf4000001#32)
  | .mfsr d h l => some (0x3d#6 ++ d ++ 0#5 ++ h ++ l ++ 2#6)
  | .mtsr a h l => some (0x7a0#11 ++ a ++ h ++ l ++ 3#6)
  | .halt => some (0xf4000004#32)
  | .brk => some (0xf4000005#32)
  | .tmark a => some (0x7a0#11 ++ a ++ 6#16)
  | .tlbi a f => some (0x7a0#11 ++ a ++ 0#8 ++ f ++ 7#6)
  | .jr a => some (0x7a0#11 ++ a ++ 8#16)
  | .ret => some (0xf4000009#32)
  | .yield => some (0xf400000a#32)
  | .waite a => some (0x7a0#11 ++ a ++ 0xb#16)
  | .waiteDeadline _ => none
  | .mtsrPtroot _ => none
  | .mtsrCvtdat _ => none
  | .mtsrCtxlk _ => none
  | .mfsrCtxlk _ => none
  | .mtsrVl _ => none
  | .mtsrSrdptr _ => none
  | .mtsrGustlvl _ => none
  | .mtsrStatus _ => none
  | .mtsrExcflags _ => none
  | .seatSwitch _ => none
  | .issueShareSpent _ => none
  | .trapEntry _ _ => none
  | .pageParkTimeout _ => none
  | .pageAnswerTimeout _ _ => none
  | .dispatchBind => none
  | .preempt _ _ => none
  | .preemptDeclared _ => none
  | .saveComplete _ => none
  | .restore _ _ _ => none
  | .fusionChange _ => none
  | .nodeFinish _ _ => none
  | .launchComplete _ _ => none
  | .doorbell _ _ => none
  | .createCtx _ _ => none
  | .map _ _ _ => none
  | .loadGraph _ => none
  | .launch _ => none
  | .queryContext _ _ => none
  | .queryLaunch _ _ => none
  | .queryAttestation _ _ _ => none
  | .kill _ => none
  | .reclaim _ => none
  | .reclaimComplete _ => none
  | .streamNew _ => none
  | .routine _ _ _ => none
  | .page _ _ _ => none
  | .dhalt _ => none
  | .hostRmaRead _ _ _ _ => none
  | .hostRmaWrite _ _ _ _ => none
  | .hostAtomic _ _ _ _ _ _ _ _ => none
  | .connectionSetup _ _ => none
  | .packetIngress _ _ _ _ _ => none
  | .frameArrival _ _ _ _ _ _ _ => none
  | .playbackAck _ _ _ => none
  | .egressSend _ _ => none
  | .unitRequestArrival _ _ _ => none
  | .responseArrival _ _ _ => none
  | .pageWalk _ _ _ _ => none
  | .l1Eviction _ _ => none
  | .compressedTileFill _ => none
  | .tileExpiry _ => none
  | .fleetSweep _ => none
  | .junctionReading _ _ => none
  | .balancerSample _ _ _ => none
  | .gustInterval _ => none
  | .chainWithdraw _ _ => none
  | .hbmThermalReading _ _ => none
  | .holdRetention _ => none
  | .holdGate _ => none
  | .wakeRampStart _ => none
  | .wakeRampComplete _ => none
  | .placementEpoch => none
  | .migrationMark _ _ _ => none
  | .migrationCopy _ _ => none
  | .migrationSwitch _ _ => none
  | .routineWatchdog _ _ => none
  | .collectorWatchdog _ => none
  | .reclaimWatchdog _ => none
  | .eccCorrected _ => none
  | .eccUncorrectable _ _ _ _ => none
  | .deviceStop _ => none
  | .vsampleWrite _ _ _ => none
  | .barographArm _ _ _ _ _ _ => none
  | .barographFreeze _ => none
  | .boot _ _ _ => none
  | .effectivePriorityAging _ _ => none
  | .wordNamingNoInstruction _ => none
  | .instructionFetchFault => none
  | .peerAcknowledgement _ _ => none
  | .viProvisioning _ _ => none
  | .provisioningRecordWrite _ => none
  | .barographStopCommand _ => none
  | .retentionLoweringComplete _ => none

/-- The word that ILLOP and PRIV report in EVAL (Table 11.3). -/
def Instr.word (i : Instr) : Word := ((encode i).getD 0).setWidth 64

end Sys2Proof
end

