-- ==== Sys2Proof/Config.lean ====
section
/-!
DEFINITION. Sys2Proof/Config.lean: what every RNM-4800 fixes (R1 to R4, R16, R36), and the free values, which the spec
leaves open: constants without a body, applied to the counter `State.freeN` that the step advances (assumption 1).
-/
namespace Sys2Proof.Config

/-- Compute dies (R1). -/
def dies : Nat := 4
/-- Quads in the package (R1). -/
def quads : Nat := 72
/-- Cores in the package (R1). -/
def cores : Nat := 288
/-- Stack pairs in the package (R1). -/
def pairs : Nat := 36
/-- HBM stacks (R1). -/
def hbm : Nat := 12
/-- Fleeting tiles of one die (R11). -/
def tilesPerDie : Nat := 131072
/-- Virtual interfaces (R21). -/
def vis : Nat := 1024
/-- Contexts the device holds at once (R22). -/
def contexts : Nat := 4096
/-- First-level TLB entries of a core and second-level entries of a quad (R16, R152). -/
def tlb1 : Nat := 96
def tlb2 : Nat := 4096

/-- Lines of 64 bytes in the data L1 of a core, 256 KiB, and in the LLC slice of a base die, 64 MiB (R1). -/
def l1Lines : Nat := 4096
/-- Lines of 64 bytes in the instruction L1 of a core, 64 KiB (R1). -/
def il1Lines : Nat := 1024
def llcLines : Nat := 1048576

/-- A 64-bit value the spec leaves open (assumption 1). -/
opaque freeWord : Nat → Word
/-- A choice the spec leaves open among `k` alternatives, before it is reduced modulo `k` (assumption 1). -/
opaque freeChoice : Nat → Nat

/-- What the controller's fuses and images fix and the spec does not list: the identity key, the measurements of boot ROM
and firmware and the rollback counter of an attestation report (R306, R308), byte by byte. -/
opaque identity : Nat → Byte
/-- The version of the fused rollback counter (R306). -/
opaque rollback : Nat
/-- SHA-256 (R307, R308), a function of FIPS 180-4 that the spec names and does not restate. -/
opaque sha256 : List Byte → BitVec 256
/-- How the telemetry summary of an attestation report codes the LIFE and the temperature of each die and the thermal row of
each stack, byte by byte (R308): Table 15.6 gives its contents and no layout. -/
opaque telemetry : List Nat → List (Option Int) → List Nat → Nat → Byte

end Sys2Proof.Config
end

