-- ==== Sys2Proof/Machine/State.lean ====
section
/-!
DEFINITION. Sys2Proof/Machine/State.lean: the state of the package as plain data, the reasons a step can stop, and the
state after reset. INVENTORY.md, '## State', names the rule behind every field and every reset value.
-/
namespace Sys2Proof.Machine

/-- A finite map by key: keys strictly rise, and a key that is not listed holds the map's default. -/
abbrev Sparse (α : Type) := List (Nat × α)

/-! ### What a seat holds -/

/-- A valid shape-table entry (R58). -/
structure Shape where
  kind : ShapeKind
  row0 : Nat
  x0 : Nat
  h : Nat
  w : Nat
  fmt : Fmt
  deriving DecidableEq, Repr

/-- STATUS (Tables 7.3 and 11.2). -/
structure Status where
  exp : Bool := false
  lifechg : Bool := false
  defer : Bool := false
  lane : Bool := false
  intrap : Bool := false
  prv : Bool := false
  deriving DecidableEq, Repr

/-- The special registers of a seat (Table 16.6), but for STATUS, TAGS and TAGFAULT, and for those that report shared
state. Each holds the fields its own table gives; reserved fields read as 0. -/
structure Sregs where
  vl : Nat := 0
  maxvl : Nat := 0
  stripbase : Word := 0
  seed : Word := 0
  mode : Rm := .rne
  ovfns : Bool := false
  excen : BitVec 5 := 0
  excflags : BitVec 5 := 0
  qblk : BitVec 2 := 0
  nmsel : BitVec 2 := 0
  decay : BitVec 32 := 0x3F800000#32
  mxsa : Ent := 0
  spf : BitVec 32 := 0
  lrow0 : Nat := 0
  mseqAct : Bool := false
  mseqJ : BitVec 5 := 0
  mseqPos : BitVec 4 := 0
  mseqRow : BitVec 11 := 0
  ldstlen : BitVec 11 := 0
  causeCode : BitVec 8 := 0
  causeDetail : BitVec 8 := 0
  epc : Word := 0
  eval : Word := 0
  eshElem : BitVec 32 := 0
  eshPart : Bool := false
  eshEnt : Ent := 0
  tvec : BitVec 62 := 0
  rsp : BitVec 58 := 0
  dvsp : BitVec 55 := 0
  restart : Vector (BitVec 32) 8 := Vector.replicate 8 0
  cpixCause : BitVec 8 := 0
  cpixDetail : BitVec 8 := 0
  cpixTag : BitVec 6 := 0
  cpixElem : BitVec 32 := 0
  gslot : Vector (Option (BitVec 8)) 4 := Vector.replicate 4 none
  prio : BitVec 3 := 0
  claim : Bool := false
  cvtidx : BitVec 8 := 0
  ctxlkVi : BitVec 10 := 0
  ctxlkHandle : BitVec 13 := 0
  ctxlkNone : Bool := true
  ctxlkCin : BitVec 18 := 0
  trcErr : Bool := false
  trcN : BitVec 17 := 0
  sbase : BitVec 52 := 0
  ssize : BitVec 20 := 0
  swptr : Word := 0
  srdptr : Word := 0
  dropped : Word := 0
  rvbase : BitVec 51 := 0
  rvcnt : Word := 0
  wpLow : Vector (BitVec 58) 4 := Vector.replicate 4 0
  wpHigh : Vector (BitVec 58) 4 := Vector.replicate 4 0
  wpMode : Vector (BitVec 2) 4 := Vector.replicate 4 0
  deriving DecidableEq, Repr

/-- The tile of a stationary buffer (R118, R120): K rows of 128 weights as codes, their format, and for grouped and
MXFP4 tiles the scales, keyed by 128 × row (or group) + column. `rows` says how many rows are in the buffer: the weights of
the others are zero (R121). -/
inductive TileMode where
  | dense | grouped | grouped2 | diagonal
  deriving DecidableEq, Repr

structure Tile where
  fmt : Fmt
  mode : TileMode
  k : Nat
  g : Nat
  rows : Nat
  codes : Sparse (BitVec 32)
  scales : Sparse (BitVec 32)
  deriving DecidableEq, Repr

/-- The queues of a seat (Table 9.1). -/
inductive Queue where
  | p | v | m | c (ch : Nat) | x | s
  deriving DecidableEq, Repr

/-- The element-wise vector functions (Tables 20.2, 20.3, 20.13, R416, R418, R423). -/
inductive VecFn where
  | add | sub | mul | div | min | max | abs | neg | fma | fms | sqrt | rcp | rsqrt | exp2
  | and | or | xor | not | shl | shr | sra | addSat | subSat | mulSat | shlSat
  | mov | sel | idx | cvt (rm : Option Rm)
  deriving DecidableEq, Repr

/-- The comparisons of VCMP (R416). -/
inductive CmpFn where
  | eq | ne | lt | le | un
  deriving DecidableEq, Repr

/-- The reductions and the scan (R105, R106). -/
inductive RedFn where
  | sum | max | min | scan
  deriving DecidableEq, Repr

/-- The addressing of a vector memory access (Table 20.18, R427). -/
inductive VAddr where
  | unit | strided | pitched | indexed (scaled : Bool)
  deriving DecidableEq, Repr

/-- The mask operations of Table 16.5. -/
inductive MaskFn where
  | and | or | xor | andn | not | pop | first | setn
  deriving DecidableEq, Repr

/-- The control field of a row-step (Table 5.1). -/
inductive AccCtl where
  | zero | acc | decay | sub
  deriving DecidableEq, Repr

/-- The kinds of FENCE (Table 9.4); `scoped` holds the scope code of .q, .d, .v and .s. -/
inductive FenceKind where
  | sv | vs | all | scoped (scope : Nat)
  deriving DecidableEq, Repr

/-- A copy command's transfer, from its 64-byte descriptor (Table 8.1) and the instruction (R182 to R184). -/
structure Xfer where
  avl : Nat
  desc : Word
  src : Word
  dst : Word
  sstr : Int
  dstr : Int
  sfmt : Fmt
  dfmt : Fmt
  conv : Bool
  rm : Rm
  ovfns : Bool
  tag : Nat
  octag : Option Nat
  routine : Word
  rarg : Word
  maxvl : Nat
  seed : Word
  deriving DecidableEq, Repr

/-- A collective's descriptor (Table 18.3). -/
structure CollDesc where
  src : Word
  dst : Word
  len : Nat
  mcg : Nat
  npkgm1 : Nat
  rank : Nat
  root : Nat
  tag : Nat
  fmt : Nat
  op : Nat
  collid : Word
  nred : Bool
  deriving DecidableEq, Repr

/-- A command of a seat's queue (Table 9.1). Register fields name where a result goes. -/
inductive Cmd where
  | load (d : Reg) (bytes : Nat) (signed : Bool)
  | store (bytes : Nat)
  | atomic (fn : AtomFn) (d : Reg) (wide uns sys : Bool)
  | finit | frnw (d : Reg) | flife (d : Reg)
  | pub (scope : Nat) | acq (d : Reg) (scope : Nat)
  | fence (kind : FenceKind)
  | qfence (mask : BitVec 9)
  | vec (fn : VecFn)
  | vcmp (fn : CmpFn) (md : MaskNo)
  | red (fn : RedFn) (seg : Bool)
  | perm | compr | expnd | nmsel | qnt | dqnt
  | had (dist : Nat) (chain : Bool)
  | bcast | extr (d : Reg) | ins | slide
  | append
  | pzero
  | vload (a : VAddr) (ff : Bool)
  | vstore (a : VAddr) (ordered : Bool)
  | mask (fn : MaskFn) (md ma mb : MaskNo) (d : Reg)
  | cpix (md : MaskNo) (tag : Nat)
  | mmr (ctl : AccCtl) | mmt (ctl : AccCtl)
  | accrd (rm : Option Rm) | accwr (add : Bool) | accsc | accz
  | ldst (ff : Bool) (mode : TileMode) (g : Nat) (fmt : Fmt) | swst | ldstp
  | prefetch (x : Xfer) | copy (x : Xfer) | xform (x : Xfer) | image (x : Xfer)
  | coll (d : CollDesc) (red : Bool) (group : Nat) (desc : Word)
  | sapp (d : Reg) | sckp (d : Reg) | scur (d : Reg) (code : Nat) | scurArm (d : Reg)
  | srecv (d : Reg) | strunc (d : Reg)
  deriving DecidableEq, Repr

/-- A replay of REPF (R133 to R135): the captured words and the position. -/
structure Replay where
  words : List (BitVec 32)
  base : Word
  k : Nat
  dv : Nat
  dacc : Nat
  j : Nat
  pos : Nat
  deriving DecidableEq, Repr

/-- A bypass chain (R72, R83, R116): the va of its first VHAD.c, that instruction's PC and its replay, the stages' distances,
oldest first, and the PCs of those that the VSAMPLE counter chose (R293). -/
structure Chain where
  shape : Shape
  ent : Ent
  pc : Word
  replay : Option Replay
  stages : List Nat
  sampled : List Word
  deriving DecidableEq, Repr

/-- An element's access as a vector command's pass translated it (R152, R153): what EAcc and Hit of the machine hold. -/
structure Passed where
  i : Nat
  va : Word
  n : Nat
  nib : Option Nat
  pa : Nat
  mt : Nat
  plc : Nat
  frame : Nat
  deriving DecidableEq, Repr

/-- Everything a command captured at issue (R76, R95, R126, R244), and where a stopped one resumes. -/
structure Cap where
  cmd : Cmd
  queue : Queue
  pc : Word
  word : Word
  vl : Nat
  maxvl : Nat
  stripbase : Word
  seed : Word
  mode : Rm
  ovfns : Bool
  excen : BitVec 5
  qblk : BitVec 2
  nmsel : BitVec 2
  decay : BitVec 32
  mxsa : Option Shape
  mxsaEnt : Ent
  d : Option Shape
  a : Option Shape
  b : Option Shape
  dEnt : Ent
  aEnt : Ent
  bEnt : Ent
  /-- mk, the execution mask or the selecting mask; 0 for none -/
  msk : MaskNo
  /-- first accumulator row, and the count of ACCSC and ACCZ -/
  acc : Nat
  n : Nat
  /-- scalar operands captured at issue: address or scalar, data or stride, and the compare value of ACAS -/
  x : Word
  y : Word
  z : Word
  /-- the bypass chain this command reads: the source entry and the stages below it (R72, R116) -/
  chain : Option Chain
  /-- where a P-queue command was translated to at issue: address, memory type, placement -/
  pa : Option (Nat × Nat × Nat)
  /-- the reservation of a VAPPEND (R413): TAIL and CAP -/
  slot : Option (Nat × Nat)
  /-- part of it has been performed, or it resumes after a stop (R79, R81, R128) -/
  partial_ : Bool
  /-- the lowest element that each cluster has not performed (R78), and the next row of an MMT or an LDST (R127, R121) -/
  prog : Vector Nat 8
  row : Nat
  /-- where this performing ends before its end: the bound of each cluster, and of the rows -/
  lim : Option (Vector Nat 8)
  rowLim : Option Nat
  /-- elements of a scatter that have been performed ahead of others, and those that this performing takes (R217) -/
  did : List Nat
  only : Option (List Nat)
  /-- a V-queue command has handed its addresses and data to the memory path (R202): its elements as its pass, which has ended
  without a fault, translated them; none of a command that touches no memory -/
  handed : Option (List Passed)
  /-- the VSAMPLE counter chose this instruction (R293) -/
  sampled : Bool
  /-- ERET resumed it after WATCH: it fires no watchpoint (R296) -/
  unwatched : Bool
  deriving DecidableEq, Repr

/-- What a transform core holds while a routine runs (R197, R198, Table 8.9): the local store, the stream buffers and the
registers a0 to a7. What the routine's code has written is what the event of its next ECALL says. -/
structure Routine where
  core : Nat
  /-- pre-emption has stopped it at an ECALL (R198): it holds no core, and waits for its next chunk -/
  stopped : Bool
  store : Sparse Byte
  sb0 : List Byte
  sb1 : List Byte
  a : Vector Word 8
  deriving DecidableEq, Repr

/-- A transfer that a copy channel's engine is working on (R181, R185, R188, R197, R199). -/
structure Active where
  cap : Cap
  /-- elements, tiles or bytes done; B of a PREFETCH -/
  done : Nat
  /-- the remaining count A of a PREFETCH (R185) -/
  left : Int
  /-- lines of the strip buffer: line PA (with the tag of its memory type), bytes read, expiry seen (R169, R186) -/
  lines : List (Nat × List (Byte × Bool))
  /-- bytes of the source a routine has been given (R198) -/
  taken : Nat
  /-- OCTAG has been set (R182) -/
  consumed : Bool
  /-- the data has been moved: what is left is RESULT and the tag (R347); with the fault that ended it -/
  ran : Bool
  err : Option (BitVec 8 × BitVec 8 × Word)
  /-- device time at which a routine started, or last came back from an ECALL (R257) -/
  since : Nat
  routine : Option Routine
  deriving DecidableEq, Repr

/-- A CPIX gather in the background (R190): the command, the addresses of its elements, and how many it performs. -/
structure Gather where
  cap : Cap
  /-- the element's physical address, memory type, placement and frame, as the probe pass translated it (R153) -/
  hits : List (Nat × Nat × Nat × Nat)
  count : Nat
  fault : Option (BitVec 8 × BitVec 8 × Nat)
  deriving DecidableEq, Repr

/-- A virtual processor (R45 to R49). -/
structure Vp where
  pc : Word
  stack : List Word
  spilled : Nat
  /-- waits for the block at its PC (R49) -/
  waiting : Bool
  trapped : Bool
  deriving DecidableEq, Repr

/-- An outstanding fork (R45, R49): the VPs by lane, how many were created, and the lane instruction buffers. -/
structure Fork where
  vps : Sparse Vp
  created : Nat
  /-- by cluster: up to eight 512-byte blocks, the most recently used first, with the words held -/
  buffers : Sparse (List (Nat × List Byte))
  /-- block fetches under way: (cluster, block) -/
  fetching : List (Nat × Nat)
  /-- by cluster: one more than the lane that issued last (R49) -/
  turn : Sparse Nat
  deriving DecidableEq, Repr

/-- A completed sampled instruction (Table 14.3): its entry, VL and PC, the device time of its completion, and the elements
that each lane cluster performed. -/
structure Sample where
  ent : Ent
  vl : Nat
  pc : Word
  time : Nat
  elems : Vector Nat 8
  deriving DecidableEq, Repr

/-- What the control thread waits for (R42). -/
inductive Wait where
  | tags (all : Bool) (m : Word)
  | barrier (group : Nat) (gbar : Bool) (episode : Nat)
  | vjoin
  | deadline (t : Word)
  | yield
  | cpdrn (ch : Nat)
  /-- the context, and the incarnation whose reclaim was in progress (R389) -/
  | rclm (ctx : Nat) (inc : BitVec 6)
  /-- until every virtual processor has exited (R51) -/
  | joined
  /-- PHASE: until the fork has ended and the P and V memory commands have been performed (R42, R213) -/
  | drained
  /-- the context whose translations go, or 4096 for every one (R406) -/
  | tlbi (ctx : Nat)
  deriving DecidableEq, Repr

/-- A page a parked seat waits for (R248): the fault it would raise and when it parked. -/
structure Park where
  va : Word
  since : Nat
  epc : Word
  late : Bool
  /-- the virtual processor whose access it is -/
  lane : Option Nat
  deriving DecidableEq, Repr

/-- A seat with a COMPUTE node bound to it (R41), or the image of a saved one (R253). -/
structure Seat where
  ctx : Nat
  inc : BitVec 6
  vi : Nat
  handle : Nat
  node : Word
  launch : Nat
  single : Bool
  fuse : Bool
  /-- the number of the binding, package-wide (R40) -/
  boundAt : Nat
  pc : Word
  s : Vector Word 32
  m : Vector Mask 8
  v : Vector (Option Shape) 63
  plane : Sparse Cell
  acc : Sparse Cell
  buf : Vector (Option Tile) 2
  /-- the active buffer; the other one is the shadow (R118) -/
  active : Bool
  status : Status
  sr : Sregs
  tags : BitVec 64
  tagfault : BitVec 64
  rstack : List Word
  pend : List Cap
  aside : List Cap
  /-- the resume point of a late trap (R246) -/
  resume : Word
  chan : Vector (Option Active) 4
  gathers : List Gather
  fork : Option Fork
  replay : Option Replay
  /-- the replay a handler interrupted (R135) -/
  replaySaved : Option Replay
  /-- a VHAD.c was the last command issued (R72): its chain -/
  byp : Option Chain
  /-- the chain that a trap interrupted (R83) -/
  bypSaved : Option Chain
  halted : Bool
  wait : Option Wait
  /-- the wait that a trap interrupted, which the instruction takes up again (R42, R243) -/
  waitSaved : Option Wait
  park : Option Park
  /-- while the seat waits at YIELD: the other seat has issued since (R433) -/
  yielded : Bool
  /-- issue fires no watchpoint: the instruction that ERET resumed after WATCH (R296), of the control thread, or of the
  virtual processor of a lane; and the control thread's while a handler runs that came before it issued -/
  noWatch : Bool
  noWatchSaved : Bool
  noWatchVp : Option Nat
  /-- V-pipe instructions since the last sample (R293) -/
  sampleCnt : Nat
  /-- completed sampled instructions whose VSAMPLE is to be written (R293) -/
  samples : List Sample
  /-- tags named by commands issued and not yet set (R191) -/
  tagsOut : List Nat
  /-- where a saved seat was last resident: its engines go on for it (R252) -/
  home : Nat
  /-- the collector has stopped issue (R251) -/
  stopping : Option StopCause
  /-- since when (R257) -/
  stopSince : Nat
  /-- every engine has acknowledged: the seat is pre-empted (R251) -/
  declared : Bool
  /-- a trap that was pending when the seat was stopped (R254, R259): code, detail, value -/
  pendingTrap : Option (BitVec 8 × BitVec 8 × Word)
  deriving DecidableEq, Repr

/-! ### The package -/

/-- A line of a data L1 (R147, R203): the valid bytes by offset, each with its dirty bit. -/
structure Line where
  cin : BitVec 18
  pa : Nat
  /-- 0 raw, 1 expanded, 2 decoded (R147) -/
  kind : Nat
  /-- placement of the page, for the counts of R151 and R160 -/
  plc : Nat
  bytes : Sparse (Byte × Bool)
  deriving DecidableEq, Repr

/-- A TLB entry (R152): the context, the first page's VA, the page size, the leaf, and its address. -/
structure TlbEntry where
  cin : BitVec 18
  va : Nat
  size : Nat
  leaf : Word
  /-- where the entry lies: A and D are set there (R143) -/
  pte : Nat
  deriving DecidableEq, Repr

/-- One core (R17, R36, R42). -/
inductive Residency where
  | empty | single | dual
  deriving DecidableEq, Repr

structure Core where
  res : Residency := .empty
  /-- which seat holds issue, and for how many cycles while the other was ready (R42) -/
  holder : Nat := 0
  held : Nat := 0
  /-- CYCLE, and the part of the next cycle that has passed, in 160ths (R19, R270) -/
  cycle : Nat := 0
  frac : Nat := 0
  /-- cycles of a seat switch still to pass (R42) -/
  switching : Nat := 0
  l1 : List Line := []
  /-- the lines that the instruction L1 holds, by CIN and address, the most recently fetched first (R1, assumption 8) -/
  il1 : List (BitVec 18 × Nat) := []
  tlb : List TlbEntry := []
  deriving DecidableEq, Repr

/-- The states of a quad's power domain (R283, R284). -/
inductive Power where
  /-- `resuming`: bound within 1 µs of its hold, it issues after 0.5 µs (R283) -/
  | on | resuming | hold | lowering (since : Nat) (wake : Bool) | retention | gated | waiting | ramping
  deriving DecidableEq, Repr

structure Quad where
  fused : Bool := false
  tlb : List TlbEntry := []
  power : Power := .gated
  since : Nat := 0
  clamp : Nat := 0
  steps : BitVec 48 := 0
  chainperm : BitVec 6 := 0x3F#6
  calm : Bool := true
  lvl : Nat := 0
  why : BitVec 2 := 0
  /-- device time of the last withdrawal of a chaining pair (R279), and of the last change of fusion (R37) -/
  lastWithdraw : Option Nat := none
  fusedAt : Option Nat := none
  deriving DecidableEq, Repr

/-- A stack pair's permit pool (R275). -/
structure Pair where
  permits : Nat := 64
  locked : Bool := false
  calm : Nat := 0
  lastInterval : Option Nat := none
  /-- device time of the last sample of the balancer (R269) -/
  lastSample : Option Nat := none
  deriving DecidableEq, Repr

/-- A fleeting tile (R163). -/
structure FTile where
  birth : BitVec 20 := 0
  expd : Bool := true
  deriving DecidableEq, Repr

/-- The Barograph of a die (R298). -/
structure Baro where
  core : Nat
  vi : Nat
  start : BaroTrigger
  stop : BaroTrigger
  post : Nat
  running : Bool
  stopAt : Option Nat
  frozen : Bool
  written : Nat
  /-- the element pointers of the last entry, which stay where no V-pipe instruction is in progress (Table 14.6) -/
  eptr : Word
  /-- the core has issued since the last granted cycle (Table 14.6) -/
  issued : Bool
  /-- the last 65,536 entries, by index -/
  ring : Sparse (BitVec 128)
  deriving DecidableEq, Repr

structure Die where
  life : Nat := 2000
  hot : Bool := false
  /-- junction readings of the past 100 ms since the last reset, newest first, with their device time (R165) -/
  readings : List (Nat × Int) := []
  lastSweep : Nat := 0
  /-- wakes waiting for the in-rush arbiter, first come first (R284) -/
  wakes : List Nat := []
  baro : Option Baro := none
  deriving DecidableEq, Repr

/-- An HBM stack's thermal row (R280): the row, the last readings, and when the last one was taken. -/
structure Stack where
  row : Nat := 0
  readAt : Option Nat := none
  readings : List Int := []
  code : Int := 0
  deriving DecidableEq, Repr

/-- The format-range registers of every memory controller (Table 6.8). -/
structure Frr where
  w0 : Word := 0
  w1 : Word := 0
  w2 : Word := 0
  w3 : Word := 0
  deriving DecidableEq, Repr

/-- An on-demand range of a context (R434, A3). -/
structure Range where
  va : Nat
  size : Nat
  attrs : Word
  deriving DecidableEq, Repr

/-- A page request that waits for its host (R248). -/
structure PageReq where
  va : Word
  node : Word
  since : Nat
  deriving DecidableEq, Repr

/-- A context (R22, R23). -/
structure Ctx where
  vi : Nat
  handle : Nat
  inc : BitVec 6
  ptroot : Word
  /-- the incarnation whose reclaim is in progress (R260, R262), with the device time of its kill -/
  reclaim : Option (BitVec 6 × Nat)
  onDemand : List Range
  requests : List PageReq
  nextLaunch : Nat
  /-- LOCALRQ and REMOTERQ by die (R151) -/
  localRq : Vector Word 4
  remoteRq : Vector Word 4
  /-- firmware context: its nodes run with PRV = 1 (R239) -/
  firmware : Bool
  deriving DecidableEq, Repr

/-- Where a node stands (R29, R30, R33, R40, R242); `unreachable` is an unreleased node whose PREDCNT could not be reached, and
which is never released. -/
inductive NodeState where
  | unreleased | unreachable | ready | bound | finishing | finished | failed | discarded
  deriving DecidableEq, Repr

/-- A node of a launch: the fields the scheduler read (Tables 2.1 to 2.3). -/
structure Node where
  addr : Word
  kind : Nat
  ctl : BitVec 32
  entry : Word
  succ : Word
  gslots : Vector (Option (BitVec 8)) 4
  args : Vector Word 8
  opnds : Vector (BitVec 32) 8
  state : NodeState
  readyAt : Nat
  /-- effective priority at its binding (R40) -/
  boundPrio : Nat
  /-- where it runs: seat key, transform core or fabric slot -/
  unit : Nat
  released : Bool
  /-- a0 to a7 of a TRANSFORM node's routine at its start (R41) -/
  regs : Option (Vector Word 8)
  /-- the page its saved image still waits for (R248) -/
  blocked : Option Word
  image : Option Seat
  deriving DecidableEq, Repr

/-- A failure as the scheduler records it (R242, R304). -/
structure Failure where
  node : Word
  cause : BitVec 16
  epc : Word
  eval : Word
  deriving DecidableEq, Repr

inductive LaunchState where
  | loaded | running | complete
  deriving DecidableEq, Repr

/-- A loaded graph (R28, R33, R436). -/
structure Launch where
  ctx : Nat
  id : Nat
  inc : BitVec 6
  vi : Nat
  seq : BitVec 32
  /-- the endpoint whose doorbell started it (R304) -/
  peer : Nat
  state : LaunchState
  nodes : List Node
  groups : List (BitVec 32)
  failures : List Failure
  killed : Option Nat
  /-- episodes completed: 2 × group (+ 1 for GBAR) ↦ count (R356) -/
  episodes : Sparse Nat
  /-- the episodes each member has arrived at: 2 × group (+ 1 for GBAR) ↦ node addresses with their counts (R357) -/
  arrived : Sparse (List (Word × Nat))
  deriving DecidableEq, Repr

/-- An egress entry (R229) and whether it has been sent. -/
structure Egress where
  value : Word
  pos : Nat
  asen : BitVec 32
  sent : Bool
  deriving DecidableEq, Repr

/-- A stream: the engine's private state beside the object in memory (R225 to R235). -/
structure Stream where
  obj : Word
  objPa : Nat
  egress : List Egress
  /-- input ring: index of the oldest descriptor and the count held -/
  inHead : Nat
  inCount : Nat
  egHead : Nat
  nextSlot : Nat
  /-- valid checkpoint slots: slot, tag, and the order in which they were written -/
  slots : List (Nat × Word × Nat)
  slotSeq : Nat
  watcher : Option (Nat × Word)
  cancels : List Nat
  deriving DecidableEq, Repr

/-- A package's part of a collective (R360 to R365). -/
structure CollPart where
  ctx : Nat
  desc : CollDesc
  red : Bool
  launch : Nat
  group : Option Nat
  /-- members that issued: node, descriptor address, the description each gave -/
  members : List (Word × Word × CollDesc × Bool)
  started : Bool
  /-- the root's next chunk (R361) -/
  next : Nat
  /-- chunks or elements done, contributions received by rank, acknowledgements still to come -/
  got : List (Nat × Nat × List Byte)
  acks : Nat
  fault : Option (BitVec 8 × BitVec 8 × Nat)
  /-- the virtual address of the fault (Table 11.3) -/
  va : Word
  deriving DecidableEq, Repr

/-- A VI (R301, R302, R307). -/
structure Vi where
  prov : ViProvision
  /-- the doorbell counter D, 8 bytes (R302), and how many entries have been started -/
  doorbell : Word
  next : Nat
  /-- the writes of the doorbell, oldest first: the entries each brought that have not been answered, and its endpoint (R304) -/
  rings : List (Nat × Nat)
  /-- registered routines: context handle, address, the image, and its measurement (R307) -/
  routines : List (Nat × Nat × List Byte × BitVec 256)
  cvt : Sparse (BitVec 16)
  unroutable : Nat
  deriving DecidableEq, Repr

/-- A page under migration (R160 to R162). -/
structure Mig where
  ctx : Nat
  va : Word
  die : Option Nat
  frame : Nat
  copied : Bool
  /-- what an engine writes for a seat that is gone, with its CIN, by offset: performed at the Switch, unless the incarnation
  has been reclaimed by then (R162, R187, R261) -/
  held : List (BitVec 18 × Nat × List Byte)
  deriving DecidableEq, Repr

/-- What the package sends out (R229, R235, R242, R248, R304, R361), newest first. -/
inductive Out where
  /-- a completion, to the endpoint that wrote the doorbell (R304); the record of a failed node keeps its EVAL too (R242) -/
  | completion (vi peer : Nat) (seq : BitVec 32) (status : Nat) (value : Word) (addr : Word) (cause : BitVec 16)
      (epc eval : Word)
  | sample (ctx stream : Nat) (pos : Nat) (value : Word) (asen : BitVec 32)
  | cancel (ctx stream : Nat) (pos : Nat)
  | pageRequest (vi handle : Nat) (va : Word)
  | multicast (vi mcg : Nat) (port : Nat) (offset : Nat) (bytes : List Byte)
  | rmaData (vi : Nat) (va : Word) (bytes : List Byte)
  | rmaError (vi : Nat) (va : Word)
  | rmaAck (vi : Nat) (va : Word)
  | query (vi : Nat) (va : Word) (bytes : List Byte)
  | deviceWrite (pa : Nat) (bytes : List Byte)
  | refusedConnection (port peer : Nat)
  | error (vi : Nat) (unit : Nat)
  deriving DecidableEq, Repr

/-- The package's own state (R139, R258, R306). -/
structure Pkg where
  /-- firmware runs; false in recovery (R306) -/
  booted : Bool := false
  recovery : Bool := false
  stopped : Bool := false
  lg : Nat := 0
  lgRecord : Option Nat := none
  corrected : Sparse Nat := []
  conns : List (Nat × Nat) := []
  dropped : Nat := 0
  domain : Nat := 0
  deriving DecidableEq, Repr

/-- The thread whose instruction `exec` runs: a seat's control thread, or a VP of its fork. -/
structure Thread where
  key : Nat
  lane : Option Nat
  deriving DecidableEq, Repr

/-- A pre-emption that a ready node, or a co-resident group as a whole, has won (R39, R40): its nodes, and the seats they are to
be bound to, each with the SEAT and the FUSE of its node. -/
structure Hold where
  ctx : Nat
  launch : Nat
  nodes : List Word
  seats : List (Nat × Bool × Bool)
  deriving DecidableEq, Repr

/-- What happens next where the spec leaves the order open (assumption 2). -/
inductive Move where
  /-- the thread issues its next instruction -/
  | issue (key : Nat) (lane : Option Nat)
  /-- the control thread issues, and its queues perform nothing -/
  | issueHold (key : Nat)
  /-- the pending command at a position of a seat's queues is performed, if nothing orders it later -/
  | perform (key pos : Nat)
  /-- some elements of the scatter at a position are performed ahead of the others (R217) -/
  | performSome (key pos : Nat) (els : List Nat)
  /-- the V-queue command at a position hands its addresses and data to the memory path (R202) -/
  | hand (key pos : Nat)
  /-- the next chunk of a started GCAST goes out (R361) -/
  | chunk (ctx : Nat) (collid : Word)
  /-- an event of the package -/
  | event (i : Instr)
  /-- device time passes -/
  | lapse (ticks : Nat)
  /-- a TLB drops the translation of an address -/
  | forget (core : Nat) (va : Nat)
  deriving DecidableEq, Repr

/-- The state of the whole package. -/
structure State where
  /-- every byte of HBM, by physical address; an unlisted byte reads 0 (assumption 3) -/
  mem : List Host.Cell
  /-- the fleeting arrays' data bytes are in `mem`; here the tiles' stamps, by tile number -/
  tiles : Sparse FTile
  /-- expanded lines of compressed pages that the LLC holds: line PA ↦ the 64 bytes (R149, R155) -/
  llcExp : Sparse (List Byte)
  cores : Sparse Core
  seats : Sparse Seat
  ctxs : Sparse Ctx
  vis : Sparse Vi
  launches : List Launch
  streams : Sparse Stream
  colls : List CollPart
  quads : Sparse Quad
  pairs : Sparse Pair
  dies : Sparse Die
  hbm : Sparse Stack
  frrs : Sparse Frr
  pkg : Pkg
  migs : List Mig
  /-- frames that firmware has given out: first address and size (R434) -/
  frames : List (Nat × Nat)
  /-- seats that a pre-emption has won for nodes that are not bound yet (R39, R40) -/
  holds : List Hold
  /-- bindings made so far (R40) -/
  binds : Nat
  /-- requests by page and sending die in this epoch (R160): page frame × 4 + die ↦ count -/
  epoch : Sparse Nat
  devtime : Nat
  out : List Out
  thr : Option Thread
  /-- issue performs no queued command (the model's own, assumption 2) -/
  hold : Bool
  agenda : List Move
  /-- counter of the free values (assumption 1) -/
  freeN : Nat
  deriving DecidableEq, Repr

/-- The machine stops. Each is safe: a claim about what comes after becomes unprovable, none becomes provable. -/
inductive Fault where
  /-- `exec` was asked for an instruction with no thread to issue it; raised by every instruction that a thread issues.
  Safe: `step` never asks for one then. -/
  | noThread
  /-- an event that cannot take place in this state, with the row's mnemonic; raised by the package's steps. Safe: the
  event does not happen in the machine. -/
  | notEnabled (what : String)
  /-- the package performs nothing until it is reset (R259, R282, R306); raised by `step`. Safe. -/
  | deviceStopped
  deriving DecidableEq, Repr

/-- The model has no meaning to give. -/
inductive Refusal where
  /-- an instruction whose arm of `exec` is not written yet; raised by `exec`. Safe. -/
  | notModelled (mnemonic : String)
  deriving DecidableEq, Repr

/-- The package right after reset, before the boot ROM has run (R306): nothing is bound, no VI is provisioned, memory
lists nothing, every register that reports shared state has the reset value of Table 16.6. -/
def State.reset : State where
  mem := []
  tiles := []
  llcExp := []
  cores := []
  seats := []
  ctxs := []
  vis := []
  launches := []
  streams := []
  colls := []
  quads := []
  pairs := []
  dies := []
  hbm := []
  frrs := []
  pkg := {}
  migs := []
  frames := []
  holds := []
  binds := 0
  epoch := []
  devtime := 0
  out := []
  thr := none
  hold := false
  agenda := []
  freeN := 0

end Sys2Proof.Machine
end

