-- ==== Sys2Proof/Machine/Bits.lean ====
section
/-!
DEFINITION. Sys2Proof/Machine/Bits.lean: helpers shared by all meanings: finite maps in their canonical form, little-endian
bytes (R5), sign extension, bit counts.
-/
namespace Sys2Proof.Machine

/-! ### Finite maps -/

/-- The entry at a key. -/
def mapFind {α : Type} : Sparse α → Nat → Option α
  | [], _ => none
  | (k', v) :: t, k => if k' = k then some v else if k < k' then none else mapFind t k

/-- The map with `v` at `k`. -/
def mapInsert {α : Type} : Sparse α → Nat → α → Sparse α
  | [], k, v => [(k, v)]
  | (k', v') :: t, k, v =>
    if k < k' then (k, v) :: (k', v') :: t
    else if k' = k then (k, v) :: t
    else (k', v') :: mapInsert t k v

/-- The map without an entry at `k`. -/
def mapErase {α : Type} : Sparse α → Nat → Sparse α
  | [], _ => []
  | (k', v') :: t, k =>
    if k < k' then (k', v') :: t
    else if k' = k then t
    else (k', v') :: mapErase t k

/-- The value at a key, with the map's default for an unlisted one. -/
def mapGet {α : Type} (dflt : α) (m : Sparse α) (k : Nat) : α := (mapFind m k).getD dflt

/-- Setting a key: the default is never listed, so equal maps are equal lists. -/
def mapSet {α : Type} [DecidableEq α] (dflt : α) (m : Sparse α) (k : Nat) (v : α) : Sparse α :=
  if v = dflt then mapErase m k else mapInsert m k v

/-- Keys strictly rise from `lo` on, and every value passes `ok`. -/
def mapOkFrom {α : Type} (ok : α → Bool) : Nat → Sparse α → Bool
  | _, [] => true
  | lo, (k, v) :: t => decide (lo ≤ k) && ok v && mapOkFrom ok (k + 1) t

/-- The canonical form of a finite map: keys strictly rise and no value is the default. -/
def mapWf {α : Type} [DecidableEq α] (dflt : α) (m : Sparse α) : Bool :=
  mapOkFrom (fun v => decide (v ≠ dflt)) 0 m

/-- Every value changed by `f`. -/
def mapMap {α : Type} (f : Nat → α → α) (m : Sparse α) : Sparse α := m.map (fun p => (p.1, f p.1 p.2))

/-! ### Bytes and bits -/

/-- The n low bytes of a number, little-endian (R5). -/
def leBytes : Nat → Nat → List Byte
  | 0, _ => []
  | n + 1, v => BitVec.ofNat 8 v :: leBytes n (v / 256)

/-- The number that little-endian bytes hold (R5). -/
def leNat : List Byte → Nat
  | [] => 0
  | b :: t => b.toNat + 256 * leNat t

/-- Bits [lo+n−1 : lo] of a number. -/
def bits (v lo n : Nat) : Nat := v / 2 ^ lo % 2 ^ n

/-- The value of the low w bits read as two's complement (R5, R86). -/
def signedOf (w v : Nat) : Int :=
  let u := v % 2 ^ w
  if 2 ^ (w - 1) ≤ u then (u : Int) - 2 ^ w else u

/-- The low w bits of an integer (R101). -/
def wrapTo (w : Nat) (v : Int) : Nat := (v % (2 ^ w : Nat)).toNat

/-- Sign extension of an offset field to 64 bits. -/
def sext {n : Nat} (v : BitVec n) : Word := v.signExtend 64

/-- Leading zero bits of a w-bit number. -/
def clzOf (w v : Nat) : Nat := if v = 0 then w else w - 1 - v.log2

/-- Set bits of a number, counted over its w low bits. -/
def popOf : Nat → Nat → Nat
  | 0, _ => 0
  | w + 1, v => v % 2 + popOf w (v / 2)

/-- The lowest set bit of a number among its n low bits, counted from `base`. -/
def lowestSet : Nat → Nat → Nat → Option Nat
  | 0, _, _ => none
  | n + 1, base, v => if v % 2 = 1 then some base else lowestSet n (base + 1) (v / 2)

/-- Smallest power of two that is at least n (R105). -/
def pow2Above (n : Nat) : Nat := if n ≤ 1 then 1 else 2 ^ ((n - 1).log2 + 1)

/-- Quotient rounded up. -/
def ceilDiv (a b : Nat) : Nat := (a + b - 1) / b

/-- `List.set` past the end changes nothing; the i-th element or a default. -/
def nth {α : Type} (dflt : α) (l : List α) (i : Nat) : α := l.getD i dflt

/-- The list without the element at position i. -/
def dropAt {α : Type} (l : List α) (i : Nat) : List α := l.take i ++ l.drop (i + 1)

end Sys2Proof.Machine
end

