-- ==== Sys2Proof/Machine/Round.lean ====
section
/-!
DEFINITION. Sys2Proof/Machine/Round.lean: the exact numbers of R84 to R88, the stochastic generator (R92), rounding
to a grid (R91) and delivery into a format (R88, R89). All of it runs in exact integer arithmetic.
-/
namespace Sys2Proof.Machine

/-- The five arithmetic flags of Table 4.5, in its bit positions: NV 4, DZ 3, OF 2, UF 1, NX 0. -/
abbrev Flags := BitVec 5

/-- An exact number (R84, R88). `fin neg m e st` is (−1)^neg × m × 2^e with m > 0; with `st` set the magnitude lies
strictly between m × 2^e and (m + 1) × 2^e, which only quotients, roots and powers of two do. -/
inductive Num where
  | nan (signalling : Bool)
  | inf (neg : Bool)
  | zero (neg : Bool)
  | fin (neg : Bool) (m : Nat) (e : Int) (st : Bool)
  deriving DecidableEq, Repr

/-- What rounding depends on beside the mode: the captured SEED and ROUND.OVFNS (R88, R91). -/
structure RoundEnv where
  mode : Rm
  seed : Word
  ovfns : Bool
  deriving DecidableEq, Repr

def flagNone : Flags := 0#5
def flagNV : Flags := 16#5
def flagDZ : Flags := 8#5
def flagOF : Flags := 4#5
def flagUF : Flags := 2#5
def flagNX : Flags := 1#5

/-- rbits(seed, n) of R92. -/
def rbits (seed n : Word) : Nat :=
  let x0 := seed ^^^ (n * 0x9E3779B97F4A7C15#64)
  let x1 := (x0 ^^^ (x0 >>> 31)) * 0xBF58476D1CE4E5B9#64
  let x2 := (x1 ^^^ (x1 >>> 29)) * 0x94D049BB133111EB#64
  let x3 := x2 ^^^ (x2 >>> 32)
  x3.toNat % 2 ^ 32

/-- Mantissa bits t of a float format (Table 4.1). -/
def Fmt.tbits : Fmt → Nat
  | .fp32 => 23 | .bf16 => 7 | .fp16 => 10 | .e4m3 => 3 | .e5m2 => 2 | .mxfp4 => 1 | _ => 0

/-- Exponent bias of a float format (Table 4.1). -/
def Fmt.bias : Fmt → Int
  | .fp32 | .bf16 => 127 | .fp16 | .e5m2 => 15 | .e4m3 => 7 | .mxfp4 => 1 | _ => 0

/-- The exponent of the smallest normal number, 1 − bias (R84). -/
def Fmt.emin (f : Fmt) : Int := 1 - Fmt.bias f

/-- The code of the largest finite magnitude (Table 4.1). -/
def Fmt.maxFinite : Fmt → Nat
  | .fp32 => 0x7F7FFFFF | .bf16 => 0x7F7F | .fp16 => 0x7BFF | .e4m3 => 0x7E | .e5m2 => 0x7B
  | .mxfp4 => 0x7 | _ => 0

/-- The code of +∞ where the format has one (Table 4.1). -/
def Fmt.infCode : Fmt → Option Nat
  | .fp32 => some 0x7F800000 | .bf16 => some 0x7F80 | .fp16 => some 0x7C00 | .e5m2 => some 0x7C
  | _ => none

/-- The canonical NaN (Table 4.2). E2M1 has none (R88 delivers +0). -/
def Fmt.nanCode : Fmt → Nat
  | .fp32 => 0x7FC00000 | .bf16 => 0x7FC0 | .fp16 => 0x7E00 | .e4m3 => 0x7F | .e5m2 => 0x7E | _ => 0

/-- The sign bit of a float code. -/
def signCode (f : Fmt) (neg : Bool) : Nat := if neg then 2 ^ (f.width - 1) else 0

/-- The exact number a float code stands for (R84, R85, Table 4.1). -/
def floatValue (f : Fmt) (code : Nat) : Num :=
  let neg := code / 2 ^ (f.width - 1) % 2 == 1
  let mag := code % 2 ^ (f.width - 1)
  let t := Fmt.tbits f
  let ef := mag / 2 ^ t
  let mf := mag % 2 ^ t
  match Fmt.infCode f with
  | some ic =>
    if mag = ic then .inf neg
    else if mag > ic then .nan (mf / 2 ^ (t - 1) % 2 == 0)
    else if mag = 0 then .zero neg
    else if ef = 0 then .fin neg mf (Fmt.emin f - t) false
    else .fin neg (2 ^ t + mf) (ef - Fmt.bias f - t) false
  | none =>
    if f = .e4m3 ∧ mag = 0x7F then .nan false
    else if mag = 0 then .zero neg
    else if ef = 0 then .fin neg mf (Fmt.emin f - t) false
    else .fin neg (2 ^ t + mf) (ef - Fmt.bias f - t) false

/-- The value of an E8M0 scale code: 2^(c − 127), or a quiet NaN for 0xFF (R87). -/
def e8m0Value (c : Nat) : Num :=
  if c % 256 = 255 then .nan false else .fin false 1 ((c % 256 : Nat) - 127) false

/-- Whether rounding a magnitude whose quotient is `q` and whose remainder is `r` of 2^`sh` (plus something smaller,
when `st`) moves to q + 1 (R91). `neg` is the sign of the number; `n` is the stream index. -/
def roundsAway (env : RoundEnv) (n : Word) (neg : Bool) (q r sh : Nat) (st : Bool) : Bool :=
  if r = 0 ∧ st = false then false else
  match env.mode with
  | .rne => decide (2 * r > 2 ^ sh) || (decide (2 * r = 2 ^ sh) && (st || q % 2 == 1))
  | .rna => decide (2 * r ≥ 2 ^ sh)
  | .rtz => false
  | .rdn => neg
  | .rup => !neg
  | .sr =>
    let lowPart := r * 2 ^ 32 / 2 ^ sh
    let fracUp := if st || r * 2 ^ 32 % 2 ^ sh != 0 then lowPart + 1 else lowPart
    -- f = (x − lo)/(hi − lo) with lo and hi the signed neighbours
    if neg then !(decide (rbits env.seed n < 2 ^ 32 - fracUp))
    else decide (rbits env.seed n < lowPart)

/-- A magnitude m × 2^e (with sticky `st`) on the grid of multiples of 2^g: the rounded multiple, and whether the
magnitude lies on the grid (R91). A magnitude far below the grid keeps only its being there. -/
def roundMag (env : RoundEnv) (n : Word) (neg : Bool) (m : Nat) (e : Int) (st : Bool) (g : Int) : Nat × Bool :=
  if g ≤ e then (m * 2 ^ (e - g).toNat, !st)
  else
    let sh := (g - e).toNat
    if sh > m.log2 + 80 then
      ((if roundsAway env n neg 0 1 64 true then 1 else 0), false)
    else
      let q := m / 2 ^ sh
      let r := m % 2 ^ sh
      ((if roundsAway env n neg q r sh st then q + 1 else q), r = 0 && !st)

/-- The value delivered on overflow (R89, Table 4.3). -/
def overflowCode (f : Fmt) (env : RoundEnv) (neg : Bool) : Nat :=
  let sat := signCode f neg + Fmt.maxFinite f
  let big : Nat := match f with
    | .e4m3 => if env.ovfns then 0x7F else sat
    | .e5m2 => if env.ovfns then signCode f neg + 0x7C else sat
    | .mxfp4 => sat
    | _ => signCode f neg + (Fmt.infCode f).getD 0
  match env.mode with
  | .rne | .rna | .sr => big
  | .rtz => sat
  | .rdn => if neg then big else sat
  | .rup => if neg then sat else big

/-- deliver(x, F, mode, n) of R88: the code written and the flags raised. -/
def deliver (x : Num) (f : Fmt) (env : RoundEnv) (n : Word) : Nat × Flags :=
  match x with
  | .nan _ => if f = .mxfp4 then (0, flagNV) else (Fmt.nanCode f, flagNone)
  | .inf neg =>
    match Fmt.infCode f with
    | some c => (signCode f neg + c, flagNone)
    | none =>
      if f = .e4m3 ∧ env.ovfns then (0x7F, flagNV) else (signCode f neg + Fmt.maxFinite f, flagNV)
  | .zero neg => (signCode f neg, flagNone)
  | .fin neg m e st =>
    let t : Int := Fmt.tbits f
    let top : Int := (m.log2 : Int) + e
    let g : Int := max top (Fmt.emin f) - t
    let (q, exact) := roundMag env n neg m e st g
    -- the code of q × 2^g: exponent field and mantissa run together
    let code : Int := (g + t + Fmt.bias f) * 2 ^ Fmt.tbits f + q - 2 ^ Fmt.tbits f
    if code > Fmt.maxFinite f then (overflowCode f env neg, flagOF ||| flagNX)
    else
      let nx := if exact then flagNone else flagNX
      let tiny : Bool :=
        if top < Fmt.emin f then
          let (u, _) := roundMag env n neg m e st (top - t)
          !(decide (u = 2 ^ (Fmt.tbits f + 1)) && decide (top + 1 = Fmt.emin f))
        else false
      let uf := if !exact && tiny then flagUF else flagNone
      (signCode f neg + code.toNat, nx ||| uf)

/-- rnd(x, integers, mode, n) of R91: the rounded integer and whether x was one. NaN and ∞ are the caller's. -/
def roundToInt (x : Num) (env : RoundEnv) (n : Word) : Int × Bool :=
  match x with
  | .fin neg m e st =>
    let (q, exact) := roundMag env n neg m e st 0
    ((if neg then -(q : Int) else q), exact)
  | _ => (0, true)

end Sys2Proof.Machine
end

