-- ==== Sys2Proof/Machine/Flags.lean ====
section
/-!
DEFINITION. Sys2Proof/Machine/Flags.lean: the arithmetic flags (R96, R97): which of an element's flags are enabled, and
the value ARITH reports.
-/
namespace Sys2Proof.Machine

/-- The enabled conditions among the flags an element raised (R97): only NV, DZ and OF can trap (Table 4.5). -/
def enabledOf (excen : BitVec 5) (f : Flags) : Flags := f &&& excen &&& 0x1C#5

/-- EXCEN and EXCFLAGS as MTSR writes them (Table 4.5): bits [1:0] of EXCEN are read-only. -/
def excenOf (w : Word) : BitVec 5 := w.extractLsb' 0 5 &&& 0x1C#5
def excflagsOf (w : Word) : BitVec 5 := w.extractLsb' 0 5

/-- Flags ORed over a list (R125, R129). -/
def flagsOr (l : List Flags) : Flags := l.foldl (· ||| ·) flagNone

end Sys2Proof.Machine
end

