-- ==== Sys2Proof/Machine/Arith.lean ====
section
/-!
DEFINITION. Sys2Proof/Machine/Arith.lean: exact arithmetic on numbers (R88, R90, R98 to R101), conversions (R102), and
the element-wise functions of the vector unit (R411, R412, R418, R420).
-/
namespace Sys2Proof.Machine

/-! ### Exact sums, products, quotients and roots -/

def Num.isNan : Num → Bool
  | .nan _ => true | _ => false
def Num.isSnan : Num → Bool
  | .nan s => s | _ => false
def Num.isInf : Num → Bool
  | .inf _ => true | _ => false
def Num.isZero : Num → Bool
  | .zero _ => true | _ => false
def Num.neg : Num → Bool
  | .inf n => n | .zero n => n | .fin n _ _ _ => n | .nan _ => false
def Num.flip : Num → Num
  | .inf n => .inf (!n) | .zero n => .zero (!n) | .fin n m e st => .fin (!n) m e st | x => x
def Num.abs : Num → Num
  | .inf _ => .inf false | .zero _ => .zero false | .fin _ m e st => .fin false m e st | x => x

/-- NV for a signalling NaN among the operands (R99). -/
def snanFlag (l : List Num) : Flags := if l.any Num.isSnan then flagNV else flagNone

/-- An exact integer as a number; zero is +0. -/
def Num.ofInt (v : Int) : Num := if v = 0 then .zero false else .fin (decide (v < 0)) v.natAbs 0 false

/-- The lowest exponent among finite terms. -/
def lowestExp : List Num → Option Int
  | [] => none
  | .fin _ _ e _ :: t => match lowestExp t with
    | none => some e
    | some e' => some (min e e')
  | _ :: t => lowestExp t

/-- The exact sum of the finite terms in units of 2^e0. -/
def sumAt (e0 : Int) : List Num → Int
  | [] => 0
  | .fin neg m e _ :: t =>
    let v : Int := (m * 2 ^ (e - e0).toNat : Nat)
    (if neg then -v else v) + sumAt e0 t
  | _ :: t => sumAt e0 t

/-- An exact sum of any number of terms (R90, R125): infinities of both signs raise NV and give a NaN; any NaN term
gives a NaN; an exact zero is +0, or −0 under RDN, unless every term is a zero of one sign. -/
def sumNums (mode : Rm) (l : List Num) : Num × Flags :=
  let nv := if l.any (· == .inf true) && l.any (· == .inf false) then flagNV else flagNone
  if l.any Num.isNan then (.nan false, nv)
  else if nv ≠ flagNone then (.nan false, nv)
  else if l.any (· == .inf true) then (.inf true, flagNone)
  else if l.any (· == .inf false) then (.inf false, flagNone)
  else
    let e0 := (lowestExp l).getD 0
    let t := sumAt e0 l
    if t = 0 then
      if !l.isEmpty && l.all (· == .zero false) then (.zero false, flagNone)
      else if !l.isEmpty && l.all (· == .zero true) then (.zero true, flagNone)
      else (.zero (mode = .rdn), flagNone)
    else (.fin (decide (t < 0)) t.natAbs e0 false, flagNone)

/-- The exact product (Table 4.6: a zero times an infinity is a NaN and raises NV). -/
def mulNum : Num → Num → Num × Flags
  | .nan _, _ => (.nan false, flagNone)
  | _, .nan _ => (.nan false, flagNone)
  | .inf _, .zero _ => (.nan false, flagNV)
  | .zero _, .inf _ => (.nan false, flagNV)
  | .fin n m e _, .fin n' m' e' _ => (.fin (n != n') (m * m') (e + e') false, flagNone)
  | .zero n, x => (.zero (n != x.neg), flagNone)
  | x, .zero n => (.zero (n != x.neg), flagNone)
  | .inf n, x => (.inf (n != x.neg), flagNone)
  | x, .inf n => (.inf (n != x.neg), flagNone)

/-- Sum of two, with the NV of signalling operands (R99). -/
def addNum (mode : Rm) (a b : Num) : Num × Flags :=
  let (x, f) := sumNums mode [a, b]
  (x, f ||| snanFlag [a, b])

/-- The quotient of two magnitudes to 80 bits beyond the divisor, and whether it is inexact. -/
def divMag (m m' : Nat) : Nat × Nat × Bool :=
  let k := 160 + m'.log2
  (m * 2 ^ k / m', k, m * 2 ^ k % m' ≠ 0)

/-- The exact quotient (R98, Table 4.6). -/
def divNum (a b : Num) : Num × Flags :=
  let sf := snanFlag [a, b]
  if a.isNan || b.isNan then (.nan false, sf)
  else
    let n := a.neg != b.neg
    match a, b with
    | .inf _, .inf _ => (.nan false, flagNV)
    | .zero _, .zero _ => (.nan false, flagNV)
    | .inf _, _ => (.inf n, flagNone)
    | .zero _, _ => (.zero n, flagNone)
    | _, .inf _ => (.zero n, flagNone)
    | .fin .., .zero _ => (.inf n, flagDZ)
    | .fin _ m e _, .fin _ m' e' _ =>
      let (q, k, st) := divMag m m'
      (.fin n q (e - e' - k) st, flagNone)
    | _, _ => (.nan false, sf)

/-- Integer square root by bits: `r` holds the root found so far, from bit `k` − 1 down. -/
def isqrtGo (n : Nat) : Nat → Nat → Nat
  | 0, r => r
  | k + 1, r =>
    let r' := r + 2 ^ k
    if r' * r' ≤ n then isqrtGo n k r' else isqrtGo n k r

/-- The integer square root, rounded down. -/
def isqrt (n : Nat) : Nat := isqrtGo n (n.log2 / 2 + 1) 0

/-- The root of m × 2^e to at least 80 bits. -/
def sqrtMag (m : Nat) (e : Int) : Nat × Int × Bool :=
  let k : Nat := if (e - 200) % 2 = 0 then 200 else 201
  let n := m * 2 ^ k
  let r := isqrt n
  (r, (e - k) / 2, r * r ≠ n)

/-- √x (R98, Table 4.6). -/
def sqrtNum (a : Num) : Num × Flags :=
  match a with
  | .nan s => (.nan false, if s then flagNV else flagNone)
  | .zero n => (.zero n, flagNone)
  | .inf false => (.inf false, flagNone)
  | .inf true => (.nan false, flagNV)
  | .fin true _ _ _ => (.nan false, flagNV)
  | .fin false m e _ =>
    let (r, e', st) := sqrtMag m e
    (.fin false r e' st, flagNone)

/-- 1/x (R98, Table 4.6). -/
def rcpNum (a : Num) : Num × Flags :=
  match a with
  | .nan s => (.nan false, if s then flagNV else flagNone)
  | .zero n => (.inf n, flagDZ)
  | .inf n => (.zero n, flagNone)
  | .fin n m e _ =>
    let (q, k, st) := divMag 1 m
    (.fin n q (-e - k) st, flagNone)

/-- 1/√x (R98, Table 4.6). -/
def rsqrtNum (a : Num) : Num × Flags :=
  match a with
  | .nan s => (.nan false, if s then flagNV else flagNone)
  | .zero n => (.inf n, flagDZ)
  | .inf false => (.zero false, flagNone)
  | .inf true => (.nan false, flagNV)
  | .fin true _ _ _ => (.nan false, flagNV)
  | .fin false m e _ =>
    -- with the exponent even, 2^p/√m to at least 80 bits
    let m1 := if e % 2 = 0 then m else 2 * m
    let e1 : Int := if e % 2 = 0 then e else e - 1
    let p := 160 + m1.log2
    let r := isqrt (2 ^ (2 * p) / m1)
    (.fin false r (-(e1 / 2) - p) (r * r * m1 ≠ 2 ^ (2 * p)), flagNone)

/-- Working precision of 2^x. -/
def expBits : Nat := 288

/-- 2^(f / 2^n) for the n fraction bits of f, most significant first: `c` is 2^(2^−i) to `expBits` bits. -/
def expGo : List Bool → Nat → Nat → Nat
  | [], _, acc => acc
  | b :: t, c, acc =>
    let c' := isqrt (c * 2 ^ expBits)
    expGo t c' (if b then acc * c' / 2 ^ expBits else acc)

/-- 2^x (R98, Table 4.6): exact when x is an integer. -/
def exp2Num (a : Num) : Num × Flags :=
  match a with
  | .nan s => (.nan false, if s then flagNV else flagNone)
  | .zero _ => (.fin false 1 0 false, flagNone)
  | .inf false => (.inf false, flagNone)
  | .inf true => (.zero false, flagNone)
  | .fin neg m e _ =>
    if 0 ≤ e then
      let v : Int := (m * 2 ^ (min e 64).toNat : Nat)
      (.fin false 1 (if neg then -v else v) false, flagNone)
    else
      let n := (-e).toNat
      let v : Int := if neg then -(m : Int) else m
      let whole := v / (2 ^ n : Nat)
      let frac := (v % (2 ^ n : Nat)).toNat
      if frac = 0 then (.fin false 1 whole false, flagNone)
      else
        let bs := (List.range n).map (fun i => frac / 2 ^ (n - 1 - i) % 2 == 1)
        (.fin false (expGo bs (2 * 2 ^ expBits) (2 ^ expBits)) (whole - expBits) true, flagNone)

/-- Compare two numbers that are not NaNs: −0 equals +0 (R100). -/
def Num.toPair : Num → Int × Int
  | .fin neg m e _ => ((if neg then -(m : Int) else m), e)
  | _ => (0, 0)

def ltNum (a b : Num) : Bool :=
  match a, b with
  | .inf true, .inf true => false
  | .inf true, _ => true
  | _, .inf true => false
  | .inf false, _ => false
  | _, .inf false => true
  | x, y =>
    let (m, e) := x.toPair
    let (m', e') := y.toPair
    let e0 := min e e'
    decide (m * 2 ^ (e - e0).toNat < m' * 2 ^ (e' - e0).toNat)

def eqNum (a b : Num) : Bool := !ltNum a b && !ltNum b a

/-- VMIN and VMAX (R100): −0 is below +0; a lone NaN gives the other operand. -/
def minMaxNum (isMax : Bool) (a b : Num) : Num × Flags :=
  let sf := snanFlag [a, b]
  if a.isNan && b.isNan then (.nan false, sf)
  else if a.isNan then (b, sf)
  else if b.isNan then (a, sf)
  else
    let less := ltNum a b || (a == .zero true && b == .zero false)
    (if isMax then (if less then b else a) else (if less then a else b), sf)

/-! ### Elements -/

/-- The exact integer an element of the integer class holds (R86). -/
def intValue (f : Fmt) (code : Nat) : Int :=
  match f with
  | .int32 | .int16 | .int8 | .int4 => signedOf f.width code
  | _ => ((code % 2 ^ f.width : Nat) : Int)

/-- The range of an integer format (R86). -/
def intRange (f : Fmt) : Int × Int :=
  match f with
  | .int32 | .int16 | .int8 | .int4 => (-(2 ^ (f.width - 1) : Nat), (2 ^ (f.width - 1) : Nat) - 1)
  | _ => (0, (2 ^ f.width : Nat) - 1)

/-- An integer held to a range. -/
def clampInt (lo hi v : Int) : Int := max lo (min hi v)

/-- An integer written with saturation (R101). -/
def satTo (f : Fmt) (v : Int) : Nat :=
  let (lo, hi) := intRange f
  wrapTo f.width (clampInt lo hi v)

/-- The exact number an element of class float, integer or E8M0 holds. -/
def numValue (f : Fmt) (code : Nat) : Num :=
  match f.cls with
  | .float => floatValue f code
  | .integer => .ofInt (intValue f code)
  | .special => e8m0Value code

/-- Conversion by Table 4.7. -/
def convert (fs fd : Fmt) (code : Nat) (env : RoundEnv) (n : Word) : Nat × Flags :=
  match fd.cls with
  | .integer =>
    if fs.cls = .integer then (satTo fd (intValue fs code), flagNone)
    else
      let (lo, hi) := intRange fd
      match numValue fs code with
      | .nan _ => (0, flagNV)
      | .inf neg => (wrapTo fd.width (if neg then lo else hi), flagNV)
      | x =>
        let (v, exact) := roundToInt x env n
        if v < lo then (wrapTo fd.width lo, flagNV)
        else if v > hi then (wrapTo fd.width hi, flagNV)
        else (wrapTo fd.width v, if exact then flagNone else flagNX)
  | _ =>
    let x := numValue fs code
    let (c, f) := deliver x fd env n
    (c, f ||| snanFlag [x])

/-- The special cases of VFMA and VFMS (Table 4.6) and the single rounding: ±0 × ±∞ raises NV with any addend. -/
def fmaNum (mode : Rm) (a b c : Num) : Num × Flags :=
  let (p, fp) := mulNum a b
  let (x, fs) := sumNums mode [p, c]
  (x, fp ||| fs ||| snanFlag [a, b, c])

/-- The exact result of a float function (Table 20.2, R420); `c` is the old destination element. -/
def floatFn (fn : VecFn) (mode : Rm) (a b c : Num) : Num × Flags :=
  match fn with
  | .add => addNum mode a b
  | .sub => addNum mode a b.flip
  | .mul => let (x, f) := mulNum a b; (x, f ||| snanFlag [a, b])
  | .div => divNum a b
  | .min => minMaxNum false a b
  | .max => minMaxNum true a b
  | .abs => (a.abs, snanFlag [a])
  | .neg => (a.flip, snanFlag [a])
  | .fma => fmaNum mode a b c
  | .fms => fmaNum mode a b c.flip
  | .sqrt => sqrtNum a
  | .rcp => rcpNum a
  | .rsqrt => rsqrtNum a
  | .exp2 => exp2Num a
  | _ => (.nan false, flagNone)

/-- The exact result of an integer function (Table 20.2, R101, R420). -/
def intFn (fn : VecFn) (a b c : Int) : Int × Flags :=
  match fn with
  | .add | .addSat => (a + b, flagNone)
  | .sub | .subSat => (a - b, flagNone)
  | .mul | .mulSat => (a * b, flagNone)
  | .div => if b = 0 then (0, flagDZ) else (a.tdiv b, flagNone)
  | .min => (min a b, flagNone)
  | .max => (max a b, flagNone)
  | .abs => (a.natAbs, flagNone)
  | .neg => (-a, flagNone)
  | .fma => (a * b + c, flagNone)
  | .fms => (a * b - c, flagNone)
  | _ => (0, flagNone)

/-- The shifts of R412 on an element of width w; `amt` is the exact amount. -/
def shiftFn (fn : VecFn) (f : Fmt) (code : Nat) (amt : Int) : Nat :=
  let w := f.width
  let x := code % 2 ^ w
  if 0 ≤ amt ∧ amt < w then
    let a := amt.toNat
    match fn with
    | .shl => x * 2 ^ a % 2 ^ w
    | .shr => x / 2 ^ a
    | .sra => wrapTo w (signedOf w x / (2 ^ a : Nat))
    | _ => satTo f (intValue f x * (2 ^ a : Nat))
  else
    match fn with
    | .sra => wrapTo w (if 2 ^ (w - 1) ≤ x then -1 else 0)
    | .shlSat =>
      -- value(x) × 2^a for an a of w or more leaves the range unless x is 0
      let (lo, hi) := intRange f
      let v := intValue f x
      wrapTo w (if v = 0 then 0 else if v < 0 then lo else hi)
    | _ => 0

/-- The operands of one element: formats and codes of va, vb and the old vd. A scalar form has the scalar in `b`;
`amt` is the amount of a shift. -/
structure ElemIn where
  fd : Fmt
  fa : Fmt
  fb : Fmt
  a : Nat
  b : Nat
  c : Nat
  amt : Int
  i : Nat
  n : Word
  deriving DecidableEq, Repr

/-- One element of an element-wise instruction: the code written and the flags raised (R411, R412, R418, R420, R423).
`sel` is the selecting bit of VSEL. -/
def elemFn (fn : VecFn) (env : RoundEnv) (sel : Bool) (x : ElemIn) : Nat × Flags :=
  let w := x.fd.width
  match fn with
  | .and => (x.a &&& x.b, flagNone)
  | .or => (x.a ||| x.b, flagNone)
  | .xor => (x.a ^^^ x.b, flagNone)
  | .not => (2 ^ w - 1 - x.a % 2 ^ w, flagNone)
  | .shl | .shr | .sra | .shlSat => (shiftFn fn x.fd x.a x.amt, flagNone)
  | .mov => (x.a, flagNone)
  | .sel => (if sel then x.a else x.b, flagNone)
  | .idx => (x.i % 2 ^ w, flagNone)
  | .cvt rm => convert x.fa x.fd x.a { env with mode := rm.getD env.mode } x.n
  | .addSat | .subSat | .mulSat =>
    (satTo x.fd (intFn fn (intValue x.fa x.a) (intValue x.fb x.b) 0).1, flagNone)
  | _ =>
    if x.fd.cls = .float then
      let (r, f) := floatFn fn env.mode (floatValue x.fa x.a) (floatValue x.fb x.b) (floatValue x.fd x.c)
      let (c, f') := deliver r x.fd env x.n
      (c, f ||| f')
    else
      let (r, f) := intFn fn (intValue x.fa x.a) (intValue x.fb x.b) (intValue x.fd x.c)
      (wrapTo w r, f)

/-- The truth of a comparison and its flags (R100, R416). -/
def cmpFn (fn : CmpFn) (fa fb : Fmt) (a b : Nat) : Bool × Flags :=
  if fa.cls = .float then
    let x := floatValue fa a
    let y := floatValue fb b
    let un := x.isNan || y.isNan
    match fn with
    | .eq => (!un && eqNum x y, snanFlag [x, y])
    | .ne => (un || !eqNum x y, snanFlag [x, y])
    | .un => (un, snanFlag [x, y])
    | .lt => (!un && ltNum x y, if un then flagNV else flagNone)
    | .le => (!un && !ltNum y x, if un then flagNV else flagNone)
  else
    let x := intValue fa a
    let y := intValue fb b
    match fn with
    | .eq => (decide (x = y), flagNone)
    | .ne => (decide (x ≠ y), flagNone)
    | .lt => (decide (x < y), flagNone)
    | .le => (decide (x ≤ y), flagNone)
    | .un => (false, flagNone)

/-- One step of a reduction or a scan (R105, R106): op on two codes of one format, delivered in the destination's. -/
def redStep (fn : RedFn) (env : RoundEnv) (fa fb fd : Fmt) (a b : Nat) (n : Word) : Nat × Flags :=
  if fd.cls = .float then
    let x := floatValue fa a
    let y := floatValue fb b
    let (r, f) := match fn with
      | .sum | .scan => addNum env.mode x y
      | .max => minMaxNum true x y
      | .min => minMaxNum false x y
    let (c, f') := deliver r fd env n
    (c, f ||| f')
  else
    let x := intValue fa a
    let y := intValue fb b
    let r := match fn with
      | .sum | .scan => x + y
      | .max => max x y
      | .min => min x y
    (wrapTo fd.width r, flagNone)

/-- SR becomes RNE in reductions and scans, in row-steps and in accumulator sums (R93, R125). -/
def noSr (m : Rm) : Rm := if m = .sr then .rne else m

end Sys2Proof.Machine
end

