-- ==== Sys2Proof/Machine/Phys.lean ====
section
/-!
DEFINITION. Sys2Proof/Machine/Phys.lean: the physical side of memory: where units sit (R2, R3, R15), the regions of the
physical address space (R139), the home of a line (R150), bytes at the home, fleeting tiles (R163 to R175), compressed
tiles (R155, R156) and decoded windows (R158).
-/
namespace Sys2Proof.Machine

/-! ### Units (R2, R3, R15) -/

/-- Core, die and quad of a seat: seat `key` is seat key mod 2 of core key / 2. -/
def coreOf (key : Nat) : Nat := key / 2
def seatOf (key : Nat) : Nat := key % 2
def quadOfCore (core : Nat) : Nat := core / 4
def dieOfQuad (quad : Nat) : Nat := quad / 18
def dieOfCore (core : Nat) : Nat := dieOfQuad (quadOfCore core)
def dieOf (key : Nat) : Nat := dieOfCore (coreOf key)
/-- Stack pair of a quad, numbered over the package: pair p of die d is 9d + p (R3). -/
def pairOfQuad (quad : Nat) : Nat := quad / 2
/-- The partner quad of a stack pair (R3). -/
def partnerQuad (quad : Nat) : Nat := if quad % 2 = 0 then quad + 1 else quad - 1

def State.core (s : State) (c : Nat) : Core := mapGet {} s.cores c
def State.setCore (s : State) (c : Nat) (x : Core) : State := { s with cores := mapSet {} s.cores c x }
def State.quad (s : State) (q : Nat) : Quad := mapGet {} s.quads q
def State.setQuad (s : State) (q : Nat) (x : Quad) : State := { s with quads := mapSet {} s.quads q x }
def State.pair (s : State) (p : Nat) : Pair := mapGet {} s.pairs p
def State.setPair (s : State) (p : Nat) (x : Pair) : State := { s with pairs := mapSet {} s.pairs p x }
def State.die (s : State) (d : Nat) : Die := mapGet {} s.dies d
def State.setDie (s : State) (d : Nat) (x : Die) : State := { s with dies := mapSet {} s.dies d x }
def State.stack (s : State) (k : Nat) : Stack := mapGet {} s.hbm k
def State.setStack (s : State) (k : Nat) (x : Stack) : State := { s with hbm := mapSet {} s.hbm k x }
def State.tile (s : State) (t : Nat) : FTile := mapGet {} s.tiles t
def State.setTile (s : State) (t : Nat) (x : FTile) : State := { s with tiles := mapSet {} s.tiles t x }
def State.seat (s : State) (k : Nat) : Option Seat := mapFind s.seats k
def State.setSeat (s : State) (k : Nat) (q : Seat) : State := { s with seats := mapInsert s.seats k q }
def State.dropSeat (s : State) (k : Nat) : State := { s with seats := mapErase s.seats k }
def State.ctx (s : State) (c : Nat) : Option Ctx := mapFind s.ctxs c
def State.setCtx (s : State) (c : Nat) (x : Ctx) : State := { s with ctxs := mapInsert s.ctxs c x }

/-- CIN = {CTX, INC} (R23). -/
def cinOf (ctx : Nat) (inc : BitVec 6) : BitVec 18 := BitVec.ofNat 12 ctx ++ inc
def Seat.cin (q : Seat) : BitVec 18 := cinOf q.ctx q.inc

/-- FTICK, floor(DEVTIME / 100) (R164). -/
def State.ftick (s : State) : Nat := s.devtime / 100

/-! ### The physical map (R139) -/

def gib : Nat := 2 ^ 30

/-- The regions of Table 6.1. -/
inductive Region where
  | interleaved | local_ (d : Nat) | fleeting (d : Nat) | window | device | hole
  deriving DecidableEq, Repr

/-- First address of die d's local region, and of its fleeting array (Table 6.1). -/
def localBase (d : Nat) : Nat := 2 ^ 48 + d * 2 ^ 40
def fleetBase (d : Nat) : Nat := 2 * 2 ^ 48 + d * 2 ^ 28
def windowBase : Nat := 4 * 2 ^ 48
def deviceBase : Nat := 15 * 2 ^ 48

/-- The region of a physical address, with LG local GiB per die (R139). -/
def regionOf (lg pa : Nat) : Region :=
  if pa < 4 * (192 - lg) * gib then .interleaved
  else if localBase 0 ≤ pa ∧ pa < localBase 4 then
    if (pa - localBase 0) % 2 ^ 40 < lg * gib then .local_ ((pa - localBase 0) / 2 ^ 40) else .hole
  else if fleetBase 0 ≤ pa ∧ pa < fleetBase 4 then .fleeting ((pa - fleetBase 0) / 2 ^ 28)
  else if windowBase ≤ pa ∧ pa < windowBase + 2 ^ 48 then .window
  else if deviceBase ≤ pa ∧ pa < deviceBase + 2 ^ 48 then .device
  else .hole

/-- MT and PLC that a region accepts (Table 6.1). -/
def Region.accepts (r : Region) (mt plc : Nat) : Bool :=
  match r with
  | .interleaved => (mt == 0 || mt == 2) && (plc == 0 || plc == 7)
  | .local_ d => (mt == 0 || mt == 2) && (plc == 1 + d || plc == 7 || (plc == 5 && d == 0))
  | .fleeting d => mt == 1 && plc == 1 + d
  | .window => mt == 3 && plc == 0
  | .device => mt == 4 && plc == 0
  | .hole => false

/-- XOR of the 2-bit fields n[1:0], n[3:2], …, n[39:38] (R150). -/
def xorPairs : Nat → Nat → Nat
  | 0, _ => 0
  | k + 1, n => (n % 4) ^^^ xorPairs k (n / 4)

/-- Home die, stack within the die and channel of an HBM line; the die of a fleeting tile (R150). -/
def homeOf (lg pa : Nat) : Nat × Nat × Nat :=
  match regionOf lg pa with
  | .local_ d =>
    let n := (pa - localBase d) / 4096
    (d, n % 3, (n / 3 % 32) ^^^ bits n 16 5)
  | .fleeting d => (d, 0, 0)
  | _ =>
    let n := pa / 4096
    (xorPairs 20 n, n / 4 % 3, (n / 4 / 3 % 32) ^^^ bits n 16 5)

/-! ### Bytes at the home -/

/-- A byte as the home holds it; a byte that nothing has written reads 0 (assumption 3). -/
def memGet (m : List Host.Cell) (pa : Nat) : Byte := mapGet 0#8 m pa
def memSet (m : List Host.Cell) (pa : Nat) (b : Byte) : List Host.Cell := mapSet 0#8 m pa b

/-- The canonical form of memory: addresses strictly rise and no listed byte is 0. -/
def Memory.wf (m : List Host.Cell) : Bool := mapWf 0#8 m

def memBytes (m : List Host.Cell) (pa n : Nat) : List Byte := (List.range n).map fun i => memGet m (pa + i)
def memPut (m : List Host.Cell) (pa : Nat) (bs : List Byte) : List Host.Cell :=
  (bs.zipIdx).foldl (fun m x => memSet m (pa + x.2) x.1) m

/-- A write performed at the home slice. -/
def State.homePut (s : State) (pa : Nat) (bs : List Byte) : State := { s with mem := memPut s.mem pa bs }
def State.homeGet (s : State) (pa n : Nat) : List Byte := memBytes s.mem pa n

/-! ### Fleeting tiles (R163 to R175) -/

/-- Tile number of a fleeting address, over the package. -/
def tileOf (pa : Nat) : Nat := (pa - fleetBase 0) / 2048
def tileDie (t : Nat) : Nat := t / Config.tilesPerDie
def tileBase (t : Nat) : Nat := fleetBase 0 + t * 2048

/-- age := (t − BIRTH) mod 2^20 (R166). -/
def FTile.age (x : FTile) (tick : Nat) : Nat := (BitVec.ofNat 20 tick - x.birth).toNat

/-- A tile is live at a tick (R166). -/
def FTile.live (x : FTile) (life tick : Nat) : Bool := !x.expd && decide (x.age tick < life)

/-- Whether the tile that holds a fleeting address is live now. -/
def State.liveAt (s : State) (pa : Nat) : Bool :=
  (s.tile (tileOf pa)).live (s.die (tileDie (tileOf pa))).life s.ftick

/-- The bytes of a fleeting access and whether it read an expired byte (R167). An access lies in one tile (R171). -/
def State.fleetGet (s : State) (pa n : Nat) : List Byte × Bool :=
  if s.liveAt pa then (s.homeGet pa n, false) else (List.replicate n 0, true)

/-- Every tile of a die that is not live, `more` fleeting ticks from now, is marked (R178); ages do not wrap (R178). An
expired tile keeps BIRTH, which no rule reads again before FINIT. -/
def State.sweep (s : State) (d more : Nat) : State :=
  let life := (s.die d).life
  let dead := s.tiles.filter fun x => tileDie x.1 == d && decide (life ≤ x.2.age s.ftick + more)
  { s with tiles := dead.foldl (fun m x => mapSet {} m x.1 { x.2 with expd := true }) s.tiles
           dies := mapSet {} s.dies d { s.die d with lastSweep := s.devtime } }

/-- EXPD := 1 in one tile (R179). -/
def State.expire (s : State) (t : Nat) : State := s.setTile t { s.tile t with expd := true }

/-! ### Compressed tiles (R155, R156) -/

/-- The slot of the tile that holds expanded address `pa` of a compressed page: tiles lie in 4 KiB blocks of the frame. -/
def slotOf (pa : Nat) : Nat :=
  let t := pa / 256
  pa / 4096 * 4096 + 160 * (t % 16)

/-- The bytes of DICT16 indices, low nibble first. -/
def dictBytes (dict idx : List Byte) : List Byte :=
  (List.range 256).map fun i =>
    let b := (nth 0 idx (i / 2)).toNat
    nth 0 dict (if i % 2 = 0 then b % 16 else b / 16)

/-- The bytes of a SPARSE tile: the next listed byte for each set bit of the bitmap. -/
def sparseBytes : Nat → Nat → List Byte → List Byte
  | 0, _, _ => []
  | n + 1, bm, l =>
    if bm % 2 = 1 then (l.headD 0) :: sparseBytes n (bm / 2) l.tail
    else 0 :: sparseBytes n (bm / 2) l

/-- Expansion of an encoding (Table 6.7), or `none` when it is bad (R156): its length and its 256 bytes. -/
def expandTile (enc : List Byte) : Option (Nat × List Byte) :=
  let len := (nth 0 enc 1).toNat
  let pay := enc.drop 2
  if len > 160 then none else
  match (nth 0 enc 0).toNat with
  | 0 => if len = 2 then some (len, List.replicate 256 0) else none
  | 1 => if len = 6 then some (len, (List.range 256).map fun i => nth 0 pay (i % 4)) else none
  | 2 => if len = 146 then some (len, dictBytes (pay.take 16) (pay.drop 16)) else none
  | 3 =>
    let bm := leNat (pay.take 32)
    let pc := popOf 256 bm
    let body := (pay.drop 32).take pc
    if pc ≤ 126 ∧ len = 34 + pc ∧ body.all (fun b => b != 0) then some (len, sparseBytes 256 bm body) else none
  | _ => none

/-- The encoding at the slot of an expanded address. -/
def State.tileEncoding (s : State) (pa : Nat) : List Byte := s.homeGet (slotOf pa) 160

/-! ### Decoded windows (R158) -/

/-- FRRi of the memory controllers. -/
def State.frr (s : State) (i : Nat) : Frr := mapGet {} s.frrs i

/-- An FRR counts as enabled: EN is 1, and no field is reserved (Table 6.8). The table calls GRP ignored for MXFP4, and R158 ignores
an FRR with a reserved GRP value: GRP = 3 disables it whatever FMT is, DESIGN CHOICE (assumption 80). -/
def Frr.enabled (f : Frr) : Bool :=
  let fmt := bits f.w0.toNat 60 3
  f.w0.getLsbD 63 && decide (fmt ≤ 4) && decide (bits f.w0.toNat 58 2 ≠ 3)
    && decide (bits f.w0.toNat 52 6 = 0) && decide (bits f.w0.toNat 0 16 = 0)
    && decide (bits f.w1.toNat 40 24 = 0)
    && decide (bits f.w2.toNat 52 12 = 0) && decide (bits f.w2.toNat 0 6 = 0)
    && decide (bits f.w3.toNat 52 12 = 0) && decide (bits f.w3.toNat 0 16 = 0)

def Frr.fmt (f : Frr) : Nat := bits f.w0.toNat 60 3
def Frr.group (f : Frr) : Nat := 32 * 2 ^ bits f.w0.toNat 58 2
def Frr.rawBase (f : Frr) : Nat := bits f.w0.toNat 16 36 * 65536
def Frr.rawSize (f : Frr) : Nat := bits f.w1.toNat 0 40 * 65536
def Frr.scaleBase (f : Frr) : Nat := bits f.w2.toNat 6 46 * 64
def Frr.winBase (f : Frr) : Nat := bits f.w3.toNat 16 36 * 65536
/-- Codes in the raw range: two to a byte for the 4-bit formats. -/
def Frr.codes (f : Frr) : Nat := if f.fmt = 0 ∨ f.fmt = 1 ∨ f.fmt = 4 then 2 * f.rawSize else f.rawSize

/-- The lowest-numbered enabled FRR whose window covers an address (R158). -/
def State.frrFor (s : State) (pa : Nat) : Option Frr :=
  ((List.range 16).map s.frr).find? fun f =>
    f.enabled && decide (f.winBase ≤ pa) && decide (pa < f.winBase + 2 * f.codes)

/-- Element e of a window as a BF16 code (R158). -/
def State.windowElem (s : State) (f : Frr) (e : Nat) : Nat :=
  let k := e / 128
  let n := e % 128
  let nib := bits (memGet s.mem (f.rawBase + e / 2)).toNat (4 * (e % 2)) 4
  let byte := (memGet s.mem (f.rawBase + e)).toNat
  let x : Num :=
    if f.fmt = 4 then
      let c := (memGet s.mem (f.scaleBase + 128 * (k / 32) + n)).toNat
      (mulNum (floatValue .mxfp4 nib) (e8m0Value c)).1
    else
      let q := leNat (s.homeGet (f.scaleBase + 4 * (128 * (k / f.group) + n)) 4)
      let code : Int := match f.fmt with
        | 0 => nib | 1 => signedOf 4 nib | 2 => byte | _ => signedOf 8 byte
      (mulNum (.ofInt (code - (q % 65536 : Nat))) (floatValue .fp16 (q / 65536))).1
  (deliver x .bf16 ⟨.rne, 0, false⟩ 0).1

/-- The raw byte that holds the code of a window's address. -/
def Frr.rawAt (f : Frr) (pa : Nat) : Nat :=
  let e := (pa - f.winBase) / 2
  f.rawBase + if f.fmt = 0 ∨ f.fmt = 1 ∨ f.fmt = 4 then e / 2 else e

/-- The address whose home a line has: of a decoded line the raw line that holds its codes (R159). -/
def State.homedAt (s : State) (pa : Nat) : Nat :=
  match s.frrFor pa with
  | some f => if regionOf s.pkg.lg pa = .window then f.rawAt pa else pa
  | none => pa

/-- The home of a line. -/
def State.homeAt (s : State) (pa : Nat) : Nat × Nat × Nat := homeOf s.pkg.lg (s.homedAt pa)

/-- n bytes of a decoded window, or `none` where no enabled FRR covers one of them. -/
def State.windowGet (s : State) (pa n : Nat) : Option (List Byte) :=
  (List.range n).mapM fun i =>
    let a := pa + i
    match s.frrFor a with
    | none => none
    | some f =>
      let off := a - f.winBase
      some (BitVec.ofNat 8 (bits (s.windowElem f (off / 2)) (8 * (off % 2)) 8))

end Sys2Proof.Machine
end

