-- ==== Sys2Proof/Machine/Xlate.lean ====
section
/-!
DEFINITION. Sys2Proof/Machine/Xlate.lean: page tables, the walk, the TLBs and translation (R138 to R146, R152, R162).
-/
namespace Sys2Proof.Machine

/-- A fault of an access: the cause code of Table 11.3 and the detail of Table 6.5 (R146). -/
structure AFault where
  code : BitVec 8
  detail : BitVec 8
  deriving DecidableEq, Repr

def codeIllop : BitVec 8 := 0x01
def codePriv : BitVec 8 := 0x02
def codeAlign : BitVec 8 := 0x03
def codeXlate : BitVec 8 := 0x04
def codeProt : BitVec 8 := 0x05
def codeArith : BitVec 8 := 0x06
def codeShape : BitVec 8 := 0x07
def codeStack : BitVec 8 := 0x08
def codeDecode : BitVec 8 := 0x09
def codeEcc : BitVec 8 := 0x0A
def codeWatch : BitVec 8 := 0x0B
def codeBrk : BitVec 8 := 0x0C
def codeTrap : BitVec 8 := 0x0D
def codeStream : BitVec 8 := 0x0E
def codeTimeout : BitVec 8 := 0x0F

def xNotValid : AFault := ⟨codeXlate, 1⟩
def xNonCanon : AFault := ⟨codeXlate, 2⟩
def xBadPte : AFault := ⟨codeXlate, 3⟩
def pRead : AFault := ⟨codeProt, 1⟩
def pWrite : AFault := ⟨codeProt, 2⟩
def pExec : AFault := ⟨codeProt, 3⟩
def pUser : AFault := ⟨codeProt, 4⟩
def pCompressed : AFault := ⟨codeProt, 5⟩
def pWindow : AFault := ⟨codeProt, 6⟩
def pDevice : AFault := ⟨codeProt, 7⟩
def pNotFleet : AFault := ⟨codeProt, 8⟩
def pNotComp : AFault := ⟨codeProt, 9⟩
def dBadTile : AFault := ⟨codeDecode, 1⟩
def dNoWindow : AFault := ⟨codeDecode, 2⟩
def aAlign : AFault := ⟨codeAlign, 0⟩

/-! ### Page-table entries (Table 6.3) -/

def pteV (w : Word) : Bool := w.getLsbD 0
def pteR (w : Word) : Bool := w.getLsbD 4
def pteW (w : Word) : Bool := w.getLsbD 5
def pteX (w : Word) : Bool := w.getLsbD 6
def pteU (w : Word) : Bool := w.getLsbD 7
def pteA (w : Word) : Bool := w.getLsbD 8
def pteD (w : Word) : Bool := w.getLsbD 9
def pteMig (w : Word) : Bool := w.getLsbD 57
def ptePa (w : Word) : Nat := bits w.toNat 14 38 * 16384
def pteMt (w : Word) : Nat := bits w.toNat 58 3
def ptePlc (w : Word) : Nat := bits w.toNat 61 3
def pteLeaf (w : Word) : Bool := pteR w || pteW w || pteX w
def pteReserved (w : Word) : Bool :=
  decide (bits w.toNat 52 5 ≠ 0) || decide (bits w.toNat 10 4 ≠ 0) || decide (bits w.toNat 1 3 ≠ 0)

/-- A leaf as a walk finds it: where its entry lies, the entry, and the page it maps. -/
structure Leaf where
  pte : Nat
  word : Word
  va : Nat
  size : Nat
  deriving DecidableEq, Repr

/-- The conditions of R142 that make a leaf bad at a page size. R142 names the leaf's PA; that a page which runs past the end
of its region is BADPTE too is DESIGN CHOICE (assumption 60). -/
def badLeaf (lg : Nat) (w : Word) (size : Nat) : Bool :=
  let pa := ptePa w
  let r := regionOf lg pa
  decide (pa % size ≠ 0) || decide (regionOf lg (pa + size - 1) ≠ r)
    || !r.accepts (pteMt w) (ptePlc w)
    || (decide (ptePlc w = 5) && pteW w) || (decide (ptePlc w = 7) && decide (size ≠ 16384))

/-- The levels of a walk: the address bit at which the index starts, and the size a leaf maps there (R140). -/
def walkLevels : List (Nat × Nat) := [(47, 0), (36, 2 ^ 36), (25, 2 ^ 25), (14, 2 ^ 14)]

/-- The walk through the levels (R140 to R142). An entry of a table that lies where nothing is held reads 0. -/
def walkFrom (lg : Nat) (m : List Host.Cell) (va : Nat) : Nat → List (Nat × Nat) → Except AFault Leaf
  | _, [] => .error xBadPte
  | table, (sh, size) :: rest =>
    let pte := table + 8 * bits va sh 11
    let w : Word := BitVec.ofNat 64 (leNat (memBytes m pte 8))
    if !pteV w then .error xNotValid
    else if pteReserved w || decide (5 ≤ pteMt w) || decide (ptePlc w = 6) then .error xBadPte
    else if pteLeaf w then
      if size = 0 || badLeaf lg w size then .error xBadPte
      else .ok ⟨pte, w, va / size * size, size⟩
    else if pteMt w ≠ 0 || ptePlc w ≠ 0 || pteMig w || pteU w || pteA w || pteD w then .error xBadPte
    else walkFrom lg m va (ptePa w) rest

/-- A walk of a context's tables (R140 to R142). -/
def State.walk (s : State) (ctx : Nat) (va : Nat) : Except AFault Leaf :=
  match s.ctx ctx with
  | none => .error xNotValid
  | some c => walkFrom s.pkg.lg s.mem va (ptePa c.ptroot) walkLevels

/-- A and D are set by an atomic OR at the home of the entry (R143). -/
def State.setAD (s : State) (l : Leaf) (store : Bool) : State × Leaf :=
  let w := l.word ||| 0x100#64 ||| (if store then 0x200#64 else 0#64)
  if w = l.word then (s, l)
  else
    -- the OR acts on the entry as memory holds it now
    let cur : Word := BitVec.ofNat 64 (leNat (s.homeGet l.pte 8))
    let new := cur ||| 0x100#64 ||| (if store then 0x200#64 else 0#64)
    (s.homePut l.pte (leBytes 8 new.toNat), { l with word := w })

/-! ### TLBs (R152) -/

def TlbEntry.covers (e : TlbEntry) (cin : BitVec 18) (va : Nat) : Bool :=
  e.cin == cin && decide (e.va ≤ va) && decide (va < e.va + e.size)

/-- A TLB with an entry put first; an entry for the same page is replaced, and the oldest falls out when it is full. -/
def tlbFill (cap : Nat) (t : List TlbEntry) (e : TlbEntry) : List TlbEntry :=
  (e :: t.filter fun x => !x.covers e.cin e.va).take cap

/-- Both TLBs of a core hold a translation. -/
def State.tlbFill (s : State) (core : Nat) (e : TlbEntry) : State :=
  let c := s.core core
  let q := quadOfCore core
  let x := s.quad q
  (s.setCore core { c with tlb := Machine.tlbFill Config.tlb1 c.tlb e }).setQuad q
    { x with tlb := Machine.tlbFill Config.tlb2 x.tlb e }

/-- The translation a core's TLBs hold, the first level before the second. -/
def State.tlbFind (s : State) (core : Nat) (cin : BitVec 18) (va : Nat) : Option TlbEntry :=
  match (s.core core).tlb.find? (·.covers cin va) with
  | some e => some e
  | none => (s.quad (quadOfCore core)).tlb.find? (·.covers cin va)

/-- TLB entries dropped everywhere (R144, R162, R262, R406). -/
def State.tlbDrop (s : State) (p : TlbEntry → Bool) : State :=
  { s with cores := s.cores.map fun x => (x.1, { x.2 with tlb := x.2.tlb.filter fun e => !p e })
           quads := s.quads.map fun x => (x.1, { x.2 with tlb := x.2.tlb.filter fun e => !p e }) }

/-! ### Translation -/

/-- What an access does (Table 6.4, Table 6.5). -/
inductive AKind where
  | load (bytes : Nat)
  /-- LD.wu, which Table 6.4 does not admit on MT 4 (R370) -/
  | loadWu
  | store (bytes : Nat) | atomic | fetch | vload | vstore
  /-- FINIT and FRNW need W, FLIFE needs R, all need MT 1 (R172) -/
  | fleetW | fleetR
  /-- an engine's read or write (R145, R216) -/
  | eload | estore
  /-- CPIMG's write of a compressed slot: W, and MT 2 (R199) -/
  | image
  deriving DecidableEq, Repr

def AKind.writes : AKind → Bool
  | .store _ | .atomic | .vstore | .fleetW | .estore | .image => true
  | _ => false
def AKind.reads : AKind → Bool
  | .load _ | .loadWu | .atomic | .vload | .fleetR | .eload => true
  | _ => false

/-- The first protection fault of Table 6.5 that an access through a leaf meets (R145, R146, R172). R172 reports NOTFLEET after
WINDOW and DEVICE: FINIT and FRNW, which write, meet WINDOW on MT 3, every FLEET instruction meets DEVICE on MT 4, and each
NOTFLEET on MT 0 and MT 2 (DEDUCED, assumption 39). A fetch from a page of MT 4 with X = 1, for which Table 6.4 has no column, is
allowed, and finds a word that the spec leaves open: DESIGN CHOICE (assumption 41). -/
def protFault (k : AKind) (user : Bool) (w : Word) : Option AFault :=
  let mt := pteMt w
  let deviceBad : Bool := mt == 4 && (match k with
    | .load n | .store n => n != 4 && n != 8
    | .fetch => false
    | _ => true)
  if k.reads && !pteR w then some pRead
  else if k.writes && !pteW w then some pWrite
  else if k = .fetch && !pteX w then some pExec
  else if user && !pteU w then some pUser
  else if mt = 2 ∧ k.writes ∧ k ≠ .image ∧ k ≠ .fleetW then some pCompressed
  else if mt = 3 ∧ k.writes ∧ k ≠ .image then some pWindow
  else if deviceBad then some pDevice
  else if (k = .fleetW ∨ k = .fleetR) ∧ mt ≠ 1 then some pNotFleet
  else if k = .image ∧ mt ≠ 2 then some pNotComp
  else none

/-- Who makes an access: the context and incarnation, whether in user mode, the core whose TLBs serve it (an engine has none
and walks, R147, R152), and the die it sends its requests from: 4 for an engine of the I/O die. -/
structure Accessor where
  ctx : Nat
  cin : BitVec 18
  user : Bool
  core : Option Nat
  die : Nat
  deriving DecidableEq, Repr

/-- A translated address: where the access goes, its memory type and placement, and the page frame's first address. -/
structure Hit where
  pa : Nat
  mt : Nat
  plc : Nat
  frame : Nat
  deriving DecidableEq, Repr

/-- The outcome of a translation. -/
inductive Xl where
  | ok (h : Hit)
  | fault (f : AFault)
  /-- a store or atomic to a page that is migrating waits at translation (R162) -/
  | wait
  deriving DecidableEq, Repr

/-- The leaf an access uses: from the TLBs, or by a walk that fills them (R144, R152). -/
def State.leafFor (s : State) (who : Accessor) (va : Nat) : Except AFault Leaf :=
  match who.core with
  | some c =>
    match s.tlbFind c who.cin va with
    -- a held translation may be older than the tables; A and D go to the entry it was read from
    | some e => .ok ⟨e.pte, e.leaf, e.va, e.size⟩
    | none => s.walk who.ctx va
  | none => s.walk who.ctx va

/-- Translation of one address for one kind of access (R138 to R146, R162): A and D are set before the access. A read of
a replicated page goes to the copy of the reader's die (R150). -/
def State.translate (s : State) (who : Accessor) (k : AKind) (va : Word) : Xl × State :=
  if va.toNat / 2 ^ 58 ≠ 0 then (.fault xNonCanon, s)
  else
    match s.leafFor who va.toNat with
    | .error f => (.fault f, s)
    | .ok l =>
      match protFault k who.user l.word with
      | some f => (.fault f, s)
      | none =>
        if pteMig l.word && k.writes then (.wait, s)
        else
          let (s, l) := s.setAD l k.writes
          let s := match who.core with
            | some c => s.tlbFill c ⟨who.cin, l.va, l.size, l.word, l.pte⟩
            | none => s
          let pa := ptePa l.word + va.toNat % l.size
          let pa := if ptePlc l.word = 5 then pa + who.die % 4 * 2 ^ 40 else pa
          (.ok ⟨pa, pteMt l.word, ptePlc l.word, ptePa l.word⟩, s)

/-- A range of bytes translates page by page; the first fault ends it. Pages are at least 16 KiB. -/
def State.translateRange (s : State) (who : Accessor) (k : AKind) (va : Word) : Nat → Option (Word × AFault) × State
  | 0 => (none, s)
  | n + 1 =>
    -- 64-byte steps: no page is smaller
    match s.translate who k va with
    | (.ok _, s) => s.translateRange who k (va + 64) n
    | (.fault f, s) => (some (va, f), s)
    | (.wait, s) => s.translateRange who k (va + 64) n

end Sys2Proof.Machine
end

