-- ==== Sys2Proof/Machine/Mem.lean ====
section
/-!
DEFINITION. Sys2Proof/Machine/Mem.lean: the data L1 (R147, R148, R203), the request counts (R151, R160), and reading and
writing through the memory types (Table 6.4): what a load, a store and an atomic do once their address is translated.
-/
namespace Sys2Proof.Machine

/-! ### Request counts (R151, R160) -/

def ctxOfCin (cin : BitVec 18) : Nat := cin.toNat / 64

/-- The epoch counter of a page of PLC 7, for the die that sends it a request (R160). -/
def State.countEpoch (s : State) (die pa plc : Nat) : State :=
  if plc = 7 ∧ die < 4 then
    let k := pa / 16384 * 4 + die
    { s with epoch := mapInsert s.epoch k (min 65535 (mapGet 0 s.epoch k + 1)) }
  else s

/-- One 64-byte request of a die's cores for a context (R151), and for the page's epoch counter when it is PLC 7 (R160). -/
def State.count (s : State) (cin : BitVec 18) (die pa plc : Nat) : State :=
  let home := (s.homeAt pa).1
  let isLocal := plc = 5 ∨ home = die
  let s := match s.ctx (ctxOfCin cin) with
    | none => s
    | some c =>
      if h : die < 4 then
        s.setCtx (ctxOfCin cin)
          (if isLocal then { c with localRq := c.localRq.set die (c.localRq[die] + 1) }
           else { c with remoteRq := c.remoteRq.set die (c.remoteRq[die] + 1) })
      else s
  s.countEpoch die pa plc

/-- The request that a PUB's store or an ACQ's load makes at its home; one to a device reaches no slice and no array
(R151, R145). -/
def State.request (s : State) (cin : BitVec 18) (die : Nat) (h : Hit) : State :=
  if h.mt = 4 then s else s.count cin die h.pa h.plc

/-! ### L1 lines -/

/-- The line kind of a memory type (R147). -/
def kindOfMt (mt : Nat) : Nat := if mt = 2 then 1 else if mt = 3 then 2 else 0

def linePa (pa : Nat) : Nat := pa / 64 * 64

/-- The L1 slice that holds a line: the core's own, or in a fused quad that of core (PA >> 6) mod 4 (R148). -/
def State.sliceOf (s : State) (core pa : Nat) : Nat :=
  if (s.quad (quadOfCore core)).fused then quadOfCore core * 4 + pa / 64 % 4 else core

/-- The L1s a core reaches: its own, or the four of a fused quad. -/
def State.slices (s : State) (core : Nat) : List Nat :=
  if (s.quad (quadOfCore core)).fused then (List.range 4).map (quadOfCore core * 4 + ·) else [core]

def Line.is (l : Line) (cin : BitVec 18) (kind pa : Nat) : Bool :=
  l.cin == cin && l.kind == kind && l.pa == linePa pa

def State.line (s : State) (slice : Nat) (cin : BitVec 18) (kind pa : Nat) : Option Line :=
  (s.core slice).l1.find? (·.is cin kind pa)

/-- A line put into a slice in place of its older state; a line with no valid byte is not kept. -/
def State.putLine (s : State) (slice : Nat) (l : Line) : State :=
  let c := s.core slice
  let rest := c.l1.filter fun x => !x.is l.cin l.kind l.pa
  s.setCore slice { c with l1 := if l.bytes.isEmpty then rest else l :: rest }

/-- The dirty bytes of a line. -/
def Line.dirty (l : Line) : List (Nat × Byte) := l.bytes.filterMap fun x => if x.2.2 then some (x.1, x.2.1) else none

/-- The dirty bytes of a line reach its home (R203): one request (R151). -/
def State.flushLine (s : State) (die : Nat) (l : Line) : State :=
  match l.dirty with
  | [] => s
  | d => d.foldl (fun s x => { s with mem := memSet s.mem (l.pa + x.1) x.2 }) (s.count l.cin die l.pa l.plc)

/-- A write-back of one line: its bytes stay, clean. -/
def State.writeBackLine (s : State) (slice : Nat) (l : Line) : State :=
  (s.flushLine (dieOfCore slice) l).putLine slice { l with bytes := l.bytes.map fun x => (x.1, x.2.1, false) }

/-- The lines a seat's write-back at a phase boundary reaches: every dirty byte that the core's L1, or the fused quad's
L1, holds for the context (R203). -/
def State.writeBack (s : State) (core : Nat) (cin : BitVec 18) : State :=
  (s.slices core).foldl (fun s c =>
    ((s.core c).l1.filter fun l => l.cin == cin && !l.dirty.isEmpty).foldl (fun s l => s.writeBackLine c l) s) s

/-- Every clean byte of the context's lines is invalidated; dirty bytes stay (R203). -/
def State.invalClean (s : State) (core : Nat) (cin : BitVec 18) : State :=
  (s.slices core).foldl (fun s c =>
    let x := s.core c
    let l1 := x.l1.filterMap fun l =>
      if l.cin == cin then
        let b := l.bytes.filter (fun y => y.2.2)
        if b.isEmpty then none else some { l with bytes := b }
      else some l
    s.setCore c { x with l1 := l1 }) s

/-- A line of the core's L1 leaves it, its dirty bytes written back. -/
def State.flushInvalKind (s : State) (core : Nat) (cin : BitVec 18) (kind pa : Nat) : State :=
  let c := s.sliceOf core pa
  match s.line c cin kind pa with
  | none => s
  | some l =>
    let s := s.flushLine (dieOfCore c) l
    let x := s.core c
    s.setCore c { x with l1 := x.l1.filter fun y => !y.is cin kind pa }

/-- The L1's copy of one line is written back and invalidated, before an atomic, a PUB or an ACQ performs at it
(R211, R212, R215). -/
def State.flushInval (s : State) (core : Nat) (cin : BitVec 18) (pa : Nat) : State := s.flushInvalKind core cin 0 pa

/-- The same of a line of a memory type: of MT 2 and MT 3 it is the expanded or the decoded copy (R212, R338). -/
def State.flushInvalHit (s : State) (core : Nat) (cin : BitVec 18) (h : Hit) : State :=
  s.flushInvalKind core cin (kindOfMt h.mt) h.pa

/-- Clean bytes of a line that an engine is about to write are invalidated in the issuing core's L1 (R216). -/
def State.invalCleanKind (s : State) (core : Nat) (cin : BitVec 18) (kind pa : Nat) : State :=
  let c := s.sliceOf core pa
  match s.line c cin kind pa with
  | none => s
  | some l =>
    let b := l.bytes.filter (fun y => y.2.2)
    if b.isEmpty then
      let x := s.core c
      s.setCore c { x with l1 := x.l1.filter fun y => !y.is cin kind pa }
    else s.putLine c { l with bytes := b }

def State.invalCleanLine (s : State) (core : Nat) (cin : BitVec 18) (pa : Nat) : State := s.invalCleanKind core cin 0 pa

/-- The expanded lines of one tile, before CPIMG writes its slot (R206, R216). -/
def State.invalExpanded (s : State) (core : Nat) (cin : BitVec 18) (pa : Nat) : State :=
  (List.range 4).foldl (fun s i => s.invalCleanKind core cin 1 (pa / 256 * 256 + 64 * i)) s

/-! ### Lines at the home -/

/-- The expanded lines that an LLC slice keeps when four more are to enter it (R1, R155): a full slice gives up its lowest
ones, DESIGN CHOICE (assumption 6). -/
def State.llcRoom (s : State) (pa : Nat) : Sparse (List Byte) :=
  let slice := fun (a : Nat) => let h := homeOf s.pkg.lg a; 3 * h.1 + h.2.1
  if s.llcExp.length < Config.llcLines then s.llcExp
  else
    let mine := (s.llcExp.filter fun x => slice x.1 == slice pa).map (·.1)
    let gone := mine.take (mine.length + 4 - Config.llcLines)
    s.llcExp.filter fun x => !gone.contains x.1

/-- The four expanded lines of a compressed tile enter the LLC, or the tile's encoding is bad (R155, R156). -/
def State.expandAt (s : State) (pa : Nat) : Except AFault State :=
  match expandTile (s.tileEncoding pa) with
  | none => .error dBadTile
  | some (_, bs) =>
    let t := pa / 256 * 256
    .ok { s with llcExp := (List.range 4).foldl (fun m i => mapInsert m (t + 64 * i) ((bs.drop (64 * i)).take 64)) (s.llcRoom pa) }

/-- The 64 bytes of a line as its home serves them: raw, expanded (from the LLC, or by a fill) or decoded. -/
def State.homeLine (s : State) (kind pa : Nat) : Except AFault (List Byte × State) :=
  let a := linePa pa
  match kind with
  | 0 => .ok (s.homeGet a 64, s)
  | 1 =>
    match mapFind s.llcExp a with
    | some b => .ok (b, s)
    | none =>
      match s.expandAt pa with
      | .error f => .error f
      | .ok s => .ok (mapGet [] s.llcExp a, s)
  | _ =>
    match s.windowGet a 64 with
    | some b => .ok (b, s)
    | none => .error dNoWindow

/-- n valid bytes of a line from an offset, if all of them are valid. -/
def Line.get (l : Line) (off n : Nat) : Option (List Byte) :=
  (List.range n).mapM fun i => (mapFind l.bytes (off + i)).map (·.1)

/-- A load of n bytes of one line through the L1 (R147, R203): on a miss the line is fetched and merged around its dirty
bytes. -/
def State.l1Get (s : State) (core : Nat) (cin : BitVec 18) (h : Hit) (n : Nat) : Except AFault (List Byte × State) :=
  let kind := kindOfMt h.mt
  let c := s.sliceOf core h.pa
  let off := h.pa % 64
  let old := (s.line c cin kind h.pa).getD ⟨cin, linePa h.pa, kind, h.plc, []⟩
  match old.get off n with
  | some b => .ok (b, s)
  | none =>
    match (s.count cin (dieOfCore core) h.pa h.plc).homeLine kind h.pa with
    | .error f => .error f
    | .ok (bs, s) =>
      let merged : Sparse (Byte × Bool) := (bs.zipIdx).map fun x =>
        (x.2, match mapFind old.bytes x.2 with | some (b, true) => (b, true) | _ => (x.1, false))
      let l := { old with bytes := merged }
      .ok ((l.get off n).getD (List.replicate n 0), s.putLine c l)

/-- A store of bytes of one line enters the L1: only the bytes written become valid and dirty (R203). -/
def State.l1Put (s : State) (core : Nat) (cin : BitVec 18) (h : Hit) (bs : List Byte) : State :=
  let c := s.sliceOf core h.pa
  let off := h.pa % 64
  let old := (s.line c cin 0 h.pa).getD ⟨cin, linePa h.pa, 0, h.plc, []⟩
  s.putLine c { old with bytes := ((bs.take (64 - off)).zipIdx).foldl (fun m x => mapInsert m (off + x.2) (x.1, true)) old.bytes }

/-! ### Accesses by memory type (Table 6.4) -/

/-- A read: bytes, whether a byte had expired, and the state after it. -/
structure Rd where
  bytes : List Byte
  expired : Bool
  st : State
  deriving DecidableEq, Repr

/-- A seat's load of n bytes within one line (Table 6.4, R145, R167): MT 4 gives a value that the spec leaves open, for it
describes no device register. -/
def State.read (s : State) (core : Nat) (cin : BitVec 18) (h : Hit) (n : Nat) : Except AFault Rd :=
  match h.mt with
  | 1 =>
    let s := s.count cin (dieOfCore core) h.pa h.plc
    let (b, e) := s.fleetGet h.pa n
    .ok ⟨b, e, s⟩
  | 4 => .ok ⟨leBytes n (Config.freeWord s.freeN).toNat, false, { s with freeN := s.freeN + 1 }⟩
  | _ =>
    match s.l1Get core cin h n with
    | .error f => .error f
    | .ok (b, s) => .ok ⟨b, false, s⟩

/-- A seat's store within one line (Table 6.4, R170). -/
def State.write (s : State) (core : Nat) (cin : BitVec 18) (h : Hit) (bs : List Byte) : State :=
  match h.mt with
  | 1 => (s.count cin (dieOfCore core) h.pa h.plc).homePut h.pa bs
  | 4 => { s with out := .deviceWrite h.pa bs :: s.out }
  | _ => s.l1Put core cin h bs

/-- A read at the home slice or array, as ACQ, atomics and engines make it (R149, R212, R216). -/
def State.homeRead (s : State) (h : Hit) (n : Nat) : Except AFault Rd :=
  match h.mt with
  | 1 => let (b, e) := s.fleetGet h.pa n; .ok ⟨b, e, s⟩
  | 2 | 3 =>
    match s.homeLine (kindOfMt h.mt) h.pa with
    | .error f => .error f
    | .ok (bs, s) => .ok ⟨(bs.drop (h.pa % 64)).take n, false, s⟩
  | 4 => .ok ⟨leBytes n (Config.freeWord s.freeN).toNat, false, { s with freeN := s.freeN + 1 }⟩
  | _ => .ok ⟨s.homeGet h.pa n, false, s⟩

/-- A write at the home slice or array, or at the device. -/
def State.homeWrite (s : State) (h : Hit) (bs : List Byte) : State :=
  if h.mt = 4 then { s with out := .deviceWrite h.pa bs :: s.out } else s.homePut h.pa bs

/-- new(old, op, cmp) of Table 9.5, on words of w bits. -/
def atomNew (fn : AtomFn) (uns : Bool) (w : Nat) (old op cmp : Nat) : Nat :=
  let o := old % 2 ^ w
  let p := op % 2 ^ w
  let less := if uns then decide (o < p) else decide (signedOf w o < signedOf w p)
  match fn with
  | .add => (o + p) % 2 ^ w
  | .min => if less then o else p
  | .max => if less then p else o
  | .and => o &&& p
  | .or => o ||| p
  | .xchg => p
  | .cas => if o = cmp % 2 ^ w then p else o

/-- An atomic at its home, in one step (R214, R170): the old value, whether it had expired, and the state after. -/
def State.atomicAt (s : State) (h : Hit) (fn : AtomFn) (uns : Bool) (bytes op cmp : Nat) : Nat × Bool × State :=
  let (ob, e) := if h.mt = 1 then s.fleetGet h.pa bytes else (s.homeGet h.pa bytes, false)
  let old := leNat ob
  (old, e, s.homePut h.pa (leBytes bytes (atomNew fn uns (8 * bytes) old op cmp)))

end Sys2Proof.Machine
end

