-- ==== Sys2Proof/Machine/Operands.lean ====
section
/-!
DEFINITION. Sys2Proof/Machine/Operands.lean: shapes and their elements (R57, R61, R104), reading and writing the plane
(R56, R75), accumulator rows (R119), bypass chains (R72, R115, R116), scalar registers (R8), the checks at issue that
vector operands share (R69 to R72, R409), and which cells and registers a command reads and writes (R73, R246).
-/
namespace Sys2Proof.Machine

/-! ### Scalar registers -/

/-- s[r] of a seat: s0 reads 0 (R8, Table 16.8). -/
def Seat.reg (q : Seat) (r : Reg) : Word := if r = 0 then 0 else q.s[r.toNat]

/-- s[r] := w: a write to s0 is discarded (R313). -/
def Seat.setReg (q : Seat) (r : Reg) (w : Word) : Seat :=
  if r = 0 then q else { q with s := q.s.set r.toNat w }

/-! ### Shapes -/

/-- H × W for ROW and RECT, H for COL and DIAG (R104). -/
def Shape.cap (t : Shape) : Nat :=
  match t.kind with
  | .row | .rect => t.h * t.w
  | .col | .diag => t.h

/-- N of Table 3.4: VL for a ROW, the whole shape otherwise (R61). -/
def Shape.count (t : Shape) (vl : Nat) : Nat :=
  match t.kind with
  | .row => vl
  | _ => t.cap

/-- Row and element column of element i (Table 3.4). -/
def Shape.pos (t : Shape) (i : Nat) : Nat × Nat :=
  match t.kind with
  | .row | .rect => (t.row0 + i / t.w, t.x0 + i % t.w)
  | .col => (t.row0 + i, t.x0)
  | .diag => (t.row0 + i, t.x0 + i)

/-- The plane's key of a cell. -/
def cellKey (row col : Nat) : Nat := row * 256 + col

/-- The cell column of element i, and so its lane cluster (R4, R57, R78). -/
def Shape.cellCol (t : Shape) (i : Nat) : Nat := (t.pos i).2 / t.fmt.epc
def Shape.cluster (t : Shape) (i : Nat) : Nat := t.cellCol i / 32

/-- The cell that holds element i, as a plane key. -/
def Shape.cell (t : Shape) (i : Nat) : Nat := cellKey (t.pos i).1 (t.cellCol i)

/-- The code of element i (R57). -/
def readElem (p : Sparse Cell) (t : Shape) (i : Nat) : Nat :=
  let w := t.fmt.width
  let e := (t.pos i).2 % t.fmt.epc
  bits (mapGet 0#32 p (t.cell i)).toNat (w * e) w

/-- A cell with the w bits of slot e replaced (R75). -/
def setSlot (c : Cell) (w e v : Nat) : Cell :=
  let m : Cell := BitVec.ofNat 32 ((2 ^ w - 1) * 2 ^ (w * e))
  (c &&& ~~~m) ||| BitVec.ofNat 32 (v % 2 ^ w * 2 ^ (w * e))

/-- Writing element i changes only the bits of its slot (R75). -/
def writeElem (p : Sparse Cell) (t : Shape) (i v : Nat) : Sparse Cell :=
  let w := t.fmt.width
  let e := (t.pos i).2 % t.fmt.epc
  mapSet 0#32 p (t.cell i) (setSlot (mapGet 0#32 p (t.cell i)) w e v)

/-- Several elements written in the order given. -/
def writeElems (p : Sparse Cell) (t : Shape) (l : List (Nat × Nat)) : Sparse Cell :=
  l.foldl (fun p x => writeElem p t x.1 x.2) p

/-- The codes of elements 0 to n − 1. -/
def readElems (p : Sparse Cell) (t : Shape) (n : Nat) : List Nat := (List.range n).map (readElem p t)

/-- Bit i of a mask. -/
def maskBit (m : Mask) (i : Nat) : Bool := m.getLsbD i

/-- A mask with bit i set to b. -/
def setMaskBit (m : Mask) (i : Nat) (b : Bool) : Mask :=
  let one : Mask := 1#4096 <<< i
  if b then m ||| one else m &&& ~~~one

/-- A mask with bits n to 4095 cleared. -/
def maskBelow (m : Mask) (n : Nat) : Mask := BitVec.ofNat 4096 (m.toNat % 2 ^ n)

/-- m[k] of a seat. -/
def Seat.mask (q : Seat) (k : MaskNo) : Mask := q.m[k.toNat]
def Seat.setMask (q : Seat) (k : MaskNo) (x : Mask) : Seat := { q with m := q.m.set k.toNat x }

/-- The entry vd names: `none` for v63 and for an invalid entry (R58). -/
def Seat.entry (q : Seat) (e : Ent) : Option Shape :=
  if h : e.toNat < 63 then q.v[e.toNat] else none
def Seat.setEntry (q : Seat) (e : Ent) (t : Option Shape) : Seat :=
  if h : e.toNat < 63 then { q with v := q.v.set e.toNat t } else q

/-! ### Accumulators -/

/-- Plane rows and accumulator rows of a seat (R36, R56, R119). -/
def Seat.rows (q : Seat) : Nat := if q.single then 512 else 256

def accKey (row col : Nat) : Nat := row * 128 + col
def readAcc (a : Sparse Cell) (row col : Nat) : Nat := (mapGet 0#32 a (accKey row col)).toNat
def writeAcc (a : Sparse Cell) (row col v : Nat) : Sparse Cell := mapSet 0#32 a (accKey row col) (BitVec.ofNat 32 v)
/-- A row's columns written from column 0 on. -/
def writeAccRow (a : Sparse Cell) (row : Nat) (l : List Nat) : Sparse Cell :=
  (l.zipIdx).foldl (fun a x => writeAcc a row x.2 x.1) a

/-! ### Bypass chains -/

/-- The block size B of QBLK (Table 4.10). -/
def blockSize (qblk : BitVec 2) : Nat := if qblk = 0#2 then 32 else if qblk = 1#2 then 64 else 128

/-- One butterfly stage at distance 2^d over a list of codes of a float format (R115): with block sizes and rows that
are multiples of 2^(d+1), pairs never cross a block, so the run's own indices decide them. -/
def hadStage (f : Fmt) (d : Nat) (env : RoundEnv) (l : List Nat) : List (Nat × Flags) :=
  let n := 2 ^ d
  let env := { env with mode := .rne }
  (List.range l.length).map fun i =>
    if i % (2 * n) < n then
      let x := floatValue f (nth 0 l i)
      let y := floatValue f (nth 0 l (i + n))
      let (r, fl) := addNum .rne x y
      let (c, fl') := deliver r f env 0
      (c, fl ||| fl')
    else
      let x := floatValue f (nth 0 l (i - n))
      let y := floatValue f (nth 0 l i)
      let (r, fl) := addNum .rne x y.flip
      let (c, fl') := deliver r f env 0
      (c, fl ||| fl')

/-- The content of byp after the stages of a chain, oldest first (R116). -/
def chainCodes (f : Fmt) (env : RoundEnv) : List Nat → List Nat → List Nat
  | [], l => l
  | d :: t, l => chainCodes f env t ((hadStage f d env l).map (·.1))

/-- Element i of a command's source va: the plane's, or that of byp (R72). -/
def Cap.src (c : Cap) (p : Sparse Cell) (t : Shape) (n : Nat) : Nat → Nat :=
  match c.chain with
  | some ch =>
    let l := chainCodes ch.shape.fmt ⟨.rne, c.seed, c.ovfns⟩ ch.stages (readElems p ch.shape n)
    fun i => nth 0 l i
  | none => fun i => readElem p t i

/-! ### Checks at issue (R69 to R72, R409) -/

/-- What a check at issue reports. -/
inductive Bad where
  | illop
  | shape (ent : Ent)
  | align (value : Word)
  | priv
  deriving DecidableEq, Repr

/-- A vector operand: its entry number, the entry, and whether a chain supplies it instead of the plane (R72). -/
structure Opnd where
  ent : Ent
  shape : Option Shape
  deriving DecidableEq, Repr

/-- The first operand that names an invalid entry, or v63 outside R72, or whose kind the entry does not accept (R409 2). -/
def firstBad (ok : Shape → Bool) : List Opnd → Option Bad
  | [] => none
  | o :: t =>
    match o.shape with
    | none => some (.shape o.ent)
    | some sh => if ok sh then firstBad ok t else some (.shape o.ent)

/-- A valid operand has a format that the entry does not accept. -/
def wrongFmt (ok : Fmt → Bool) (l : List Opnd) : Bool := l.any fun o => match o.shape with | some t => !ok t.fmt | none => false

/-- The first ROW whose VL exceeds its capacity (R69). -/
def firstLong (vl : Nat) : List Opnd → Option Bad
  | [] => none
  | o :: t =>
    match o.shape with
    | some sh => if sh.kind = .row ∧ sh.cap < vl then some (.shape o.ent) else firstLong vl t
    | none => some (.shape o.ent)

/-- The first operand whose N differs from the first one's (R69). -/
def firstUneven (vl : Nat) : List Opnd → Option Bad
  | [] => none
  | o :: t =>
    match o.shape with
    | none => some (.shape o.ent)
    | some sh =>
      let n := sh.count vl
      match t.find? (fun o' => match o'.shape with | some s' => s'.count vl != n | none => true) with
      | some o' => some (.shape o'.ent)
      | none => none

/-- The first failure among checks in their order. -/
def firstOf : List (Option Bad) → Option Bad
  | [] => none
  | some b :: _ => some b
  | none :: t => firstOf t

/-- Raise when a condition holds. -/
def badIf (c : Bool) (b : Bad) : Option Bad := if c then some b else none

/-! ### Cells a shape covers -/

/-- Whether two cell sets, each a list of cells of one shape, meet. Shapes are compared row by row: an interval of
cell columns for each row they touch. -/
def Shape.rowSpan (t : Shape) (r : Nat) : Option (Nat × Nat) :=
  let e := t.fmt.epc
  if r < t.row0 then none
  else if t.row0 + t.h ≤ r then none
  else match t.kind with
    | .row | .rect => some (t.x0 / e, (t.x0 + t.w - 1) / e)
    | .col => some (t.x0 / e, t.x0 / e)
    | .diag => some ((t.x0 + (r - t.row0)) / e, (t.x0 + (r - t.row0)) / e)

/-- Two shapes share a cell (R73, R76). A ROW counts with its whole capacity, which only makes commands wait. -/
def Shape.meets (a b : Shape) : Bool :=
  (List.range a.h).any fun k =>
    match a.rowSpan (a.row0 + k), b.rowSpan (a.row0 + k) with
    | some (l, h), some (l', h') => decide (l ≤ h') && decide (l' ≤ h)
    | _, _ => false

/-- Any shape of one list shares a cell with any of the other. -/
def shapesMeet (a b : List Shape) : Bool := a.any fun x => b.any fun y => x.meets y

end Sys2Proof.Machine
end

