-- ==== Sys2Proof/Machine/Ops.lean ====
section
/-!
DEFINITION. Sys2Proof/Machine/Ops.lean: the named operations over seats and nodes: where a seat stands in the program,
taking a trap (R241, R246) and failing a node (R242), returning from a trap (R243), freeing a seat (R36, R283), node
release (R29), memory accesses of a seat's P queue, and the return stack (R250).
-/
namespace Sys2Proof.Machine

/-! ### Nodes and launches -/

def Launch.mapNode (l : Launch) (a : Word) (f : Node → Node) : Launch :=
  { l with nodes := l.nodes.map fun n => if n.addr = a then f n else n }

/-- A node of a launch changed; the launch is named by context and identifier (R436). -/
def State.mapNode (s : State) (ctx launch : Nat) (a : Word) (f : Node → Node) : State :=
  { s with launches := s.launches.map fun l => if l.ctx = ctx ∧ l.id = launch then l.mapNode a f else l }

def State.mapLaunch (s : State) (ctx id : Nat) (f : Launch → Launch) : State :=
  { s with launches := s.launches.map fun l => if l.ctx = ctx ∧ l.id = id then f l else l }

def State.launch (s : State) (ctx id : Nat) : Option Launch := s.launches.find? fun l => l.ctx = ctx ∧ l.id = id

def Launch.node (l : Launch) (a : Word) : Option Node := l.nodes.find? (·.addr = a)

/-- No node of the launch is ready, bound or finishing (R33): a node that still applies its decrements is finishing. -/
def Launch.idle (l : Launch) : Bool :=
  l.nodes.all fun n => n.state != .ready && n.state != .bound && n.state != .finishing

/-- The physical address of a node's PREDCNT, bytes 4 to 7 of the descriptor (Table 2.1). -/
def State.predPa (s : State) (ctx : Nat) (node : Word) : Option Nat :=
  match s.walk ctx (node + 4).toNat with
  | .ok l => some (ptePa l.word + (node + 4).toNat % l.size)
  | .error _ => none

/-- An atomic that takes an unreleased node's PREDCNT from 1 to 0 releases the node, at the device time of its release
(R29); a completed launch releases nothing, and a launch is complete at the first moment at which it is idle (R33). `before`
is memory before the atomic. -/
def State.releaseFrom (s : State) (before : List Host.Cell) : State :=
  { s with launches := s.launches.map fun l =>
      if l.state = .running && !l.idle then
        { l with nodes := l.nodes.map fun n =>
            if n.state = .unreleased ∧ !n.released then
              match s.predPa l.ctx n.addr with
              | some pa =>
                if leNat (memBytes before pa 4) = 1 ∧ leNat (memBytes s.mem pa 4) = 0 then
                  { n with state := .ready, released := true, readyAt := s.devtime }
                else n
              | none => n
            else n }
      else l }

/-- An atomic at the home, with the release of nodes it brings about (R29, R214). -/
def State.atomicRel (s : State) (h : Hit) (fn : AtomFn) (uns : Bool) (bytes op cmp : Nat) : Nat × Bool × State :=
  let (old, e, s') := s.atomicAt h fn uns bytes op cmp
  (old, e, s'.releaseFrom s.mem)

/-! ### Where a seat stands -/

/-- The PC of the instruction the control thread issues next: in a replay, that of the captured word (R133, R134). -/
def Seat.curPc (q : Seat) : Word :=
  match q.replay with
  | none => q.pc
  | some r => r.base + BitVec.ofNat 64 (4 * r.pos)

/-- MSEQ records the position of the replay in progress (R135). -/
def Seat.noteReplay (q : Seat) : Seat :=
  match q.replay with
  | some r => { q with sr := { q.sr with mseqAct := true, mseqJ := BitVec.ofNat 5 r.j, mseqPos := BitVec.ofNat 4 r.pos } }
  | none => q

/-- An MMT or LDST of the seat stands part-way, in its queue or set aside (R127, R128, R121). -/
def Seat.mxStopped (q : Seat) : Bool :=
  (q.pend ++ q.aside).any fun c => c.partial_ && (match c.cmd with | .mmt _ | .ldst _ _ _ _ => true | _ => false)

/-- A replay has ended or has been left (R135): REPJ and REPPOS, for which the spec gives no value then, are 0, DESIGN CHOICE
(assumption 43). ACT stays 1 while an MMT or an LDST, or a replay that a trap interrupted, is
stopped (Table 5.6). -/
def Seat.clearReplay (q : Seat) : Seat :=
  { q with sr := { q.sr with mseqAct := q.replaySaved.isSome || q.mxStopped, mseqJ := 0, mseqPos := 0 } }

/-- An instruction has issued: byp is no source of what follows (R72), the instruction that ERET resumed after WATCH is
past (R296), and a wait is over. -/
def Seat.issued (q : Seat) : Seat := { q with byp := none, noWatch := false, wait := none }

/-- The instruction waits where it stands (R42); it is no part of a bypass chain (R72). -/
def Seat.waitFor (q : Seat) (w : Wait) : Seat := { q with wait := some w, byp := none }

/-- The position behind the current one: the next word, or the next position of a replay, and after the last replay the
instruction behind the captured run (R133). -/
def Seat.nextPos (q : Seat) : Seat :=
  match q.replay with
  | none => { q with pc := q.pc + 4 }
  | some r =>
    if r.pos + 1 < r.words.length then { q with replay := some { r with pos := r.pos + 1 } }.noteReplay
    else if r.j + 1 < r.k then { q with replay := some { r with j := r.j + 1, pos := 0 } }.noteReplay
    else { q with replay := none, pc := r.base + BitVec.ofNat 64 (4 * r.words.length) }.clearReplay

/-- The control thread moves past the instruction. -/
def Seat.advance (q : Seat) : Seat := q.issued.nextPos

/-- The control thread goes on at an address (R316). -/
def Seat.jump (q : Seat) (a : Word) : Seat := { q.issued with pc := a }

/-- The accessor of a seat's own instructions. -/
def Seat.who (q : Seat) (key : Nat) : Accessor :=
  ⟨q.ctx, q.cin, !q.status.prv, some (coreOf key), dieOf key⟩

/-- Keys from here on stand for saved seats, in the order of `State.saved` (R252). -/
def firstSaved : Nat := 2 * Config.cores

/-- Where a seat is, or where a saved one was: its engines are there. -/
def Seat.place (q : Seat) (key : Nat) : Nat := if key < firstSaved then key else q.home

/-- The accessor of an engine that acts for a seat (R145, R149): it walks, and the U bit binds it as it binds the seat. -/
def Seat.engine (q : Seat) (key : Nat) : Accessor := ⟨q.ctx, q.cin, !q.status.prv, none, dieOf (q.place key)⟩

/-! ### Engine writes -/

/-- A fault of an engine's access, at its address. -/
structure EFault where
  f : AFault
  va : Word
  deriving DecidableEq, Repr

/-- Bytes that an engine writes at their homes for a seat's command (R216): the clean bytes of each line are first
invalidated in the L1 of each issuing core. `none` waits for a page that is migrating. -/
def State.enginePut (s : State) (who : Accessor) (cores : List Nat) : Nat → Word → List Byte → Except (Option EFault) State
  | 0, _, _ => .ok s
  | fuel + 1, va, bs =>
    if bs.isEmpty then .ok s
    else
      let k := min bs.length (64 - va.toNat % 64)
      match s.translate who .estore va with
      | (.fault f, _) => .error (some ⟨f, va⟩)
      | (.wait, _) => .error none
      | (.ok h, s) =>
        let s := cores.foldl (fun s c => s.invalCleanLine c who.cin h.pa) s
        ((s.countEpoch who.die h.pa h.plc).homeWrite h (bs.take k)).enginePut who cores fuel (va + BitVec.ofNat 64 k) (bs.drop k)

/-- The transfer a copy command carries. -/
def Cmd.xfer : Cmd → Option Xfer
  | .prefetch x | .copy x | .xform x | .image x => some x
  | _ => none

/-- RESULT and EADDR as the engine writes them (Table 8.1). -/
def resultWord (f : Option AFault) (done : Nat) : Nat :=
  match f with
  | some f => f.code.toNat * 2 ^ 56 + f.detail.toNat * 2 ^ 48 + done % 2 ^ 32
  | none => done % 2 ^ 32

/-! ### Freeing a seat -/

/-- The keys of the seats resident on a core and on a quad. -/
def State.residents (s : State) (core : Nat) : List Nat :=
  [2 * core, 2 * core + 1].filter fun k => (s.seat k).isSome
def State.quadBusy (s : State) (quad : Nat) : Bool :=
  (List.range 8).any fun i => (s.seat (8 * quad + i)).isSome

/-- A seat ends: the core becomes empty when its last seat has ended (R36), and the quad enters its hold when its last
resident seat has ended (R283). A watcher stops being the watcher (R231). -/
def State.freeSeat (s : State) (key : Nat) : State :=
  let s := { s.dropSeat key with thr := match s.thr with
    | some t => if t.key = key then none else some t
    | none => none }
  let c := coreOf key
  let s := if (s.residents c).isEmpty then s.setCore c { s.core c with res := .empty, held := 0 } else s
  let q := quadOfCore c
  if s.quadBusy q then s else s.setQuad q { s.quad q with power := .hold, since := s.devtime }

/-- A seat, of a launch's node, stops watching streams (R231). -/
def State.unwatch (s : State) (ctx launch : Nat) (node : Word) : State :=
  { s with streams := s.streams.map fun x =>
      (x.1, if x.1 / 256 = ctx ∧ x.2.watcher = some (launch, node) then { x.2 with watcher := none } else x.2) }

/-- An engine's write within one line that nothing waits for, behind the clean bytes of the line in the L1 of the issuing core
(R216): on a page that migrates it is held until the Switch (R162), and one that faults is dropped. -/
def State.putLater (s : State) (who : Accessor) (cores : List Nat) (va : Word) (bytes : List Byte) : State :=
  match s.translate who .estore va with
  | (.ok h, s) =>
    let s := cores.foldl (fun s c => s.invalCleanLine c who.cin h.pa) s
    (s.countEpoch who.die h.pa h.plc).homeWrite h bytes
  | (.fault _, s) => s
  | (.wait, s) => { s with migs := s.migs.map fun m =>
      if m.ctx = who.ctx ∧ m.va.toNat = va.toNat / 16384 * 16384 then
        { m with held := m.held ++ [(who.cin, va.toNat % 16384, bytes)] }
      else m }

/-- A seat is discarded, by a failure or a kill: its PREFETCH transfers end, without a tag (R187). -/
def State.discard (s : State) (key : Nat) (q : Seat) : State :=
  q.chan.toList.foldl (fun s a => match a with
    | some a => match a.cap.cmd with
      | .prefetch x => s.putLater (q.engine key) [coreOf (q.place key)] (x.desc + 48) (leBytes 8 0 ++ leBytes 8 (resultWord none a.done))
      | _ => s
    | none => s) s

/-- The saved seats, with the launch and the node each belongs to (R253). -/
def State.saved (s : State) : List (Nat × Nat × Word × Seat) :=
  s.launches.flatMap fun l => l.nodes.filterMap fun n => n.image.map fun q => (l.ctx, l.id, n.addr, q)

/-- An engine acts for the seat of a key: a resident one, or from `firstSaved` on a saved one, whose image stands at the key
meanwhile and takes what the engine delivers (R191, R237, R252). -/
def State.onSeat (s : State) (key : Nat) (f : State → Seat → Option State) : Option State :=
  if key < firstSaved then (s.seat key).bind (f s)
  else
    match s.saved[key - firstSaved]? with
    | none => none
    | some (ctx, launch, node, q) =>
      (f (s.setSeat key q) q).map fun s =>
        match s.seat key with
        | some q => (s.dropSeat key).mapNode ctx launch node fun n => { n with image := some q }
        | none => s

/-- The node fails (R242): its seat is discarded, its successors' PREDCNT stay, and the launch's record names it. -/
def State.failNode (s : State) (key : Nat) (code detail : BitVec 8) (pc value : Word) : State :=
  match s.seat key with
  | none => s
  | some q =>
    let s := (s.discard key q).mapNode q.ctx q.launch q.node fun n => { n with state := .failed, image := none }
    let s := s.mapLaunch q.ctx q.launch fun l =>
      { l with failures := l.failures ++ [⟨q.node, detail ++ code, pc, value⟩] }
    (s.unwatch q.ctx q.launch q.node).freeSeat key

/-! ### Traps -/

/-- What a trap reports (Table 11.3). -/
structure Trap where
  code : BitVec 8
  detail : BitVec 8
  value : Word
  pc : Word
  deriving DecidableEq, Repr

def trapIllop (w pc : Word) : Trap := ⟨codeIllop, 0, w, pc⟩
def trapOf (f : AFault) (va pc : Word) : Trap := ⟨f.code, f.detail, va, pc⟩

/-- The stage of a bypass chain that is still open stands last in the queue, and is part of the unit that the chain is (R83): it
is performed with the chain's end. -/
def Cap.isStage (c : Cap) : Bool := match c.cmd with | .had _ true => true | _ => false

/-- A trap before the end of a bypass chain sets its stage aside, until ERET goes on with the chain (R80, R83, assumption 76). -/
def Seat.chainAside (q : Seat) : Seat :=
  match q.byp, q.pend.getLast? with
  | some ch, some c => if c.isStage && c.chain.map (·.pc) == some ch.pc then { q with pend := q.pend.dropLast, aside := q.aside ++ [c] } else q
  | _, _ => q

/-- The registers a trap writes (R241): CAUSE, EPC, EVAL, STATUS, and the PC at the handler. A replay stops where it
stands (R135), a bypass chain is kept (R83), and a wait is kept. After a late trap, and after one in a virtual processor (R50),
the control thread resumes where it stood (R246). The handler's own instructions fire watchpoints (R296). -/
def Seat.enterTrap (q : Seat) (t : Trap) (late lane : Bool) : Seat :=
  let q := q.noteReplay.chainAside
  { q with
    pc := q.sr.tvec ++ 0#2
    resume := if late || lane then q.curPc else q.resume
    -- after HALT the resume point is the HALT itself, which executes again
    halted := false
    replay := none
    replaySaved := q.replay
    byp := none
    bypSaved := q.byp
    wait := none
    waitSaved := q.wait
    noWatch := false
    noWatchSaved := q.noWatch && (late || lane)
    noWatchVp := if lane then none else q.noWatchVp
    status := { q.status with defer := late, intrap := true, lane := lane }
    sr := { q.sr with causeCode := t.code, causeDetail := t.detail, epc := t.pc, eval := t.value } }

/-- A trigger of a Barograph that is met on a core (R298): the start trigger starts its ring, the stop trigger marks where
the post count begins. -/
def Baro.note (b : Baro) (core : Nat) (met : BaroTrigger → Bool) : Baro :=
  if b.frozen || b.core != core then b
  else if !b.running then { b with running := met b.start }
  else if b.stopAt.isNone && met b.stop then { b with stopAt := some b.written }
  else b

/-- What a core does that may be a trigger. -/
def State.baroNote (s : State) (core : Nat) (met : BaroTrigger → Bool) : State :=
  let d := dieOfCore core
  match (s.die d).baro with
  | none => s
  | some b => s.setDie d { s.die d with baro := some (b.note core met) }

/-- TAKING A TRAP (R241): with INTRAP set or no handler the node fails (R242); otherwise the seat enters its handler in
its own mode. `late` sets DEFER; the commands to set aside and the resume point are the caller's (R246). -/
def State.takeTrap (s : State) (key : Nat) (t : Trap) (late lane : Bool) : State :=
  match s.seat key with
  | none => s
  | some q =>
    let s := s.baroNote (coreOf key) (· == .anyTrap)
    if q.status.intrap || q.sr.tvec = 0 then s.failNode key t.code t.detail t.pc t.value
    else s.setSeat key (q.enterTrap t late lane)

/-- STACKSPILL: a spill or refill of a return or divergence stack that faults, with the address of the spill area (R48,
R250). -/
def trapStack (a pc : Word) : Trap := ⟨codeStack, 0, a, pc⟩

/-- A precise trap of the instruction the control thread is at (R245). -/
def State.preciseTrap (s : State) (key : Nat) (t : Trap) : State := s.takeTrap key t false false

/-- Where execution goes on after a trap that is neither late nor a virtual processor's, or where the trapped VP goes on:
EPC + 4 after BRK or TRAP, and EPC otherwise (R243, R50). PC is always a multiple of 4 (R309): bits [1:0] of a written EPC
do not reach it. -/
def Seat.returnPc (q : Seat) : Word :=
  (if q.sr.causeCode = codeBrk ∨ q.sr.causeCode = codeTrap then q.sr.epc + 4 else q.sr.epc) &&& ~~~3#64

/-- The lane of the VP that trapped. -/
def Seat.trappedVp (q : Seat) : Option Nat :=
  q.fork.bind fun f => (f.vps.find? fun x => x.2.trapped).map (·.1)

/-- The VP that trapped goes on (R50). -/
def Seat.releaseVp (q : Seat) : Seat :=
  { q with fork := q.fork.map fun f =>
      { f with vps := f.vps.map fun x => (x.1, if x.2.trapped then { x.2 with trapped := false, pc := q.returnPc } else x.2) } }

/-- The PC of a replay's position. -/
def Replay.posPc (r : Replay) : Word := r.base + BitVec.ofNat 64 (4 * r.pos)

/-- The replay that goes on after a trap (R135, R243): after a precise trap only while EPC still names the instruction that
trapped; a handler that has written EPC resumes elsewhere, and leaves the captured run. -/
def Seat.replayOn (q : Seat) : Option Replay :=
  match q.replaySaved with
  | some r => if q.status.defer || q.status.lane || q.sr.epc == r.posPc then some r else none
  | none => none

/-- RETURN FROM A TRAP (R243), once the handler's V and M commands have completed and the set-aside commands stand in
their queues again: STATUS is restored, and the PC is the resume point after a late trap or one of a virtual processor,
EPC + 4 after BRK or TRAP, and EPC otherwise. A replay goes on where MSEQ recorded it (R135), a bypass chain goes on (R83),
and a wait goes on (R42). The instruction resumed after WATCH, of the control thread or of the VP that trapped, fires no
watchpoint (R296), nor does one whose issue a late trap came before. What ERET does with a replay after a handler that ran a
REPF of its own, which overwrites MSEQ.REPJ and REPPOS, the spec does not say: the interrupted replay goes on at its own
position with its own words, DESIGN CHOICE (assumption 43). -/
def Seat.leaveTrap (q : Seat) : Seat :=
  let r := q.replayOn
  let p := if q.status.lane then q.releaseVp else q
  let p := if q.replaySaved.isSome && r.isNone then { p with replaySaved := none }.clearReplay else p
  { p with
    pc := if q.status.defer || q.status.lane then q.resume else q.returnPc
    replay := r
    replaySaved := none
    byp := q.bypSaved
    bypSaved := none
    wait := q.waitSaved
    waitSaved := none
    noWatch := (q.sr.causeCode = codeWatch && !q.status.defer && !q.status.lane)
      || ((q.status.defer || q.status.lane) && q.noWatchSaved)
    noWatchSaved := false
    noWatchVp := if q.sr.causeCode = codeWatch && q.status.lane then q.trappedVp else q.noWatchVp
    status := { q.status with defer := false, intrap := false, lane := false } }

/-! ### Precise accesses of the P queue -/

/-- Watchpoint k fires on an access of bytes va to va + n − 1 in a direction (R295). -/
def Seat.watchHit (q : Seat) (va n : Nat) (isStore : Bool) : Option Nat :=
  if q.noWatch || n = 0 then none else
  (List.range 4).find? fun k =>
    let md := q.sr.wpMode.getD k 0
    let lo := (q.sr.wpLow.getD k 0).toNat
    let hi := (q.sr.wpHigh.getD k 0).toNat
    (md == 3#2 || md == (if isStore then 2#2 else 1#2)) && decide (va ≤ hi) && decide (lo ≤ va + n - 1)

/-- The WATCH trap of a watchpoint (R295). -/
def watchTrap (k : Nat) (va pc : Word) : Trap := ⟨codeWatch, BitVec.ofNat 8 (k + 1), va, pc⟩

/-- STATUS.EXP set by a seat's read of an expired byte (R167). -/
def State.noteExp (s : State) (key : Nat) (e : Bool) : State :=
  if e then
    match s.seat key with
    | some q => s.setSeat key { q with status := { q.status with exp := true } }
    | none => s
  else s

/-- A seat changed where it stands. -/
def State.mapSeat (s : State) (key : Nat) (f : Seat → Seat) : State :=
  match s.seat key with
  | some q => s.setSeat key (f q)
  | none => s

/-- A seat's register written when a command is performed; a saved or discarded seat is not there to be written. -/
def State.writeReg (s : State) (key : Nat) (r : Reg) (w : Word) : State :=
  match s.seat key with
  | some q => s.setSeat key (q.setReg r w)
  | none => s

/-- Extension of a loaded value to 64 bits (R315). -/
def extend (bytes : Nat) (signed : Bool) (v : Nat) : Word :=
  if signed then BitVec.ofInt 64 (signedOf (8 * bytes) v) else BitVec.ofNat 64 v

/-- Bytes written to, or read from, a range that lies in one page, line by line: 8-byte steps (spills, R250). -/
def State.writeRun (s : State) (core : Nat) (cin : BitVec 18) (h : Hit) : List Word → State
  | [] => s
  | w :: t => (s.write core cin h (leBytes 8 w.toNat)).writeRun core cin { h with pa := h.pa + 8 } t

def State.readRun (s : State) (core : Nat) (cin : BitVec 18) (h : Hit) : Nat → Except AFault (List Word × Bool × State)
  | 0 => .ok ([], false, s)
  | n + 1 =>
    match s.read core cin h 8 with
    | .error f => .error f
    | .ok r =>
      match r.st.readRun core cin { h with pa := h.pa + 8 } n with
      | .error f => .error f
      | .ok (t, e, s) => .ok (BitVec.ofNat 64 (leNat r.bytes) :: t, r.expired || e, s)

/-! ### Strip buffers (R186) -/

/-- The tag of a buffered line: its address and the kind of its memory. -/
def stripKey (mt pa : Nat) : Nat := kindOfMt mt * 2 ^ 56 + linePa pa

/-- The line of a PREFETCH's strip buffer, where one of the seat's channels holds it. -/
def Seat.stripLine (q : Seat) (mt pa : Nat) : Option (List (Byte × Bool)) :=
  (q.chan.toList.filterMap fun a => match a with
    | some a => (a.lines.find? fun x => x.1 = stripKey mt pa).map (·.2)
    | none => none).head?

/-- A store of the seat to a buffered line removes the line first (R186). -/
def Seat.dropStrip (q : Seat) (mt pa : Nat) : Seat :=
  { q with chan := q.chan.map fun a => a.map fun a => { a with lines := a.lines.filter fun x => x.1 ≠ stripKey mt pa } }

def State.dropStrip (s : State) (key mt pa : Nat) : State := s.mapSeat key (·.dropStrip mt pa)

/-- The lines of a tile leave the buffers (R186, R355). -/
def State.dropTile (s : State) (key pa : Nat) : State :=
  (List.range 32).foldl (fun s i => s.dropStrip key 1 (tileBase (tileOf pa) + 64 * i)) s

/-- The area a full return stack spills to: RSP.ADDR × 64 (R250). -/
def Seat.spillAddr (q : Seat) : Word := q.sr.rsp ++ 0#6

/-- Push on the return stack (R250): with 16 entries the 8 oldest are spilled first, oldest at the lowest address: a store of
the P queue, which watchpoints see (R295) and which removes the lines it writes from the strip buffers (R186). An error with
a trap, a STACKSPILL or a WATCH, has changed nothing; one without waits for a migrating page (R162). The oldest entry stands
first in the list. -/
def State.pushReturn (s : State) (key : Nat) (ra : Word) : Except (Option Trap) State :=
  match s.seat key with
  | none => .ok s
  | some q =>
    if q.rstack.length < 16 then .ok (s.setSeat key { q with rstack := q.rstack ++ [ra] })
    else
      let a := q.spillAddr
      match s.translate (q.who key) .vstore a with
      | (.ok h, s) =>
        match q.watchHit a.toNat 64 true with
        | some k => .error (some (watchTrap k a q.curPc))
        | none =>
          let s := s.writeRun (coreOf key) q.cin h (q.rstack.take 8)
          .ok ((s.setSeat key
            { q with rstack := q.rstack.drop 8 ++ [ra], sr := { q.sr with rsp := q.sr.rsp + 1 } }).dropStrip key h.mt h.pa)
      | (.wait, _) => .error none
      | (.fault _, _) => .error (some (trapStack a q.curPc))

/-- Pop of the return stack (R250): an empty stack refills 8 entries from RSP.ADDR × 64 − 64: a load of the P queue, which
watchpoints see (R295). -/
def State.popReturn (s : State) (key : Nat) : Except Trap (Word × State) :=
  match s.seat key with
  | none => .ok (0, s)
  | some q =>
    match q.rstack.getLast? with
    | some ra => .ok (ra, s.setSeat key { q with rstack := q.rstack.dropLast })
    | none =>
      let a := q.spillAddr - 64
      match s.translate (q.who key) .vload a with
      | (.ok h, s) =>
        match q.watchHit a.toNat 64 false, s.readRun (coreOf key) q.cin h 8 with
        | some k, _ => .error (watchTrap k a q.curPc)
        | none, .error _ => .error (trapStack a q.curPc)
        | none, .ok (l, e, s) =>
          let q := (s.seat key).getD q
          .ok (l.getLastD 0, (s.setSeat key
            { q with rstack := l.dropLast, sr := { q.sr with rsp := q.sr.rsp - 1 } }).noteExp key e)
      | (_, _) => .error (trapStack a q.curPc)

end Sys2Proof.Machine
end

