-- ==== Sys2Proof/Machine/VecRun.lean ====
section
/-!
DEFINITION. Sys2Proof/Machine/VecRun.lean: performing the vector commands that touch no memory: element-wise functions,
comparisons, reductions and scans, permutations, block quantisation, Hadamard stages, selections and the mask group
(R73 to R83, R105 to R117, R409 to R430, R375, R376). Each reads every source element before it writes (R74).
-/
namespace Sys2Proof.Machine

/-- What performing a vector command leaves: the seat, and where and why it stopped synchronously (R79). -/
structure VOut where
  q : Seat
  stop : Option (Nat × Flags)
  deriving DecidableEq, Repr

/-- One computed element: index, code, flags. -/
structure El where
  i : Nat
  v : Nat
  f : Flags
  deriving DecidableEq, Repr

/-- The environment of a command's deliveries (R88, R95). -/
def Cap.env (c : Cap) : RoundEnv := ⟨c.mode, c.seed, c.ovfns⟩

/-- Element i is active: its bit of the execution mask is 1, or there is none (R70, R409). -/
def Cap.active (c : Cap) (q : Seat) (i : Nat) : Bool := c.msk = 0 || maskBit (q.mask c.msk) i

/-- Element i is performed now: after a stop cluster k goes on at its restart index (R82), and a performing that ends early
goes as far as the element groups that each cluster has reached (R78, R81), or takes some elements of a scatter (R217). -/
def Cap.todo (c : Cap) (owner : Shape) (i : Nat) : Bool :=
  (!c.partial_ || decide (c.prog.getD (owner.cluster i) 0 ≤ i))
    && (match c.lim with | some l => decide (i < l.getD (owner.cluster i) 0) | none => true)
    && !c.did.contains i && (match c.only with | some l => l.contains i | none => true)

/-- Element i was performed before a stop (R82). -/
def Cap.written (c : Cap) (owner : Shape) (i : Nat) : Bool := c.partial_ && decide (i < c.prog.getD (owner.cluster i) 0)

/-- The command as it stands after a synchronous stop at element e (R79): what it has left is translated anew. -/
def Cap.stoppedAt (c : Cap) (e : Nat) : Cap :=
  { c with partial_ := true, prog := Vector.replicate 8 e, lim := none, did := [], only := none, handed := none }

/-- The stop registers of a synchronous stop at element e (R79): all RESTARTk, and ESHAPE with PART 1. -/
def Seat.stopAt (q : Seat) (e : Nat) (ent : Ent) : Seat :=
  { q with sr := { q.sr with restart := Vector.replicate 8 (BitVec.ofNat 32 e)
                             eshElem := BitVec.ofNat 32 e, eshPart := true, eshEnt := ent } }

/-- The same where the restart index r lies below the element, at the start of its block (R83). -/
def Seat.stopIn (q : Seat) (e r : Nat) (ent : Ent) : Seat :=
  let p := q.stopAt r ent
  { p with sr := { p.sr with eshElem := BitVec.ofNat 32 e } }

/-- Flags ORed into EXCFLAGS (R96). -/
def Seat.orFlags (q : Seat) (f : Flags) : Seat := { q with sr := { q.sr with excflags := q.sr.excflags ||| f } }

/-- The elements before the first that raises an enabled condition, and that one (R79, R97). -/
def cutAt (excen : BitVec 5) : List El → List El × Option (Nat × Flags)
  | [] => ([], none)
  | x :: t =>
    let en := enabledOf excen x.f
    if en ≠ 0#5 then ([], some (x.i, en))
    else
      let (l, s) := cutAt excen t
      (x :: l, s)

/-- Elements are written up to a synchronous stop, with their flags and the trapping condition (R79). -/
def finishElems (c : Cap) (q : Seat) (t : Shape) (ent : Ent) (l : List El) : VOut :=
  let ok := (cutAt c.excen l).1
  let q := { q with plane := writeElems q.plane t (ok.map fun (x : El) => (x.i, x.v)) }
  let q := q.orFlags (flagsOr (ok.map (·.f)))
  match (cutAt c.excen l).2 with
  | none => ⟨q, none⟩
  | some (e, en) => ⟨(q.orFlags en).stopAt e ent, some (e, en)⟩

/-- The indices a command performs: active and still to do. -/
def Cap.indices (c : Cap) (q : Seat) (owner : Shape) (n : Nat) : List Nat :=
  (List.range n).filter fun i => c.active q i && c.todo owner i

/-- An element-wise instruction (R411, R412, R418, R420, R423). Without a vb operand the scalar stands for it (R410). -/
def runElem (c : Cap) (fn : VecFn) (q : Seat) (t : Shape) : VOut :=
  let n := t.count c.vl
  let ta := c.a.getD t
  let src := c.src q.plane ta n
  let selecting := decide (fn = .sel)
  let idx := if selecting then (List.range n).filter (c.todo t) else c.indices q t n
  let el := fun i =>
    let (vb, fb, amt) := match c.b with
      | some tb =>
        let v := readElem q.plane tb i
        (v, tb.fmt, intValue tb.fmt v)
      | none => (c.x.toNat % 2 ^ ta.fmt.width, ta.fmt, (c.x.toNat : Int))
    let (v, f) := elemFn fn c.env (maskBit (q.mask c.msk) i)
      ⟨t.fmt, ta.fmt, fb, src i, vb, readElem q.plane t i, amt, i, c.stripbase + BitVec.ofNat 64 i⟩
    (⟨i, v, f⟩ : El)
  finishElems c q t c.dEnt (idx.map el)

/-- VCMP (R416): bits below N of active elements, then 0 from N on; a stop leaves the bits from e on unchanged. -/
def runCmp (c : Cap) (fn : CmpFn) (md : MaskNo) (q : Seat) (ta : Shape) (tb : Shape) : VOut :=
  let n := ta.count c.vl
  let src := c.src q.plane ta n
  let el := fun i =>
    let (b, f) := cmpFn fn ta.fmt tb.fmt (src i) (readElem q.plane tb i)
    (⟨i, if b then 1 else 0, f⟩ : El)
  let (ok, stop) := cutAt c.excen ((c.indices q ta n).map el)
  let m := ok.foldl (fun m x => setMaskBit m x.i (x.v == 1)) (q.mask md)
  let q := q.orFlags (flagsOr (ok.map (·.f)))
  match stop with
  | none => ⟨q.setMask md (if c.lim.isSome then m else maskBelow m n), none⟩
  | some (e, en) => ⟨((q.setMask md m).orFlags en).stopAt e c.aEnt, some (e, en)⟩

/-- The tree of R105 over leaves lo to lo + 2^k − 1; a leaf is absent where no element is active. Each inner value is a
format and a code. -/
def redTree (fn : RedFn) (env : RoundEnv) (fd : Fmt) (leaf : Nat → Option (Fmt × Nat)) :
    Nat → Nat → Option (Fmt × Nat) × Flags
  | 0, lo => (leaf lo, flagNone)
  | k + 1, lo =>
    let (a, fa) := redTree fn env fd leaf k lo
    let (b, fb) := redTree fn env fd leaf k (lo + 2 ^ k)
    match a, b with
    | none, _ => (b, fa ||| fb)
    | _, none => (a, fa ||| fb)
    | some (ta, x), some (tb, y) =>
      let (v, f) := redStep fn env ta tb fd x y 0
      (some (fd, v), fa ||| fb ||| f)

/-- An exact element delivered into the destination's format (R105, R106); a signalling NaN raises NV even where nothing is
combined with it (R99, assumption 64). -/
def deliverInto (env : RoundEnv) (fs fd : Fmt) (v : Nat) : Nat × Flags :=
  if fd.cls = .float then
    let (w, f) := deliver (floatValue fs v) fd env 0
    (w, f ||| snanFlag [floatValue fs v])
  else (wrapTo fd.width (intValue fs v), flagNone)

/-- One reduction over n leaves: the result in vd's format, or nothing, and its flags (R105). -/
def reduceAll (fn : RedFn) (env : RoundEnv) (fd : Fmt) (n : Nat) (leaf : Nat → Option (Fmt × Nat)) :
    Option Nat × Flags :=
  let (r, f) := redTree fn env fd leaf (pow2Above n).log2 0
  match r with
  | none => (none, f)
  | some (ft, v) =>
    let (v', f') := deliverInto env ft fd v
    (some v', f ||| f')

/-- The starts of segments among n elements: element 0 and every flagged one (R107). -/
def segStarts (flag : Nat → Bool) (n : Nat) : List Nat := (List.range n).filter fun i => i == 0 || flag i

/-- The segments as pairs of start and length. -/
def segments (flag : Nat → Bool) (n : Nat) : List (Nat × Nat) :=
  let st := segStarts flag n
  (st.zip (st.tail ++ [n])).map fun x => (x.1, x.2 - x.1)

/-- VRSUM, VRMAX, VRMIN and their .seg forms (R105, R107, R108): an enabled condition stops the whole with element 0. Which
conditions EVAL and EXCFLAGS then receive the spec does not say: those of every step of every segment, DESIGN CHOICE
(assumption 80). -/
def runReduce (c : Cap) (fn : RedFn) (seg : Bool) (q : Seat) (t ta : Shape) : VOut :=
  let n := ta.count c.vl
  let src := c.src q.plane ta n
  let env := { c.env with mode := noSr c.mode }
  let segs := if seg then segments (maskBit (q.mask c.msk)) n else (if n = 0 then [] else [(0, n)])
  let rs := segs.map fun x =>
    reduceAll fn env t.fmt x.2 fun i =>
      if i < x.2 && (seg || c.active q (x.1 + i)) then some (ta.fmt, src (x.1 + i)) else none
  let fl := flagsOr (rs.map (·.2))
  let en := enabledOf c.excen fl
  if en ≠ 0#5 then ⟨(q.orFlags en).stopAt 0 c.dEnt, some (0, en)⟩
  else
    let ws := (rs.zipIdx).filterMap fun x => x.1.1.map fun v => (x.2, v)
    ⟨{ q with plane := writeElems q.plane t ws }.orFlags fl, none⟩

/-- VSCAN and VSCAN.seg (R106, R107): a running value through the active elements, an element already written before a
stop being read back as it was delivered. The value runs on through elements that this performing leaves to a later one (R81). -/
def scanGo (c : Cap) (seg : Bool) (q : Seat) (t ta : Shape) (src : Nat → Nat) (env : RoundEnv) :
    List Nat → Option (Fmt × Nat) → List El
  | [], _ => []
  | i :: rest, acc =>
    let acc := if seg && (i == 0 || maskBit (q.mask c.msk) i) then none else acc
    if !(seg || c.active q i) then scanGo c seg q t ta src env rest acc
    else if c.written t i then scanGo c seg q t ta src env rest (some (t.fmt, readElem q.plane t i))
    else
      let (v, f) := match acc with
        | none => deliverInto env ta.fmt t.fmt (src i)
        | some (fa, x) => redStep .scan env fa ta.fmt t.fmt x (src i) (BitVec.ofNat 64 i)
      let more := scanGo c seg q t ta src env rest (some (t.fmt, v))
      if c.todo t i then ⟨i, v, f⟩ :: more else more

def runScan (c : Cap) (seg : Bool) (q : Seat) (t ta : Shape) : VOut :=
  let n := ta.count c.vl
  let src := c.src q.plane ta n
  finishElems c q t c.dEnt (scanGo c seg q t ta src { c.env with mode := noSr c.mode } (List.range n) none)

/-- Elements written as bits, without flags. -/
def putBits (c : Cap) (q : Seat) (t : Shape) (l : List (Nat × Nat)) : VOut :=
  ⟨{ q with plane := writeElems q.plane t (l.filter fun x => c.todo t x.1) }, none⟩

/-- VPERM (R429). -/
def runPerm (c : Cap) (q : Seat) (t ta tb : Shape) : VOut :=
  let n := t.count c.vl
  let na := ta.count c.vl
  let src := c.src q.plane ta na
  putBits c q t ((c.indices q t n).map fun i =>
    let k := intValue tb.fmt (readElem q.plane tb i)
    ((i : Nat), if 0 ≤ k ∧ k < na then src k.toNat else 0))

/-- VCOMPR (R417). -/
def runCompr (c : Cap) (q : Seat) (t ta : Shape) : VOut :=
  let na := ta.count c.vl
  let src := c.src q.plane ta na
  let sel := (List.range na).filter (maskBit (q.mask c.msk))
  putBits c q t ((sel.zipIdx).map fun x => (x.2, src x.1))

/-- VEXPND (R417): va is read by capacity. -/
def runExpnd (c : Cap) (q : Seat) (t ta : Shape) : VOut :=
  let n := t.count c.vl
  let src := c.src q.plane ta ta.cap
  let sel := (List.range n).filter (maskBit (q.mask c.msk))
  putBits c q t ((sel.zipIdx).map fun x => (x.1, src x.2))

/-- VBCAST, VINS and VSLIDE (R415). -/
def runBcast (c : Cap) (q : Seat) (t : Shape) : VOut :=
  putBits c q t ((c.indices q t (t.count c.vl)).map fun i => (i, c.x.toNat % 2 ^ t.fmt.width))
def runIns (c : Cap) (q : Seat) (t ta : Shape) : VOut :=
  let n := t.count c.vl
  let src := c.src q.plane ta n
  putBits c q t ((c.indices q t n).map fun i =>
    (i, if i = 0 then c.x.toNat % 2 ^ t.fmt.width else src (i - 1)))
def runSlide (c : Cap) (q : Seat) (t ta : Shape) : VOut :=
  let n := t.count c.vl
  let src := c.src q.plane ta n
  let k := c.x.toInt
  putBits c q t ((c.indices q t n).map fun i =>
    let j := ((i : Nat) : Int) + k
    ((i : Nat), if 0 ≤ j ∧ j < n then src j.toNat else 0))

/-- VEXTR (R415): sign extension for INT formats, zero extension for every other. -/
def extrValue (c : Cap) (q : Seat) (ta : Shape) : Word :=
  let n := ta.count c.vl
  let k := c.x.toNat
  if k < n then
    let v := c.src q.plane ta n k
    match ta.fmt with
    | .int32 | .int16 | .int8 | .int4 => BitVec.ofInt 64 (signedOf ta.fmt.width v)
    | _ => BitVec.ofNat 64 v
  else 0

/-- PZERO (R67). -/
def runPzero (c : Cap) (q : Seat) (t : Shape) : VOut :=
  putBits c q t ((List.range (t.count c.vl)).map fun i => (i, 0))

/-! ### N:M selection (R117) -/

/-- n and M of NMSEL (Table 4.10). -/
def nmOf (sel : BitVec 2) : Nat × Nat := if sel = 0#2 then (2, 4) else if sel = 1#2 then (1, 4) else (4, 8)

/-- Element y of a group ranks above element x, by magnitude alone; NaNs rank above every number. -/
def magAbove (f : Fmt) (x y : Nat) : Bool :=
  if f.cls = .float then
    let a := (floatValue f x).abs
    let b := (floatValue f y).abs
    if b.isNan then !a.isNan else if a.isNan then false else ltNum a b
  else decide ((intValue f x).natAbs < (intValue f y).natAbs)

def magSame (f : Fmt) (x y : Nat) : Bool := !magAbove f x y && !magAbove f y x

/-- Positions kept in one group, ascending. -/
def nmKeep (f : Fmt) (n : Nat) (g : List Nat) : List Nat :=
  (List.range g.length).filter fun k =>
    let above := (List.range g.length).filter fun j =>
      magAbove f (nth 0 g k) (nth 0 g j) || (magSame f (nth 0 g k) (nth 0 g j) && decide (j < k))
    decide (above.length < n)

/-- VNMSEL (R117). Where vd and vb share bits the spec gives no order between them: all of vd is written, then vb, DESIGN CHOICE
(assumption 80). -/
def runNmsel (c : Cap) (q : Seat) (t ta tb : Shape) : VOut :=
  let (n, m) := nmOf c.nmsel
  let na := ta.count c.vl
  let src := c.src q.plane ta na
  let kept := (List.range (na / m)).flatMap fun g =>
    let grp := (List.range m).map fun i => src (g * m + i)
    (nmKeep ta.fmt n grp).map fun k => (nth 0 grp k, k)
  let idx := kept.zipIdx
  let todoB := fun (i : Nat) => c.todo t i
  ⟨{ q with
      plane := writeElems
        (writeElems q.plane t ((idx.filter fun x => todoB x.2).map fun x => (x.2, x.1.1)))
        tb ((idx.filter fun x => todoB x.2).map fun x => (x.2, x.1.2)) }, none⟩

/-! ### Block quantisation (R109 to R114) -/

/-- Whether a destination format is of the MX family, and its emax (R110). -/
def mxEmax : Fmt → Option Int
  | .mxfp4 => some 2 | .e4m3 => some 8 | .e5m2 => some 15 | _ => none

/-- floor(log2 |x|) of a finite non-zero number. -/
def Num.ilog2 : Num → Int
  | .fin _ m e _ => (m.log2 : Int) + e
  | _ => 0

/-- The greater of two magnitudes. -/
def maxMag (a b : Num) : Num := if ltNum a.abs b.abs then b.abs else a.abs

/-- x / 2^e, exactly. -/
def Num.scale2 (x : Num) (e : Int) : Num :=
  match x with
  | .fin n m k st => .fin n m (k - e) st
  | y => y

/-- OF becomes nothing: saturation in the MX family raises NX and not OF (R111). -/
def dropOf (f : Flags) : Flags := f &&& 0x1B#5

/-- One block of the MX family (R111): scale code, codes with flags. `xs` has `none` at padding positions; `n0` is the
destination index of its first element. -/
def mxBlock (fd : Fmt) (env : RoundEnv) (base : Word) (n0 : Nat) (xs : List (Option Num)) : Nat × List (Nat × Flags) :=
  let vals := xs.filterMap id
  if vals.any (fun x => x.isNan || x.isInf) then
    (0xFF, (xs.zipIdx).map fun x => (0, if x.2 = 0 then flagNV else flagNone))
  else
    let amax := vals.foldl maxMag (.zero false)
    if amax.isZero then (0x7F, xs.map fun _ => (0, flagNone))
    else
      let e := clampInt (-127) 127 (amax.ilog2 - (mxEmax fd).getD 0)
      let codes := (xs.zipIdx).map fun x => match x.1 with
        | none => (0, flagNone)
        | some v =>
          let r := deliver (v.scale2 e) fd { env with ovfns := false } (base + BitVec.ofNat 64 (n0 + x.2))
          -- saturating in every mode: an overflow delivers the largest finite code
          let exceeds := r.2 &&& flagOF ≠ 0#5
          (if exceeds then signCode fd v.neg + Fmt.maxFinite fd else r.1, dropOf r.2)
      ((e + 127).toNat, codes)

/-- An exact quotient of two numbers rounded to an integer (R112). -/
def quotInt (env : RoundEnv) (n : Word) (a b : Num) : Int × Bool := roundToInt (divNum a b).1 env n

def minMag (a b : Num) : Num := if ltNum b a then b else a
def maxNum (a b : Num) : Num := if ltNum a b then b else a

/-- −0 counts as zero (R112). -/
def Num.plain : Num → Num
  | .zero _ => .zero false
  | x => x

/-- One block of the asymmetric family (R112): QPAIR, codes with flags. -/
def asymBlock (b : Nat) (env : RoundEnv) (base : Word) (n0 : Nat) (xs : List (Option Num)) : Nat × List (Nat × Flags) :=
  let vals := (xs.filterMap id).map Num.plain
  let top : Int := (2 ^ b : Nat) - 1
  let rne : RoundEnv := { env with mode := .rne }
  if vals.any (fun x => x.isNan || x.isInf) then
    (0x7E000000, (xs.zipIdx).map fun x => (0, if x.2 = 0 then flagNV else flagNone))
  else
    let mn := vals.foldl minMag (vals.headD (.zero false))
    let mx := vals.foldl maxNum (vals.headD (.zero false))
    let (s, z) : Nat × Int :=
      if eqNum mn mx then
        (0x3C00, clampInt 0 top (roundToInt mn.flip rne 0).1)
      else
        let range := (sumNums .rne [mx, mn.flip]).1
        let c0 := (deliver (divNum range (.ofInt top)).1 .fp16 rne 0).1
        let c1 := if c0 ≥ 0x7C00 then 0x7BFF else c0
        let c := if c1 = 0 then 1 else c1
        (c, clampInt 0 top (quotInt rne 0 mn.flip (floatValue .fp16 c)).1)
    let codes := (xs.zipIdx).map fun x => match x.1 with
      | none => (z.toNat, flagNone)
      | some v =>
        let (r, exact) := quotInt env (base + BitVec.ofNat 64 (n0 + x.2)) v.plain (floatValue .fp16 s)
        ((clampInt 0 top (r + z)).toNat, if exact then flagNone else flagNX)
    (s * 65536 + z.toNat, codes)

/-- The block layout of VQNT (R110): destination index of each position with its source index, by block; the last
field of a block is its scale index. -/
structure QBlock where
  scale : Nat
  pos : List (Nat × Option Nat)
  deriving DecidableEq, Repr

def quantBlocks (ta : Shape) (n b : Nat) : List QBlock :=
  match ta.kind with
  | .rect =>
    let wb := ceilDiv ta.w b
    let wp := b * wb
    (List.range ta.h).flatMap fun h => (List.range wb).map fun j =>
      ⟨h * wb + j, (List.range b).map fun k =>
        let col := j * b + k
        (h * wp + col, if col < ta.w then some (h * ta.w + col) else none)⟩
  | _ =>
    (List.range (ceilDiv n b)).map fun j =>
      ⟨j, (List.range b).map fun k =>
        let i := j * b + k
        (i, if i < n then some i else none)⟩

/-- B of a quantisation into a format (R110). -/
def quantB (fd : Fmt) (qblk : BitVec 2) : Nat := if (mxEmax fd).isSome then 32 else blockSize qblk

/-- The first element of the block of b elements that holds element e, along the row of a RECT (R83, R110). -/
def Shape.blockStart (t : Shape) (b e : Nat) : Nat :=
  match t.kind with
  | .rect => e / t.w * t.w + e % t.w / b * b
  | _ => e / b * b

/-- Where a stop at element e lets the command resume (R83): in a bypass chain at the start of its QBLK block. -/
def Cap.resumeAt (c : Cap) (t : Shape) (e : Nat) : Nat :=
  if c.chain.isSome then t.blockStart (blockSize c.qblk) e else e

/-- The blocks performed one by one, of each the codes that are still to do (R82), with its scale; an enabled condition stops
before its block (R113). `stage` gives the flags that the stages of a bypass chain raise at a source element: their condition
comes first, at its element (R83, R116). Where vd and vb share bits the spec gives no order between them: a block's codes are
written, then its scale, block by block; and the scale of a block is written with any code of it, DESIGN CHOICE
(assumption 80). -/
def quantGo (c : Cap) (t tb ta : Shape) (src : Nat → Nat) (stage : Nat → Flags) : List QBlock → Seat → VOut
  | [], q => ⟨q, none⟩
  | b :: rest, q =>
    let first := (b.pos.headD (0, none)).1
    let left := b.pos.filter fun p => c.todo t p.1
    if left.isEmpty then quantGo c t tb ta src stage rest q
    else
      let (ok, stop) := cutAt c.excen (left.map fun p => ⟨p.1, 0, match p.2 with | some i => stage i | none => flagNone⟩)
      let staged := flagsOr (ok.map (·.f))
      match stop with
      | some (e, en) =>
        let r := c.resumeAt t e
        ⟨((q.orFlags staged).orFlags en).stopIn e r 63, some (r, en)⟩
      | none =>
        let xs := b.pos.map fun p => p.2.map fun i => floatValue ta.fmt (src i)
        let (sc, codes) :=
          if (mxEmax t.fmt).isSome then mxBlock t.fmt c.env c.stripbase first xs
          else asymBlock t.fmt.width c.env c.stripbase first xs
        let mine := (b.pos.zip codes).filter fun x => c.todo t x.1.1
        let fl := flagsOr (mine.map (·.2.2))
        let en := enabledOf c.excen fl
        if en ≠ 0#5 then
          let r := c.resumeAt t first
          ⟨(q.orFlags en).stopIn first r c.dEnt, some (r, en)⟩
        else
          let p := writeElems q.plane t (mine.map fun x => (x.1.1, x.2.1))
          let p := writeElem p tb b.scale sc
          quantGo c t tb ta src stage rest ({ q with plane := p }.orFlags (staged ||| fl))

/-- The flags of every stage of a chain at each element, ORed (R116): it is performed as one. -/
def chainFlags (f : Fmt) (env : RoundEnv) : List Nat → List Nat → List Flags
  | [], l => l.map fun _ => flagNone
  | d :: t, l =>
    let st := hadStage f d env l
    (st.zip (chainFlags f env t (st.map (·.1)))).map fun x => x.1.2 ||| x.2

/-- The flags that the stages of a command's chain raise, by source element. -/
def Cap.stageFlags (c : Cap) (q : Seat) : Nat → Flags :=
  match c.chain with
  | some ch =>
    let l := chainFlags ch.shape.fmt c.env ch.stages (readElems q.plane ch.shape (ch.shape.count c.vl))
    fun i => l.getD i flagNone
  | none => fun _ => flagNone

/-- VQNT (R110 to R113). At the end of a bypass chain it performs the chain (R83, R116). -/
def runQnt (c : Cap) (q : Seat) (t ta tb : Shape) : VOut :=
  let n := ta.count c.vl
  quantGo c t tb ta (c.src q.plane ta n) (c.stageFlags q) (quantBlocks ta n (quantB t.fmt c.qblk)) q

/-- One element of VDQNT in the family of its format (R114), with NV for a signalling operand (R99). A scale code of 0xFF gives
the NaN without a flag, whatever the code. R114 states neither the flag of a zero difference times an infinite scale nor the
sign of the zero that a zero difference gives: the model raises none, and takes the difference as +0, DESIGN CHOICE
(assumption 67). -/
def dqntElem (f : Fmt) (code sc : Nat) : Num × Flags :=
  if (mxEmax f).isSome then
    let x := floatValue f code
    ((mulNum x (e8m0Value sc)).1, if sc = 0xFF then flagNone else snanFlag [x])
  else
    let s := floatValue .fp16 (sc / 65536)
    ((mulNum (.ofInt ((code : Int) - (sc % 65536 : Nat))) s).1, snanFlag [s])

/-- VDQNT (R114). -/
def runDqnt (c : Cap) (q : Seat) (t ta tb : Shape) : VOut :=
  let n := t.count c.vl
  let src := c.src q.plane ta n
  let b := quantB ta.fmt c.qblk
  let scaleIx := fun i => match ta.kind with
    | .rect => (i / ta.w) * ceilDiv ta.w b + (i % ta.w) / b
    | _ => i / b
  let el := fun i =>
    let (x, fx) := dqntElem ta.fmt (src i) (readElem q.plane tb (scaleIx i))
    let (v, f) := deliver x t.fmt c.env (c.stripbase + BitVec.ofNat 64 i)
    (⟨i, v, fx ||| f⟩ : El)
  finishElems c q t c.dEnt (((List.range n).filter (c.todo t)).map el)

/-! ### Hadamard stages (R115, R116, R83) -/

/-- VHAD (R115). -/
def runHad (c : Cap) (dist : Nat) (q : Seat) (t ta : Shape) : VOut :=
  let st := hadStage ta.fmt dist c.env (readElems q.plane ta (ta.count c.vl))
  finishElems c q t c.dEnt ((st.zipIdx.map fun x => (⟨x.2, x.1.1, x.1.2⟩ : El)).filter fun x => c.todo t x.i)

/-- A bypass chain that no VQNT ends (R72, R116): its stages raise their flags, and byp, which has no cells, is read no more. A
stop rounds RESTARTk down to the block (R83). -/
def runStages (c : Cap) (dist : Nat) (q : Seat) (ta : Shape) : VOut :=
  let stages := (match c.chain with | some ch => ch.stages | none => []) ++ [dist]
  let fl := chainFlags ta.fmt c.env stages (readElems q.plane ta (ta.count c.vl))
  let (ok, stop) := cutAt c.excen ((fl.zipIdx.map fun x => (⟨x.2, 0, x.1⟩ : El)).filter fun x => c.todo ta x.i)
  let q := q.orFlags (flagsOr (ok.map (·.f)))
  match stop with
  | none => ⟨q, none⟩
  | some (e, en) =>
    let r := c.resumeAt ta e
    ⟨(q.orFlags en).stopIn e r 63, some (r, en)⟩

/-! ### The mask group (R375, R376) -/

def maskFnBits (fn : MaskFn) (a b : Mask) : Mask :=
  match fn with
  | .and => a &&& b
  | .or => a ||| b
  | .xor => a ^^^ b
  | .andn => a &&& ~~~b
  | _ => ~~~a

end Sys2Proof.Machine
end

