-- ==== Sys2Proof/Machine/MemRun.lean ====
section
/-!
DEFINITION. Sys2Proof/Machine/MemRun.lean: performing the memory commands of the P and V queues: scalar accesses, atomics,
PUB, ACQ and the FLEET instructions (R170 to R176, R201, R211, R212, R214, R215), vector loads and stores, scatters and
VAPPEND (R152, R153, R168, R413, R414, R424 to R427), the probe pass of CPIX (R190), strip buffers (R186), the memory of
virtual processors, and what a retired vector access records (R287 to R294).
-/
namespace Sys2Proof.Machine

/-- What performing a command comes to: it is done; it is done and a late trap follows (R233); it stops with a late trap
and stays, as a command that resumes (R79, R246); part of it is done without a trap; or it cannot be performed yet. -/
inductive Perf where
  | done (s : State)
  /-- a VLDF is done, shortened to its first k elements (R247) -/
  | short (s : State) (k : Nat)
  /-- part of it is performed, and the command stays as it is given (R78, R81, R217) -/
  | part (s : State) (c : Cap)
  | trap (s : State) (t : Trap)
  | stop (s : State) (t : Trap) (c : Cap)
  | wait
  deriving DecidableEq, Repr

/-! ### Trace writes (R287 to R294) -/

/-- A trace write at the home of a virtual address, through the seat's context: nothing is counted and no watchpoint
fires; a fault sets TRCCTL.ERR, and an address on MT 4 faults (R145). A range of at most 4096 bytes lies in one page
when its end does. `none` while that page migrates: the write waits (R162). -/
def State.traceWrite (s : State) (key : Nat) (va : Word) (bs : List Byte) : Option State :=
  match s.seat key with
  | none => some s
  | some q =>
    if q.sr.trcErr then some s
    else
      match s.translate (q.engine key) .estore va with
      | (.ok h, s) => some (s.homePut h.pa bs)
      | (.fault _, s) => some (s.mapSeat key fun q => { q with sr := { q.sr with trcErr := true } })
      | (.wait, _) => none

/-- A record's bytes: the header {TYPE, LEN}, then the rest, zero-padded to LEN (R290). -/
def recordBytes (ty len : Nat) (rest : List Byte) : List Byte :=
  (leBytes 2 (ty * 4096 + len) ++ rest ++ List.replicate len 0).take len

/-- The SYNC record (Table 14.2). -/
def syncRecord (dropped : Word) (time : Nat) : List Byte :=
  recordBytes 1 16 ([0, 0] ++ leBytes 4 dropped.toNat ++ leBytes 8 time)

/-- A record written to the sample buffer (R289, R291): PAD and SYNC before it where a 4 KiB boundary asks for them; one
that does not fit is counted in DROPPED, and so is every record while PAGES is 0. `none` while a page of it migrates. -/
def State.writeRecord (s : State) (key : Nat) (rec : List Byte) : Option State :=
  match s.seat key with
  | none => some s
  | some q =>
    let size := 4096 * q.sr.ssize.toNat
    if q.sr.trcErr then some s
    else
      let o := q.sr.swptr.toNat
      let l := rec.length
      let pad := if o % 4096 ≠ 0 ∧ 4096 < o % 4096 + l then 4096 - o % 4096 else 0
      let sync := if o % 4096 = 0 ∨ pad ≠ 0 then 16 else 0
      let total := pad + sync + l
      if size < total + (o - q.sr.srdptr.toNat) then
        some (s.setSeat key { q with sr := { q.sr with dropped := q.sr.dropped + 1 } })
      else
        let at_ := fun (k : Nat) => (q.sr.sbase ++ 0#12) + BitVec.ofNat 64 (k % size)
        (((if pad = 0 then some s else s.traceWrite key (at_ o) (recordBytes 0 pad [])).bind fun s =>
          if sync = 0 then some s else s.traceWrite key (at_ (o + pad)) (syncRecord q.sr.dropped s.devtime)).bind fun s =>
          s.traceWrite key (at_ (o + pad + sync)) rec).map fun s => s.mapSeat key fun q =>
            if q.sr.trcErr then q else { q with sr := { q.sr with swptr := q.sr.swptr + BitVec.ofNat 64 total } }

/-- The retired-vector ring (R294): while RVBASE is not 0, an entry, and RVCNT one up. `pop` is the number of active
elements; one that its field cannot hold reads 8191, DESIGN CHOICE (assumption 28). An access without an active element leaves
FIRST and LAST open: free values. The command waits while the entry's page migrates. -/
def State.retire (s : State) (key : Nat) (c : Cap) (t : Shape) (vl pop : Nat) (span : List (Nat × Nat)) : Perf :=
  match s.seat key with
  | none => .done s
  | some q =>
    if q.sr.rvbase = 0 then .done s
    else
      let wid := t.fmt.width.log2 - 2
      let first := match span.head? with | some x => BitVec.ofNat 64 x.1 | none => Config.freeWord s.freeN
      let last := match span.getLast? with | some x => BitVec.ofNat 64 (x.1 + x.2 - 1) | none => Config.freeWord s.freeN
      let s := { s with freeN := s.freeN + 1 }
      let word := vl + wid * 2 ^ 13 + min 8191 pop * 2 ^ 16
      let va := (q.sr.rvbase ++ 0#13) + BitVec.ofNat 64 (32 * (q.sr.rvcnt.toNat % 256))
      match s.traceWrite key va (leBytes 8 word ++ leBytes 8 c.pc.toNat ++ leBytes 8 first.toNat ++ leBytes 8 last.toNat) with
      | none => .wait
      | some s => .done (s.mapSeat key fun q => { q with sr := { q.sr with rvcnt := q.sr.rvcnt + 1 } })

/-! ### Addresses -/

/-- One element's access: its index, its byte address, its bytes, and for a 4-bit element its nibble. -/
structure EAcc where
  i : Nat
  va : Word
  n : Nat
  nib : Option Nat
  deriving DecidableEq, Repr

/-- Element i of a vector access (Table 20.18, R427). The offset of a 4-bit element runs in nibbles. -/
def eaccOf (c : Cap) (q : Seat) (a : VAddr) (t : Shape) (i : Nat) : EAcc :=
  let w := t.fmt.width
  let e : Int := w / 8
  let b := c.x
  let st := c.y.toInt
  let at_ (base : Word) (k : Nat) : EAcc :=
    if w = 4 then ⟨i, base + BitVec.ofNat 64 (k / 2), 1, some (k % 2)⟩
    else ⟨i, base + BitVec.ofInt 64 (e * k), w / 8, none⟩
  match a with
  | .unit => at_ b i
  | .strided => ⟨i, b + BitVec.ofInt 64 (i * st), w / 8, none⟩
  | .pitched => at_ (b + BitVec.ofInt 64 ((i / t.w : Nat) * st)) (i % t.w)
  | .indexed scaled =>
    match c.b with
    | none => ⟨i, b, w / 8, none⟩
    | some tb =>
      let k := intValue tb.fmt (readElem q.plane tb i)
      ⟨i, b + BitVec.ofInt 64 (if scaled then k * e else k), w / 8, none⟩

/-- An element whose access has been translated. -/
structure EHit where
  acc : EAcc
  hit : Hit
  deriving DecidableEq, Repr

/-- A pass of translations: the elements before the first fault, the fault with its element, and whether one waits for a
page that is migrating (R162). -/
structure Pass where
  hits : List EHit
  bad : Option (Nat × Trap)
  wait : Bool
  st : State
  deriving DecidableEq, Repr

/-- Translation of a vector access, ascending. With `probe` every element is translated whatever faults below it (R153);
otherwise the first fault ends the pass (R152). A watchpoint is met only by an access that no fault stops. -/
def passOver (key : Nat) (q : Seat) (c : Cap) (k : AKind) (probe : Bool) : List EAcc → State → Pass
  | [], s => ⟨[], none, false, s⟩
  | a :: rest, s =>
    let (x, s) :=
      if a.va.toNat % a.n ≠ 0 then ((.fault aAlign : Xl), s) else s.translate (q.who key) k a.va
    let watch := if c.unwatched then none else { q with noWatch := false }.watchHit a.va.toNat a.n k.writes
    match x, watch with
    | .fault f, _ =>
      let p : Pass := if probe then passOver key q c k probe rest s else ⟨[], none, false, s⟩
      ⟨[], some (a.i, trapOf f a.va c.pc), p.wait, p.st⟩
    | .wait, _ =>
      let p := passOver key q c k probe rest s
      ⟨[], none, true, p.st⟩
    | .ok _, some wk =>
      let p : Pass := if probe then passOver key q c k probe rest s else ⟨[], none, false, s⟩
      ⟨[], some (a.i, watchTrap wk a.va c.pc), p.wait, p.st⟩
    | .ok h, none =>
      let p := passOver key q c k probe rest s
      ⟨⟨a, h⟩ :: p.hits, p.bad, p.wait, p.st⟩

def EHit.passed (x : EHit) : Passed :=
  ⟨x.acc.i, x.acc.va, x.acc.n, x.acc.nib, x.hit.pa, x.hit.mt, x.hit.plc, x.hit.frame⟩
def Passed.ehit (x : Passed) : EHit := ⟨⟨x.i, x.va, x.n, x.nib⟩, ⟨x.pa, x.mt, x.plc, x.frame⟩⟩

/-- The pass of a vector access: the one that has ended when the command handed its addresses over (R202), or one made now. -/
def passOf (key : Nat) (q : Seat) (c : Cap) (k : AKind) (probe : Bool) (els : List EAcc) (s : State) : Pass :=
  match c.handed with
  | some l => ⟨(l.map Passed.ehit).filter fun x => els.any fun y => y.i == x.acc.i, none, false, s⟩
  | none => passOver key q c k probe els s

/-! ### Vector loads -/

/-- One element read: from a strip buffer, or through the memory type (R186, R425). -/
def State.readElemAt (s : State) (key : Nat) (cin : BitVec 18) (x : EHit) : Except AFault (Nat × Bool × State) :=
  let pick := fun (v : Nat) => match x.acc.nib with | some k => bits v (4 * k) 4 | none => v
  match (s.seat key).bind (·.stripLine x.hit.mt x.hit.pa) with
  | some l =>
    let b := (l.drop (x.hit.pa % 64)).take x.acc.n
    .ok (pick (leNat (b.map (·.1))), b.any (·.2), s)
  | none =>
    match s.read (coreOf key) cin x.hit x.acc.n with
    | .error f => .error f
    | .ok r => .ok (pick (leNat r.bytes), r.expired, r.st)

/-- The elements read one after another, up to the first that meets a bad tile or no window (R156, R158). -/
def readEls (key : Nat) (cin : BitVec 18) (pc : Word) : List EHit → State → List (Nat × Nat × Bool) × Option (Nat × Trap) × State
  | [], s => ([], none, s)
  | x :: rest, s =>
    match s.readElemAt key cin x with
    | .error f => ([], some (x.acc.i, trapOf f x.acc.va pc), s)
    | .ok (v, e, s) =>
      let (l, b, s) := readEls key cin pc rest s
      ((x.acc.i, v, e) :: l, b, s)

/-- The stop of a vector memory command at element e (R79): the command stays, and resumes there. -/
def memStop (s : State) (key : Nat) (c : Cap) (e : Nat) (ent : Ent) (t : Trap) : Perf :=
  .stop (s.mapSeat key (·.stopAt e ent)) t (c.stoppedAt e)

/-- The first element from a bound on that cluster k owns, or N (R81). -/
def Shape.ownedFrom (t : Shape) (n k b : Nat) : Nat :=
  ((List.range n).find? fun i => decide (b ≤ i) && t.cluster i == k).getD n

/-- The shape that decides which cluster owns an element, with N (R78): the destination's, or va's. -/
def Cap.owner (c : Cap) : Option (Shape × Nat) := (c.d.orElse fun _ => c.a).map fun t => (t, t.count c.vl)

/-- RESTARTk of a command that stops at a bound of cluster k (R81): the lowest element it owns and has not written; in a bypass
chain the start of that element's block (R83). -/
def Cap.restartAt (c : Cap) (k b : Nat) : Nat :=
  match c.owner with
  | some (t, n) => let e := t.ownedFrom n k b; if e < n then c.resumeAt t e else e
  | none => b

/-- A performing that ends before the command's end leaves it with the bounds it was given, or with the elements it took. -/
def Cap.further (c : Cap) : Cap :=
  { c with
    partial_ := c.partial_ || c.lim.isSome
    prog := match c.lim with | some l => Vector.ofFn fun k : Fin 8 => c.restartAt k.val (l.getD k.val 0) | none => c.prog
    lim := none
    did := c.did ++ c.only.getD [], only := none }

/-- It performs only a part. -/
def Cap.inPart (c : Cap) : Bool := c.lim.isSome || c.only.isSome

/-- The same command without the bounds of one performing. -/
def Cap.whole (c : Cap) : Cap := { c with lim := none, only := none }

/-- m0 after a load (R168): a performed element's bit is the expiry it saw; at completion every other bit is 0. -/
def m0After (old : Mask) (got : List (Nat × Nat × Bool)) (kept : List Nat) (complete : Bool) : Mask :=
  let m := got.foldl (fun m x => setMaskBit m x.1 x.2.2) old
  if complete then m &&& kept.foldl (fun m i => setMaskBit m i true) 0 else m

/-- VLD, VLDS, VLD2, VLDX and VLDF (R424, R425, R427, R247). Without a stop or shortening it completes; VLDF shortens to the
first faulting element above 0, but not for a watchpoint. -/
def State.vload (s : State) (key : Nat) (c : Cap) (a : VAddr) (ff : Bool) : Perf :=
  match s.seat key, c.d with
  | some q, some t =>
    let n := t.count c.vl
    let probe := match a with | .indexed _ => true | _ => false
    -- the probe pass takes in every element that is left (R153)
    let els := ((if probe then c.whole else c).indices q t n).map (eaccOf c q a t)
    let p := passOf key q c .vload probe els s
    if p.wait || (c.inPart && p.bad.isSome) then .wait
    else
      let (got, bad, s) := readEls key q.cin c.pc (p.hits.filter fun x => c.todo t x.acc.i) p.st
      let bad := match bad with | some b => some b | none => p.bad
      let put : Seat → Bool → Nat → Seat := fun q complete upto =>
        { q with plane := writeElems q.plane t (got.map fun (x : Nat × Nat × Bool) => (x.1, x.2.1)) }.setMask 0
          (m0After (q.mask 0) got ((List.range upto).filter (c.active q)) complete)
      let span := (((List.range n).filter (c.active q)).map (eaccOf c q a t)).map fun x => (x.va.toNat, x.n)
      match bad with
      | none =>
        if c.inPart then .part (s.mapSeat key fun q => put q false n) c.further
        else (s.mapSeat key fun q => put q true n).retire key c t c.vl span.length span
      | some (k, tr) =>
        if c.inPart then .wait
        else if ff ∧ 0 < k ∧ tr.code ≠ codeWatch ∧ tr.code ≠ codeAlign then
          let s := s.mapSeat key fun q => { put q true k with sr := { q.sr with vl := k } }
          let span := (((List.range k).filter (c.active q)).map (eaccOf c q a t)).map fun x => (x.va.toNat, x.n)
          match s.retire key c t k span.length span with | .done s => .short s k | r => r
        else memStop (s.mapSeat key fun q => put q false n) key c k c.dEnt tr
  | _, _ => .done s

/-! ### Vector stores -/

/-- One element written (R425, R426): a 4-bit element merges into its byte. -/
def State.writeElemAt (s : State) (key : Nat) (cin : BitVec 18) (x : EHit) (v : Nat) : State :=
  let s := s.dropStrip key x.hit.mt x.hit.pa
  match x.acc.nib with
  | none => s.write (coreOf key) cin x.hit (leBytes x.acc.n v)
  | some k =>
    let merge := fun (old : Byte) => BitVec.ofNat 8 (if k = 0 then old.toNat / 16 * 16 + v % 16 else old.toNat % 16 + 16 * (v % 16))
    if x.hit.mt = 1 then s.write (coreOf key) cin x.hit [merge (memGet s.mem x.hit.pa)]
    else
      match s.read (coreOf key) cin x.hit 1 with
      | .ok r => r.st.write (coreOf key) cin x.hit [merge (r.bytes.headD 0)]
      | .error _ => s

/-- Among elements at one address VSTX.u keeps exactly one, which the engine chooses: a free choice (R217). -/
def pickOne : List (EHit × Nat) → Nat → List (EHit × Nat) × Nat
  | [], n => ([], n)
  | x :: t, n =>
    let (rest, n) := pickOne t n
    match rest.find? (fun y => y.1.hit.pa = x.1.hit.pa) with
    | none => (x :: rest, n)
    | some y =>
      if Config.freeChoice n % 2 = 0 then (x :: rest.filter (fun z => z.1.hit.pa ≠ y.1.hit.pa), n + 1)
      else (rest, n + 1)

/-- The elements of a scatter that this performing writes (R217): of coinciding elements the one with the highest index with
VSTX.o, whichever of them has been performed, and one that the engine chooses with VSTX.u. Where a later one faults, the
earlier ones leave the address to it. -/
def scatterPick (ordered : Bool) (all left : List EAcc) (data : List (EHit × Nat)) (n : Nat) : List (EHit × Nat) × Nat :=
  if ordered then (data.filter fun x => !all.any fun y => decide (x.1.acc.i < y.i) && y.va == x.1.acc.va, n)
  else pickOne (data.filter fun x => !left.any fun y => y.va == x.1.acc.va) n

/-- The elements that a part of a scatter takes: with VSTX.u those that coincide with one of them too, for one alone is
written. -/
def Cap.closeOnly (c : Cap) (ordered : Bool) (els : List EAcc) : Cap :=
  if ordered then c
  else { c with only := c.only.map fun l =>
    (els.filter fun x => els.any fun y => l.contains y.i && y.va == x.va).map (·.i) }

/-- VST, VSTS, VST2, VSTX.o and VSTX.u: ascending, so the highest index stays where elements overlap (R217, R426). -/
def State.vstore (s : State) (key : Nat) (c : Cap) (a : VAddr) (ordered : Bool) : Perf :=
  match s.seat key, c.d with
  | some q, some t =>
    let n := t.count c.vl
    let probe := match a with | .indexed _ => true | _ => false
    let els := ((if probe then c.whole else c).indices q t n).map (eaccOf c q a t)
    let c := if probe then c.closeOnly ordered els else c
    let p := passOf key q c .vstore probe els s
    if p.wait || (c.inPart && p.bad.isSome) then .wait
    else
      let data := (p.hits.filter fun x => c.todo t x.acc.i).map fun x => (x, readElem q.plane t x.acc.i)
      let left := match p.bad with | some (k, _) => els.filter fun x => decide (k ≤ x.i) | none => []
      let all := ((List.range n).filter (c.active q)).map (eaccOf c q a t)
      let (data, fn) := if probe then scatterPick ordered all left data p.st.freeN else (data, p.st.freeN)
      let s := data.foldl (fun s (x : EHit × Nat) => s.writeElemAt key q.cin x.1 x.2) { p.st with freeN := fn }
      match p.bad with
      | none =>
        if c.inPart then .part s c.further
        else s.retire key c t c.vl all.length (all.map fun x => (x.va.toNat, x.n))
      | some (k, tr) => memStop s key c k c.dEnt tr
  | _, _ => .done s

/-! ### VAPPEND (R413, R414) -/

/-- A word of a header as an atomic finds it at its home. -/
def State.headerWord (s : State) (h : Hit) (off : Nat) : Nat :=
  leNat (if h.mt = 1 then (s.fleetGet (h.pa + off) 4).1 else s.homeGet (h.pa + off) 4)

/-- How many of n slots a header refuses (R413). -/
def State.refused (s : State) (h : Hit) (n : Nat) : Nat :=
  ((List.range n).filter fun j => decide (s.headerWord h 4 ≤ s.headerWord h 0 + j)).length

/-- The reservation at the header: one AADD.w of n to TAIL, and the refused slots added to DROP; each is one request (R151).
TAIL and CAP as they were, and whether the header's tile had expired (R167). -/
def State.reserve (s : State) (cin : BitVec 18) (die : Nat) (h : Hit) (n : Nat) : Nat × Nat × Bool × State :=
  let d := s.refused h n
  let cp := s.headerWord h 4
  let (t, e, s) := (s.count cin die h.pa h.plc).atomicRel h .add false 4 n 0
  if d = 0 then (t, cp, e, s)
  else (t, cp, e, ((s.count cin die h.pa h.plc).atomicRel { h with pa := h.pa + 8 } .add false 4 d 0).2.2)

/-- The watchpoint that the header's accesses meet (R295): the atomic on TAIL, the read of CAP, and the atomic on DROP where
slots are refused. -/
def Seat.headerWatch (q : Seat) (x : Word) (refuses : Bool) : Option (Nat × Word) :=
  match q.watchHit x.toNat 4 true, q.watchHit (x.toNat + 4) 4 false, q.watchHit (x.toNat + 8) 4 true with
  | some k, _, _ => some (k, x)
  | _, some k, _ => some (k, x + 4)
  | _, _, some k => if refuses then some (k, x + 8) else none
  | _, _, _ => none

/-- VAPPEND: the reservation, once, then the active elements into its slots below CAP. -/
def State.append (s : State) (key : Nat) (c : Cap) : Perf :=
  match s.seat key, c.a with
  | some q, some t =>
    let src := c.src q.plane t (t.count c.vl)
    let act := (List.range (t.count c.vl)).filter (c.active q)
    let e := t.fmt.width / 8
    let slots := fun (tl cp : Nat) => ((act.zipIdx).filter fun x => decide (tl + x.2 < cp) && c.todo t x.1).map fun x =>
      (⟨x.1, c.x + BitVec.ofNat 64 (64 + (tl + x.2) * e), e, none⟩ : EAcc)
    let finish := fun (s : State) (c : Cap) (tl cp : Nat) =>
      let p := passOver key q c .vstore false (slots tl cp) s
      if p.wait || (c.inPart && p.bad.isSome) then Perf.wait
      else
        let s := p.hits.foldl (fun s x => s.writeElemAt key q.cin x (src x.acc.i)) p.st
        match p.bad with
        | none =>
          let span := ((act.zipIdx).filter fun x => decide (tl + x.2 < cp)).map fun x =>
            ((c.x + BitVec.ofNat 64 (64 + (tl + x.2) * e)).toNat, e)
          if c.inPart then .part s c.further else s.retire key c t c.vl act.length span
        | some (k, tr) => memStop s key c k c.aEnt tr
    if act.isEmpty then s.retire key c t c.vl 0 []
    else
      match c.slot with
      | some (tl, cp) => finish s c tl cp
      | none =>
        match s.translate (q.who key) .atomic c.x with
        | (.fault f, s) => memStop s key c 0 c.aEnt (trapOf f c.x c.pc)
        | (.wait, _) => .wait
        | (.ok h, s) =>
          let s := (s.dropStrip key h.mt h.pa).flushInval (coreOf key) q.cin h.pa
          let watch := if c.unwatched then none
            else { q with noWatch := false }.headerWatch c.x (decide (0 < s.refused h act.length))
          match watch with
          | some (k, va) => memStop s key c 0 c.aEnt (watchTrap k va c.pc)
          | none =>
            let (tl, cp, e, s') := s.reserve q.cin (dieOf key) h act.length
            match finish (s'.noteExp key e) { c with slot := some (tl, cp) } tl cp with
            -- a slot on a page that migrates: the reservation waits with it
            | .wait => .wait
            | r => r
  | _, _ => .done s

/-! ### The probe pass of CPIX (R153, R190, R350) -/

/-- The accesses of a CPIX, element by element. -/
def cpixAcc (c : Cap) (q : Seat) : List EAcc :=
  match c.d, c.a with
  | some t, some ta =>
    let e : Int := t.fmt.width / 8
    (List.range c.vl).map fun i =>
      ⟨i, c.x + BitVec.ofInt 64 (intValue ta.fmt (readElem q.plane ta i) * e), t.fmt.width / 8, none⟩
  | _, _ => []

/-- The duplicate mask: a bit for every element whose address an earlier one has. -/
def dupMask (l : List EAcc) : Mask :=
  l.foldl (fun m x => if l.any (fun y => decide (y.i < x.i) && y.va == x.va) then setMaskBit m x.i true else m) 0

/-- TAGS[T] and TAGFAULT[T] set together (R191). -/
def Seat.setTag (q : Seat) (tag : Nat) (fault : Bool) : Seat :=
  { q with tags := q.tags ||| (1#64 <<< tag), tagsOut := q.tagsOut.filter (· ≠ tag)
           tagfault := if fault then q.tagfault ||| (1#64 <<< tag) else q.tagfault }

/-- The probe pass writes md and hands the gather to the background; with VL = 0 the tag is set at once. -/
def State.cpixProbe (s : State) (key : Nat) (c : Cap) (md : MaskNo) (tag : Nat) : Perf :=
  match s.seat key, c.d with
  | some q, some t =>
    let els := cpixAcc c q
    let p := passOver key q { c with unwatched := true } .vload true els s
    let s := p.st.mapSeat key fun q => if md = 0 then q else q.setMask md (dupMask els)
    let count := match p.bad with | some (k, _) => k | none => els.length
    let fault := p.bad.map fun x => (x.2.code, x.2.detail, x.1)
    -- what is left for the background: the elements below the first fault, where the probe pass found them (R153)
    let hits := (p.hits.filter fun x => decide (x.acc.i < count)).map fun x => (x.hit.pa, x.hit.mt, x.hit.plc, x.hit.frame)
    let s := if els.isEmpty then s.mapSeat key (·.setTag tag false)
      else s.mapSeat key fun q => { q with gathers := q.gathers ++ [⟨c, hits, count, fault⟩] }
    s.retire key c t c.vl els.length (els.map fun x => (x.va.toNat, x.n))
  | _, _ => .done s

/-! ### The P queue -/

/-- The hit a P-queue command was translated to at issue. -/
def Cap.hit (c : Cap) : Option Hit := c.pa.map fun x => ⟨x.1, x.2.1, x.2.2, x.1⟩

/-- A load is performed: its value is fixed (R201). -/
def State.pload (s : State) (key : Nat) (c : Cap) (d : Reg) (n : Nat) (signed : Bool) : Perf :=
  match s.seat key, c.hit with
  | some q, some h =>
    match s.read (coreOf key) q.cin h n with
    | .error f => .stop s (trapOf f c.x c.pc) c
    | .ok r => .done ((r.st.writeReg key d (extend n signed (leNat r.bytes))).noteExp key r.expired)
  | _, _ => .done s

/-- A store is performed: its bytes enter the L1, the array or the device (R201). -/
def State.pstore (s : State) (key : Nat) (c : Cap) (n : Nat) : Perf :=
  match s.seat key, c.hit with
  | some q, some h => .done ((s.dropStrip key h.mt h.pa).write (coreOf key) q.cin h (leBytes n c.y.toNat))
  | _, _ => .done s

/-- The value an atomic leaves in sd (R214). -/
def atomResult (wide uns : Bool) (old : Nat) : Word :=
  if wide then BitVec.ofNat 64 old else extend 4 (!uns) old

/-- An atomic is performed at its home, in one step (R214, R215). -/
def State.patomic (s : State) (key : Nat) (c : Cap) (fn : AtomFn) (d : Reg) (wide uns : Bool) : Perf :=
  match s.seat key, c.hit with
  | some q, some h =>
    let s := (s.dropStrip key h.mt h.pa).flushInval (coreOf key) q.cin h.pa
    let s := s.count q.cin (dieOf key) h.pa h.plc
    let (old, e, s) := s.atomicRel h fn uns (if wide then 8 else 4) c.y.toNat c.z.toNat
    .done ((s.writeReg key d (atomResult wide uns old)).noteExp key e)
  | _, _ => .done s

/-- The store of a PUB (R211): a write-back first, but at scope .c, then 8 bytes at the home. -/
def State.ppub (s : State) (key : Nat) (c : Cap) (scope : Nat) : Perf :=
  match s.seat key, c.hit with
  | some q, some h =>
    let s := if scope = 0 then s else s.writeBack (coreOf key) q.cin
    let s := (s.dropStrip key h.mt h.pa).flushInvalHit (coreOf key) q.cin h
    .done ((s.request q.cin (dieOf key) h).homeWrite h (leBytes 8 c.y.toNat))
  | _, _ => .done s

/-- The load of an ACQ (R212). -/
def State.pacq (s : State) (key : Nat) (c : Cap) (d : Reg) (scope : Nat) : Perf :=
  match s.seat key, c.hit with
  | some q, some h =>
    let s := s.flushInvalHit (coreOf key) q.cin h
    match (s.request q.cin (dieOf key) h).homeRead h 8 with
    | .error f => .stop s (trapOf f c.x c.pc) c
    | .ok r =>
      let s := (r.st.writeReg key d (BitVec.ofNat 64 (leNat r.bytes))).noteExp key r.expired
      .done (if scope = 0 then s else s.invalClean (coreOf key) q.cin)
  | _, _ => .done s

/-- FINIT (R173). -/
def State.pfinit (s : State) (key : Nat) (c : Cap) : Perf :=
  match s.seat key, c.hit with
  | some q, some h =>
    let t := tileOf h.pa
    let s := s.count q.cin (dieOf key) h.pa h.plc
    let s := (s.dropTile key h.pa).homePut (tileBase t) ((List.replicate 256 (leBytes 8 c.y.toNat)).flatten)
    .done (s.setTile t ⟨BitVec.ofNat 20 s.ftick, false⟩)
  | _, _ => .done s

/-- FRNW (R174). -/
def State.pfrnw (s : State) (key : Nat) (c : Cap) (d : Reg) : Perf :=
  match s.seat key, c.hit with
  | some q, some h =>
    let t := tileOf h.pa
    let s := s.count q.cin (dieOf key) h.pa h.plc
    let life := (s.die (tileDie t)).life
    if s.liveAt h.pa then
      .done ((s.setTile t { s.tile t with birth := BitVec.ofNat 20 s.ftick }).writeReg key d (BitVec.ofNat 64 life))
    else .done (s.writeReg key d 0)
  | _, _ => .done s

/-- FLIFE (R175). -/
def State.pflife (s : State) (key : Nat) (c : Cap) (d : Reg) : Perf :=
  match s.seat key, c.hit with
  | some q, some h =>
    let t := tileOf h.pa
    let s := s.count q.cin (dieOf key) h.pa h.plc
    let x := s.tile t
    let r : Int := if x.expd then 0 else (s.die (tileDie t)).life - (x.age s.ftick : Int)
    .done (s.writeReg key d (BitVec.ofInt 64 r))
  | _, _ => .done s

end Sys2Proof.Machine
end

