-- ==== Sys2Proof/Machine/MxRun.lean ====
section
/-!
DEFINITION. Sys2Proof/Machine/MxRun.lean: performing the commands of the M queue: weights of a stationary tile (R120),
row-steps (R125, R127, R128), accumulator moves (R129 to R131, R334 to R337), and loading tiles (R120 to R123, R137).
-/
namespace Sys2Proof.Machine

/-! ### Buffers (R118) -/

/-- The active and the shadow buffer: in a dual seat its one buffer is both. -/
def Seat.activeIx (q : Seat) : Fin 2 := if q.single && q.active then 1 else 0
def Seat.shadowIx (q : Seat) : Fin 2 := if q.single && !q.active then 1 else 0
def Seat.activeTile (q : Seat) : Option Tile := q.buf[q.activeIx]
def Seat.setShadow (q : Seat) (t : Option Tile) : Seat := { q with buf := q.buf.set q.shadowIx t }

/-- K of Table 5.2 for a mode and a format; `none` where they form no row of it. -/
def tileK (m : TileMode) (f : Fmt) : Option Nat :=
  match m, f with
  | .dense, .bf16 | .dense, .fp16 | .diagonal, .bf16 | .diagonal, .fp16 => some 256
  | .dense, .e4m3 | .dense, .e5m2 | .dense, .int8 | .diagonal, .e4m3 | .diagonal, .e5m2 | .diagonal, .int8 => some 512
  | .dense, .int4 | .diagonal, .int4 | .dense, .mxfp4 => some 1024
  | .grouped, .int8 | .grouped, .uint8 | .grouped, .int4 | .grouped, .uint4 => some 256
  | .grouped2, .int4 | .grouped2, .uint4 => some 512
  | _, _ => none

/-- The pairings of Table 5.3 between va's format and a tile. -/
def pairs (va : Fmt) (m : TileMode) (f : Fmt) : Bool :=
  let plain := m == .dense || m == .diagonal
  match va with
  | .bf16 => (plain && f == .bf16) || m == .grouped
  | .fp16 => plain && f == .fp16
  | .e4m3 | .e5m2 => plain && (f == .e4m3 || f == .e5m2)
  | .int8 => (plain && f == .int8) || m == .grouped2
  | .mxfp4 => m == .dense && f == .mxfp4
  | .int4 => plain && f == .int4
  | _ => false

/-- w[k][n] with the flags that forming it raises (R120); a row that is not in the buffer is zero (R121). R120 gives no sign to the
zero weight of a code that equals z: the difference counts as +0, so that the weight has its scale's sign, and 0 times an infinite
scale raises NV, DESIGN CHOICE (assumption 67). -/
def Tile.weight (t : Tile) (k n : Nat) : Num × Flags :=
  if t.rows ≤ k then (.zero false, flagNone)
  else
  let code := (mapGet 0#32 t.codes (128 * k + n)).toNat
  match t.mode with
  | .grouped | .grouped2 =>
    let q := (mapGet 0#32 t.scales (128 * (k / t.g) + n)).toNat
    let s := floatValue .fp16 (q / 65536)
    let (x, f) := mulNum (.ofInt (intValue t.fmt code - (q % 65536 : Nat))) s
    (x, f ||| snanFlag [s])
  | _ =>
    if t.fmt = .mxfp4 then mulNum (floatValue .mxfp4 code) (e8m0Value (mapGet 0#32 t.scales (128 * (k / 32) + n)).toNat)
    else (numValue t.fmt code, snanFlag [numValue t.fmt code])

/-! ### Row-steps -/

/-- The products of a dot product, with their flags (R125). -/
def dotProducts (t : Tile) (n : Nat) (acts : List Num) : List (Num × Flags) :=
  (acts.zipIdx).map fun x =>
    let (w, fw) := t.weight x.2 n
    let (p, fp) := mulNum x.1 w
    (p, fw ||| fp ||| snanFlag [x.1])

/-- Weights that are integers as they stand: their pairings form exact integer dots (R125). -/
def Tile.integer (t : Tile) : Bool :=
  (t.mode == .dense || t.mode == .diagonal) && (t.fmt == .int8 || t.fmt == .int4)

/-- The terms of a dot product, with their flags: an integer pairing's is one integer, whose zero has no sign (R125). -/
def dotTerms (t : Tile) (n : Nat) (acts : List Num) : List (Num × Flags) :=
  let l := dotProducts t n acts
  if t.integer then [((sumNums .rne (l.map fun x => x.1.plain)).1.plain, flagNone)] else l

/-- One column of a row-step: the FP32 code written and its flags. -/
def rowCol (t : Tile) (ctl : AccCtl) (decay : BitVec 32) (mode : Rm) (acts : List Num) (old n : Nat) : Nat × Flags :=
  let dot := dotTerms t n acts
  let fd := flagsOr (dot.map (·.2))
  let terms := dot.map (·.1)
  let o := floatValue .fp32 old
  let (l, fo) : List Num × Flags := match ctl with
    | .zero => (terms, flagNone)
    | .acc => (terms ++ [o], snanFlag [o])
    | .sub => (terms.map Num.flip ++ [o], snanFlag [o])
    | .decay =>
      let d := floatValue .fp32 decay.toNat
      let (p, fp) := mulNum d o
      (terms ++ [p], fp ||| snanFlag [d, o])
  let (x, fx) := sumNums mode l
  let (c, fc) := deliver x .fp32 ⟨mode, 0, false⟩ 0
  (c, fd ||| fo ||| fx ||| fc)

/-- Activation row h of a command: K values, 0 beyond `w` (R125, R127). That the E2M1 scale of a group does not act on those
zeros is DEDUCED (assumption 68). -/
def actRow (c : Cap) (q : Seat) (t : Tile) (ta : Shape) (h w : Nat) : List Num :=
  (List.range t.k).map fun k =>
    let code := readElem q.plane ta (h * w + k)
    if w ≤ k then .zero false
    else if ta.fmt = .mxfp4 then
      match c.mxsa with
      | some ts => (mulNum (floatValue .mxfp4 code) (e8m0Value (readElem q.plane ts (h * (t.k / 32) + k / 32)))).1
      | none => floatValue .mxfp4 code
    else numValue ta.fmt code

/-- A row-step: the new row, and the flags of its 128 deliveries. -/
def rowStep (c : Cap) (q : Seat) (t : Tile) (ta : Shape) (ctl : AccCtl) (h w : Nat) : List Nat × Flags :=
  let acts := actRow c q t ta h w
  let r := (List.range 128).map fun n => rowCol t ctl c.decay (noSr c.mode) acts (readAcc q.acc (c.acc + h) n) n
  (r.map (·.1), flagsOr (r.map (·.2)))

/-- The ARITH trap of a command (R97). -/
def arithTrap (en : Flags) (pc : Word) : Trap := ⟨codeArith, 0, en.setWidth 64, pc⟩

/-- The stop of a matrix instruction at a row-step (R128). -/
def Seat.mxStop (q : Seat) (h : Nat) (en : Flags) (ent : Ent) (act : Bool) : Seat :=
  { q.orFlags en with sr := { (q.orFlags en).sr with
      mseqRow := BitVec.ofNat 11 h, mseqAct := act || q.sr.mseqAct
      eshElem := BitVec.ofNat 32 h, eshPart := false, eshEnt := ent } }

/-- Row-steps in order (R127, R128): the seat after them, or after those before the first that an enabled condition
stops, with its index and the conditions. -/
def rowSteps (c : Cap) (t : Tile) (ta : Shape) (ctl : AccCtl) (w : Nat) : List Nat → Seat → Seat × Option (Nat × Flags)
  | [], q => (q, none)
  | h :: rest, q =>
    let (row, fl) := rowStep c q t ta ctl h w
    let en := enabledOf c.excen fl
    if en ≠ 0#5 then (q, some (h, en))
    else rowSteps c t ta ctl w rest ({ q with acc := writeAccRow q.acc (c.acc + h) row }.orFlags fl)

/-- MSEQ when an MMT or an LDST has completed: ACT stays 1 while a replay, or another MMT or LDST that is set aside, is in
progress or stopped (Table 5.6); the spec gives ROW no value then. -/
def Seat.mseqDone (q : Seat) (free : Word) : Seat :=
  { q with sr := { q.sr with
      mseqAct := q.replay.isSome || q.replaySaved.isSome || { q with pend := [] }.mxStopped, mseqRow := free.setWidth 11 } }

/-- The command stands before a row (R121, R127, R128): the row it resumes at, DESIGN CHOICE where a handler's own MMT or LDST
has changed MSEQ.ROW meanwhile (assumption 43). -/
def Cap.atRow (c : Cap) (h : Nat) : Cap := { c with partial_ := true, row := h, rowLim := none }

/-- The row a command goes on at, and the rows it performs now. -/
def Cap.rows (c : Cap) (n : Nat) : List Nat :=
  ((List.range n).filter fun h => match c.rowLim with | some m => decide (h < m) | none => true).drop
    (if c.partial_ then c.row else 0)

/-- An MMT or an LDST that an asynchronous stop halts before a row (R127). -/
def Seat.mseqAt (q : Seat) (h : Nat) : Seat :=
  { q with sr := { q.sr with mseqAct := true, mseqRow := BitVec.ofNat 11 h } }

def State.mmr (s : State) (key : Nat) (c : Cap) (ctl : AccCtl) : Perf :=
  match s.seat key, c.a with
  | some q, some ta =>
    match q.activeTile with
    | none => .done s
    | some t =>
      match rowSteps c t ta ctl (min t.k ta.cap) [0] q with
      | (q, none) => .done (s.setSeat key q)
      | (q, some (h, en)) => .stop (s.setSeat key (q.mxStop h en c.aEnt false)) (arithTrap en c.pc) c
  | _, _ => .done s

def State.mmt (s : State) (key : Nat) (c : Cap) (ctl : AccCtl) : Perf :=
  match s.seat key, c.a with
  | some q, some ta =>
    match q.activeTile with
    | none => .done s
    | some t =>
      match rowSteps c t ta ctl ta.w (c.rows ta.h) q, c.rowLim with
      | (q, none), none => .done { s.setSeat key (q.mseqDone (Config.freeWord s.freeN)) with freeN := s.freeN + 1 }
      | (q, none), some m => .part (s.setSeat key (q.mseqAt m)) (c.atRow m)
      | (q, some (h, en)), _ => .stop (s.setSeat key (q.mxStop h en c.aEnt true)) (arithTrap en c.pc) (c.atRow h)
  | _, _ => .done s

/-! ### Accumulator moves -/

/-- ACCRD (R129, R334): a stop follows R79. -/
def State.accrd (s : State) (key : Nat) (c : Cap) (rm : Option Rm) : Perf :=
  match s.seat key, c.d with
  | some q, some t =>
    let env : RoundEnv := { c.env with mode := rm.getD c.mode }
    let els := ((List.range t.cap).filter (c.todo t)).map fun i =>
      let (v, f) := convert .fp32 t.fmt (readAcc q.acc (c.acc + i / t.w) (i % t.w)) env (c.stripbase + BitVec.ofNat 64 i)
      (⟨i, v, f⟩ : El)
    let o := finishElems c q t c.dEnt els
    match o.stop with
    | none => if c.inPart then .part (s.setSeat key o.q) c.further else .done (s.setSeat key o.q)
    | some (e, en) => .stop (s.setSeat key o.q) (arithTrap en c.pc) (c.stoppedAt e)
  | _, _ => .done s

/-- ESHAPE when ACCSC or ACCWR stops (R336). -/
def Seat.accStop (q : Seat) (ent : Ent) : Seat :=
  { q with sr := { q.sr with eshElem := 0, eshPart := false, eshEnt := ent } }

/-- Accumulator elements written together, or none of them when an enabled condition arises (R336). -/
def accAll (s : State) (key : Nat) (c : Cap) (q : Seat) (ent : Ent) (l : List (Nat × Nat × Nat × Flags)) : Perf :=
  let fl := flagsOr (l.map (·.2.2.2))
  let en := enabledOf c.excen fl
  if en ≠ 0#5 then
    let q := q.orFlags en
    .stop (s.setSeat key (q.accStop ent)) (arithTrap en c.pc) c
  else
    let acc := l.foldl (fun a (x : Nat × Nat × Nat × Flags) => writeAcc a x.1 x.2.1 x.2.2.1) q.acc
    .done (s.setSeat key ({ q with acc := acc }.orFlags fl))

/-- ACCWR and ACCWR.a (R130, R337). -/
def State.accwr (s : State) (key : Nat) (c : Cap) (add : Bool) : Perf :=
  match s.seat key, c.a with
  | some q, some t =>
    accAll s key c q c.aEnt ((List.range t.cap).map fun i =>
      let r := c.acc + i / t.w
      let n := i % t.w
      let x := floatValue t.fmt (readElem q.plane t i)
      let env : RoundEnv := ⟨noSr c.mode, 0, false⟩
      if add then
        let (y, f) := addNum env.mode (floatValue .fp32 (readAcc q.acc r n)) x
        let (v, g) := deliver y .fp32 env 0
        (r, n, v, f ||| g)
      else
        let (v, g) := deliver x .fp32 env 0
        (r, n, v, g ||| snanFlag [x]))
  | _, _ => .done s

/-- ACCSC (R131, R335). -/
def State.accsc (s : State) (key : Nat) (c : Cap) : Perf :=
  match s.seat key with
  | some q =>
    let d := floatValue .fp32 c.decay.toNat
    accAll s key c q 0 ((List.range (128 * c.n)).map fun i =>
      let r := c.acc + i / 128
      let n := i % 128
      let x := floatValue .fp32 (readAcc q.acc r n)
      let (y, f) := mulNum d x
      let (v, g) := deliver y .fp32 ⟨noSr c.mode, 0, false⟩ 0
      (r, n, v, f ||| g ||| snanFlag [d, x]))
  | none => .done s

/-- ACCZ (R131). -/
def State.accz (s : State) (key : Nat) (c : Cap) : Perf :=
  .done (s.mapSeat key fun q =>
    { q with acc := (List.range (128 * c.n)).foldl (fun a i => writeAcc a (c.acc + i / 128) (i % 128) 0) q.acc })

/-! ### Engine reads -/

/-- Bytes that an engine reads at their homes, one line after another (R147, R216): MT 4 is a PROT DEVICE fault (R145). Each
line is a request from the engine's die to the page (R160). -/
def State.engineGet (s : State) (who : Accessor) : Nat → Word → Nat → Except EFault (List Byte × Bool × State)
  | 0, _, _ => .ok ([], false, s)
  | fuel + 1, va, n =>
    if n = 0 then .ok ([], false, s)
    else
      let k := min n (64 - va.toNat % 64)
      match s.translate who .eload va with
      | (.fault f, _) => .error ⟨f, va⟩
      | (.wait, _) => .ok ([], false, s)
      | (.ok h, s) =>
        match (s.countEpoch who.die h.pa h.plc).homeRead h k with
        | .error f => .error ⟨f, va⟩
        | .ok r =>
          match r.st.engineGet who fuel (va + BitVec.ofNat 64 k) (n - k) with
          | .error f => .error f
          | .ok (l, e, s) => .ok (r.bytes ++ l, r.expired || e, s)

/-! ### Loading tiles -/

/-- One row of a tile in memory: where it starts, in nibbles from the base, how many weights it has, and the column of its
first (Table 5.2, R137). `none` for a row of a diagonal tile beyond its taps. -/
structure RowSrc where
  nib : Nat
  count : Nat
  col : Nat
  deriving DecidableEq, Repr

/-- g of a diagonal tile (R137). -/
def diagG (bigK k q : Nat) : Nat := if k = 0 then 0 else min 128 (bigK / k) / q * q

/-- Row r of the tile an LDST loads; `y` is s[sb]. -/
def rowSrc (mode : TileMode) (f : Fmt) (bigK : Nat) (y : Word) (r : Nat) : Option RowSrc :=
  let w := f.width / 4
  match mode with
  | .diagonal =>
    let k := bits y.toNat 0 11
    let q := bits y.toNat 11 8 + 1
    let g := diagG bigK k q
    if r < k * g then some ⟨r * q * w, q, q * (r % g / q)⟩ else none
  | _ => some ⟨r * 128 * w, 128, 0⟩

/-- The codes in a run of bytes, from a nibble on. -/
def codesAt (f : Fmt) (l : List Byte) (nib n : Nat) : List Nat :=
  let v := leNat l
  (List.range n).map fun i => bits v (4 * nib + f.width * i) f.width

/-- Rows of scales: group size, and bytes of one entry (Table 5.2). -/
def scaleForm (mode : TileMode) (f : Fmt) (g : Nat) : Option (Nat × Nat) :=
  match mode with
  | .grouped | .grouped2 => some (g, 4)
  | _ => if f = .mxfp4 then some (32, 1) else none

/-- One row is read, and the scales of its group with its first row (R120, R121). -/
def State.loadRow (s : State) (who : Accessor) (c : Cap) (t : Tile) (r : Nat) : Except EFault (Tile × Bool × State) :=
  match rowSrc t.mode t.fmt t.k c.y r with
  | none => .ok ({ t with rows := r + 1 }, false, s)
  | some x =>
    let first := x.nib / 2
    let len := ceilDiv (x.nib % 2 + x.count * (t.fmt.width / 4)) 2
    match s.engineGet who (len + 1) (c.x + BitVec.ofNat 64 first) len with
    | .error f => .error f
    | .ok (l, e, s) =>
      let codes := (codesAt t.fmt l (x.nib % 2) x.count).zipIdx.foldl
        (fun m y => mapSet 0#32 m (128 * r + x.col + y.2) (BitVec.ofNat 32 y.1)) t.codes
      let t := { t with codes := codes, rows := r + 1 }
      match scaleForm t.mode t.fmt t.g with
      | none => .ok (t, e, s)
      | some (g, n) =>
        if r % g ≠ 0 then .ok (t, e, s)
        else
          match s.engineGet who (128 * n + 1) (c.y + BitVec.ofNat 64 (n * 128 * (r / g))) (128 * n) with
          | .error f => .error f
          | .ok (l, e', s) =>
            let sc := (List.range 128).foldl
              (fun m i => mapSet 0#32 m (128 * (r / g) + i) (BitVec.ofNat 32 (leNat ((l.drop (n * i)).take n)))) t.scales
            .ok ({ t with scales := sc }, e || e', s)

/-- Rows one after another: the tile, the first row that faults with its fault, and whether a byte had expired. -/
def loadRows (who : Accessor) (c : Cap) : List Nat → Tile → State → Tile × Option (Nat × EFault) × Bool × State
  | [], t, s => (t, none, false, s)
  | r :: rest, t, s =>
    match s.loadRow who c t r with
    | .error f => (t, some (r, f), false, s)
    | .ok (t, e, s) =>
      let (t, b, e', s) := loadRows who c rest t s
      (t, b, e || e', s)

/-- LDST (R120, R121, R371): from row 0, or one that resumes from the row it stopped at. -/
def State.ldst (s : State) (key : Nat) (c : Cap) (ff : Bool) (mode : TileMode) (g : Nat) (fmt : Fmt) : Perf :=
  match s.seat key, tileK mode fmt with
  | some q, some k =>
    let fresh : Tile := ⟨fmt, mode, k, g, 0, [], []⟩
    let t0 := if c.partial_ then q.buf[q.shadowIx].getD fresh else fresh
    let (t, bad, e, s) := loadRows (q.engine key) c (c.rows k) t0 s
    let put := fun (s : State) (len : Option Nat) => (s.mapSeat key fun q =>
      let q := q.setShadow (some t)
      match len with
      | some n => { q with sr := { q.sr with ldstlen := BitVec.ofNat 11 n } }
      | none => q).noteExp key e
    let fin := fun (s : State) => { s.mapSeat key (·.mseqDone (Config.freeWord s.freeN)) with freeN := s.freeN + 1 }
    match bad, c.rowLim with
    | none, none => .done (fin (put s (some k)))
    | none, some m => .part ((put s none).mapSeat key (·.mseqAt m)) (c.atRow m)
    | some (r, f), _ =>
      if ff ∧ 0 < r then .done (fin (put s (some r)))
      else
        .stop ((put s none).mapSeat key (·.mseqAt r)) (trapOf f.f f.va c.pc) (c.atRow r)
  | _, _ => .done s

/-- LDSTP (R122). -/
def State.ldstp (s : State) (key : Nat) (c : Cap) : Perf :=
  match c.a with
  | none => .done s
  | some t =>
    .done (s.mapSeat key fun q =>
      let codes := (List.range t.cap).foldl
        (fun m i => mapSet 0#32 m (128 * (i / t.w) + i % t.w) (BitVec.ofNat 32 (readElem q.plane t i))) []
      q.setShadow (some ⟨t.fmt, .dense, (tileK .dense t.fmt).getD 0, 0, (tileK .dense t.fmt).getD 0, codes, []⟩))

/-- SWST (R123). -/
def State.swst (s : State) (key : Nat) : Perf :=
  .done (s.mapSeat key fun q => if q.single then { q with active := !q.active } else q)

end Sys2Proof.Machine
end

