-- ==== Sys2Proof/Machine/CopyRun.lean ====
section
/-!
DEFINITION. Sys2Proof/Machine/CopyRun.lean: the copy engines: prefetch transfers and their strip buffers (R185 to R187,
R348), copies with conversion (R188, R189), transform routines (R197, R198), compressed images (R199), the completion of a
copy command (R191, R347), and the background gather of CPIX (R190).
-/
namespace Sys2Proof.Machine

/-! ### Engine writes -/

/-- The first byte of a range that does not translate for an engine's write, page by page. -/
def State.putFault (s : State) (who : Accessor) (va : Word) (n : Nat) : Option EFault × State :=
  match s.translate who .estore va with
  | (.fault f, s) => (some ⟨f, va⟩, s)
  | (_, s) =>
    let last := va + BitVec.ofNat 64 (n - 1)
    match s.translate who .estore last with
    | (.fault f, s) => (some ⟨f, BitVec.ofNat 64 (last.toNat / 64 * 64)⟩, s)
    | (_, s) => (none, s)

/-! ### Descriptors and completion -/

/-- A copy command ends (R347): RESULT and EADDR, OCTAG if it is not set yet, then TAG with its TAGFAULT bit. `none` while the
descriptor's page migrates, for the engine's write waits (R162); a descriptor that can no longer be written keeps its bytes. -/
def State.copyDone (s : State) (key ch : Nat) (x : Xfer) (consumed : Bool) (f : Option EFault) (done : Nat) : Option State :=
  match s.seat key with
  | none => some s
  | some q =>
    let bytes := leBytes 8 (match f with | some f => f.va.toNat | none => 0) ++ leBytes 8 (resultWord (f.map (·.f)) done)
    (match s.enginePut (q.engine key) [coreOf (q.place key)] 3 (x.desc + 48) bytes with
      | .ok s => some s
      | .error none => none
      | .error (some _) => some s).map fun (s : State) => s.mapSeat key fun q =>
      let q := match x.octag with
        | some t => if consumed then q else q.setTag t false
        | none => q
      let q := q.setTag x.tag f.isSome
      if h : ch < 4 then { q with chan := q.chan.set ch none } else q

/-! ### Elements of a transfer (R182) -/

/-- Byte address and nibble of element e of a side. -/
def sideAt (base : Word) (stride : Int) (f : Fmt) (e : Nat) : Word × Option Nat :=
  if f.width = 4 then (base + BitVec.ofNat 64 (e / 2), some (e % 2))
  else if stride = 0 then (base + BitVec.ofNat 64 (e * (f.width / 8)), none)
  else (base + BitVec.ofInt 64 (e * stride), none)

def Fmt.bytes (f : Fmt) : Nat := if f.width = 4 then 1 else f.width / 8

/-! ### Prefetch transfers -/

/-- The lines of elements lo to lo + n − 1, in order, each once; an element may lie in two. -/
def stripLines (x : Xfer) (lo n : Nat) : List Word :=
  ((List.range n).flatMap fun i =>
    let a := (sideAt x.src x.sstr x.sfmt (lo + i)).1
    let b := a + BitVec.ofNat 64 (Fmt.bytes x.sfmt - 1)
    [BitVec.ofNat 64 (a.toNat / 64 * 64), BitVec.ofNat 64 (b.toNat / 64 * 64)]).eraseDups

/-- The lines of the current strip and of the next one, from element b on with a elements left (R185). -/
def stripsAt (x : Xfer) (b a : Nat) : List Word :=
  let l := min a x.maxvl
  stripLines x b (l + min (a - l) x.maxvl)

/-- A line fetched at its home. A line whose fetch would fault is not fetched (R348), nor is one that the issuing core
holds dirty, so that the seat reads its own writes (R186). -/
def State.fetchLine (s : State) (key : Nat) (q : Seat) (va : Word) : Option (Nat × List (Byte × Bool)) × State :=
  match s.translate (q.engine key) .eload va with
  | (.ok h, s) =>
    let dirty := match s.line (s.sliceOf (coreOf (q.place key)) h.pa) q.cin 0 h.pa with
      | some l => kindOfMt h.mt = 0 && !l.dirty.isEmpty
      | none => false
    if dirty then (none, s)
    else
      match (s.countEpoch (dieOf (q.place key)) h.pa h.plc).homeRead h 64 with
      | .ok r => (some (stripKey h.mt h.pa, r.bytes.map fun b => (b, r.expired)), r.st)
      | .error _ => (none, s)
  | (_, s) => (none, s)

/-- Lines fetched one after another. -/
def fetchAll (key : Nat) (q : Seat) : List Word → State → List (Nat × List (Byte × Bool)) × State
  | [], s => ([], s)
  | va :: rest, s =>
    let (l, s) := s.fetchLine key q va
    let (t, s) := fetchAll key q rest s
    (l.toList ++ t, s)

/-- The held lines that belong to one of a list of lines. -/
def keepLines (key : Nat) (q : Seat) (s : State) (held : List (Nat × List (Byte × Bool))) (want : List Word) :
    List (Nat × List (Byte × Bool)) :=
  let keys := want.filterMap fun va => match s.translate (q.engine key) .eload va with
    | (.ok h, _) => some (stripKey h.mt h.pa)
    | _ => none
  held.filter fun x => keys.contains x.1

/-- The transfer on a channel moves from the lines of `old` to those of its strips now (R185): lines that belong to no strip
are dropped, and the lines of the strip that is new are fetched, as far as the buffer's 256 lines go. A line that a store
removed is not fetched again (R186). -/
def State.refill (s : State) (key ch : Nat) (old : List Word) : State :=
  if h : ch < 4 then
    match s.seat key with
    | none => s
    | some q =>
      match q.chan[ch] with
      | none => s
      | some a =>
        match a.cap.cmd with
        | .prefetch x =>
          let want := stripsAt x a.done a.left.toNat
          let kept := keepLines key q s a.lines want
          let (l, s) := fetchAll key q ((want.filter fun va => !old.contains va).take (256 - kept.length)) s
          s.mapSeat key fun q => { q with chan := q.chan.set ch (some { a with lines := kept ++ l }) }
        | _ => s
  else s

/-- The prefetch transfer on a channel ends (R185, R187): DONE := B, and its tag; its lines are dropped. -/
def State.endPrefetch (s : State) (key ch : Nat) : Option State :=
  if h : ch < 4 then
    match s.seat key with
    | none => some s
    | some q =>
      match q.chan[ch] with
      | none => some s
      | some a =>
        match a.cap.cmd with
        | .prefetch x => s.copyDone key ch x a.consumed none (if a.left ≤ 0 then x.avl else a.done)
        | _ => some s
  else some s

/-- A step on each of the four channels, unless one has to wait. -/
def onChannels (f : Nat → State → Option State) (s : State) : Option State :=
  (f 0 s).bind fun s => (f 1 s).bind fun s => (f 2 s).bind (f 3)

/-- Every prefetch transfer of a seat ends (R187). -/
def State.endPrefetches (s : State) (key : Nat) : Option State := onChannels (fun ch s => s.endPrefetch key ch) s

/-- A STRIP with granted length g moves the prefetch transfer on a channel on (R185). -/
def State.stripChannel (key g ch : Nat) (s : State) : Option State :=
  if h : ch < 4 then
    match s.seat key with
    | none => some s
    | some q =>
      match q.chan[ch] with
      | none => some s
      | some a =>
        match a.cap.cmd with
        | .prefetch x =>
          let old := stripsAt x a.done a.left.toNat
          let a := { a with done := a.done + g, left := a.left - g }
          let s := s.setSeat key { q with chan := q.chan.set ch (some a) }
          if a.left ≤ 0 then s.endPrefetch key ch else some (s.refill key ch old)
        | _ => some s
  else some s

/-- A STRIP moves every active prefetch transfer of the seat on. -/
def State.stripStep (s : State) (key g : Nat) : Option State := onChannels (State.stripChannel key g) s

/-! ### Copies -/

/-- The code element e of a copy writes (R188). -/
def copyCode (x : Xfer) (table : Sparse (BitVec 16)) (e code : Nat) : Nat :=
  if x.sfmt = x.dfmt then code
  else if x.conv then (mapGet 0#16 table (code % 256)).toNat
  else (convert x.sfmt x.dfmt code ⟨x.rm, x.seed, x.ovfns⟩ (BitVec.ofNat 64 e)).1

/-- The code of a source element. -/
def State.copyRead (s : State) (who : Accessor) (x : Xfer) (e : Nat) : Except EFault (Nat × State) :=
  let (va, nib) := sideAt x.src x.sstr x.sfmt e
  match s.engineGet who 3 va (Fmt.bytes x.sfmt) with
  | .error f => .error f
  | .ok (l, _, s) => .ok (match nib with | some k => bits (leNat l) (4 * k) 4 | none => leNat l, s)

/-- A destination element written; a 4-bit one merges into its byte. -/
def State.copyWrite (s : State) (who : Accessor) (core : Nat) (x : Xfer) (e code : Nat) : Except (Option EFault) State :=
  let (va, nib) := sideAt x.dst x.dstr x.dfmt e
  match nib with
  | none => s.enginePut who [core] 3 va (leBytes (Fmt.bytes x.dfmt) code)
  | some k =>
    match s.translate who .estore va with
    | (.ok h, s) =>
      let old := (memGet s.mem h.pa).toNat
      let b := if k = 0 then old / 16 * 16 + code % 16 else old % 16 + 16 * (code % 16)
      s.enginePut who [core] 3 va [BitVec.ofNat 8 b]
    | (.fault f, _) => .error (some ⟨f, va⟩)
    | (.wait, _) => .error none

/-- The requests that an engine's accesses to some bytes make, one for each 64-byte line (R160). -/
def State.countLines (s : State) (who : Accessor) (k : AKind) (vas : List Word) : State :=
  ((vas.map fun a => a.toNat / 64 * 64).eraseDups).foldl (fun s a =>
    match s.translate who k (BitVec.ofNat 64 a) with
    | (.ok h, _) => s.countEpoch who.die h.pa h.plc
    | _ => s) s

/-- An engine whose requests are counted for its transfer as a whole. -/
def Accessor.uncounted (who : Accessor) : Accessor := { who with die := who.die + 4 }

/-- The elements below the first whose source or destination faults, and that fault (R188). -/
def copyCheck (who : Accessor) (x : Xfer) : List Nat → State → Nat × Option EFault × State
  | [], s => (0, none, s)
  | e :: rest, s =>
    match s.copyRead who x e with
    | .error f => (0, some f, s)
    | .ok (_, s) =>
      match s.putFault who (sideAt x.dst x.dstr x.dfmt e).1 (Fmt.bytes x.dfmt) with
      | (some f, s) => (0, some f, s)
      | (none, s) =>
        let (n, f, s) := copyCheck who x rest s
        (n + 1, f, s)

/-- An order of n elements, drawn freely: the engine may perform them in any (R188). -/
def freeOrder : Nat → List Nat → Nat → List Nat
  | 0, _, _ => []
  | k + 1, l, n =>
    let i := Config.freeChoice n % l.length
    nth 0 l i :: freeOrder k (dropAt l i) (n + 1)

/-- The byte range of a side, lowest and highest address, virtual. -/
def sideSpan (base : Word) (stride : Int) (f : Fmt) (n : Nat) : Nat × Nat :=
  let l := (List.range n).map fun e => (sideAt base stride f e).1.toNat
  (l.foldl min (l.headD 0), l.foldl max 0 + Fmt.bytes f)

/-- Source and destination may share bytes, through one page or through two that map one frame. Only then does the order
of the elements show. -/
def State.copyMeets (s : State) (who : Accessor) (x : Xfer) (n : Nat) : Bool :=
  let (a, b) := sideSpan x.src x.sstr x.sfmt n
  let (c, d) := sideSpan x.dst x.dstr x.dfmt n
  let frames := fun (lo hi : Nat) => ((List.range ((hi - lo) / 16384 + 2)).map fun i =>
    match s.translate who .eload (BitVec.ofNat 64 (lo + 16384 * i)) with
    | (.ok h, _) => h.pa / 16384
    | _ => 2 ^ 64 + i).eraseDups
  if a / 16384 = c / 16384 ∧ (b - 1) / 16384 = (d - 1) / 16384 ∧ a / 16384 = b / 16384 then decide (a < d) && decide (c < b)
  else (frames a b).any fun f => (frames c d).contains f

/-- The elements performed in an order, up to one whose access faults: how many, that fault, and the state; `none` while a
destination page is migrating. -/
def copyGo (who : Accessor) (core : Nat) (x : Xfer) (table : Sparse (BitVec 16)) :
    List Nat → State → Option (Nat × Option EFault × State)
  | [], s => some (0, none, s)
  | e :: rest, s =>
    match s.copyRead who x e with
    | .error f => some (0, some f, s)
    | .ok (code, s) =>
      match s.copyWrite who core x e (copyCode x table e code) with
      | .error none => none
      | .error (some f) => some (0, some f, s)
      | .ok s => (copyGo who core x table rest s).map fun (n, f, s) => (n + 1, f, s)

/-- The data of a COPY, from its first element to its end (R188): how many elements and the fault that ended it; `none`
while a destination page is migrating. -/
def State.runCopy (s : State) (key : Nat) (x : Xfer) : Option (Nat × Option EFault × State) :=
  match s.seat key with
  | none => none
  | some q =>
    let who := (q.engine key).uncounted
    let table := match mapFind s.vis q.vi with | some v => v.cvt | none => []
    let (n, f, s) := copyCheck who x (List.range x.avl) s
    let meets := s.copyMeets who x n
    let order := if meets then freeOrder n (List.range n) s.freeN else List.range n
    let s := if meets then { s with freeN := s.freeN + n } else s
    let side := fun (base : Word) (stride : Int) (f : Fmt) => (List.range n).map fun e => (sideAt base stride f e).1
    let counted := fun (s : State) => (s.countLines (q.engine key) .eload (side x.src x.sstr x.sfmt)).countLines (q.engine key) .estore
      (side x.dst x.dstr x.dfmt)
    let go := fun order => copyGo who (coreOf (q.place key)) x table order s
    -- what the transfer writes itself may make a later element fault: it is then the elements in order that have been written
    match go order with
    | some (_, none, s) => some (n, f, counted s)
    | some (_, some _, _) => (go (List.range n)).map fun (m, g, s) => (m, if g.isSome then g else f, counted s)
    | none => none

/-! ### Compressed images (R157, R199) -/

/-- Tiles from number i on, the encoding of the next at image address p: tiles written, and the fault that ended them. The
tile's expanded lines leave the LLC and the issuing core's L1 before its slot is written (R199, R216). -/
def imageGo (who : Accessor) (core : Nat) (x : Xfer) : Nat → Nat → Word → State → Option (Nat × Option EFault × State)
  | 0, i, _, s => some (i, none, s)
  | n + 1, i, p, s =>
    match s.engineGet who 3 p 2 with
    | .error f => some (i, some f, s)
    | .ok (hd, _, s) =>
      let len := (nth 0 hd 1).toNat
      if len < 2 ∨ 160 < len ∨ 3 < (nth 0 hd 0).toNat then some (i, some ⟨dBadTile, p⟩, s)
      else
        match s.engineGet who 5 p len with
        | .error f => some (i, some f, s)
        | .ok (enc, _, s) =>
          match expandTile enc with
          | none => some (i, some ⟨dBadTile, p⟩, s)
          | some _ =>
            let dst := x.dst + BitVec.ofNat 64 (256 * i)
            match s.translate who .image dst with
            | (.fault f, s) => some (i, some ⟨f, dst⟩, s)
            | (.wait, _) => none
            | (.ok h, s) =>
              let t := h.pa / 256 * 256
              let s := { s with llcExp := (List.range 4).foldl (fun m k => mapErase m (t + 64 * k)) s.llcExp }
              let s := (s.invalExpanded core who.cin h.pa).countEpoch who.die h.pa h.plc
              imageGo who core x n (i + 1) (p + BitVec.ofNat 64 len) (s.homePut (slotOf h.pa) enc)

def State.runImage (s : State) (key : Nat) (x : Xfer) : Option (Nat × Option EFault × State) :=
  match s.seat key with
  | none => none
  | some q => imageGo (q.engine key) (coreOf (q.place key)) x x.avl 0 x.src s

/-- The data of a COPY or a CPIMG moved (R188, R199), unless that has been done; `none` while it waits. -/
def State.moveData (s : State) (key : Nat) (a : Active) : Option (Active × State) :=
  if a.ran then some (a, s)
  else
    let fin := fun (r : Option (Nat × Option EFault × State)) => r.map fun (n, f, s) =>
      ({ a with done := n, ran := true, err := f.map fun f => (f.f.code, f.f.detail, f.va) }, s)
    match a.cap.cmd with
    | .copy x => fin (s.runCopy key x)
    | .image x => fin (s.runImage key x)
    | _ => some (a, s)

/-- The fault that ended a transfer. -/
def Active.fault (a : Active) : Option EFault := a.err.map fun e => ⟨⟨e.1, e.2.1⟩, e.2.2⟩

/-! ### Transform routines (R197, R198) -/

def xRtnAccess : AFault := ⟨codeProt, 10⟩
def xRtnImage : AFault := ⟨codeProt, 11⟩
def sbBytes : Nat := 32768

/-- The routine image that is registered for the VI of the seat's context, the latest at its address (R197, R307). -/
def State.routineImage (s : State) (vi handle : Nat) (a : Word) : Option (List Byte) :=
  match mapFind s.vis vi with
  | some v => (v.routines.reverse.find? fun x => x.1 = handle && x.2.1 = a.toNat).map (·.2.2.1)
  | none => none

/-- Transform cores: one to each of eight copy engines of a die (Table 1.2). -/
def coresPerDie : Nat := 8
def transformCores : Nat := Config.dies * coresPerDie

/-- The transform cores at work, for nodes and for the channels of seats, the saved ones among them; a routine that pre-emption
has stopped holds none (R198). -/
def State.coresBusy (s : State) : List Nat :=
  (s.launches.flatMap fun l => (l.nodes.filter fun n => n.kind == 1 && n.state == .bound).map (·.unit))
    ++ ((s.seats.map (·.2)) ++ s.saved.map (·.2.2.2)).flatMap fun q =>
      q.chan.toList.filterMap fun a => a.bind fun a => a.routine.bind fun r => if r.stopped then none else some r.core

/-- The lowest free transform core of a range. That a routine waits until a core is free, and which one it takes, is DESIGN
CHOICE (assumption 31). -/
def State.coreFree (s : State) (cores : List Nat) : Option Nat := cores.find? fun u => !s.coresBusy.contains u

/-- The next chunk of the source for SB0, or the fault of reading it. -/
def State.fillChunk (s : State) (who : Accessor) (x : Xfer) (taken : Nat) : Except EFault (List Byte × State) :=
  let n := min sbBytes (x.avl - taken)
  match s.engineGet who (n + 1) (x.src + BitVec.ofNat 64 taken) n with
  | .error f => .error f
  | .ok (b, _, s) => .ok (b, s)

/-- A routine at its image's entry (R197, R198): the image in the local store, the first chunk in SB0, and a0 to a2. That the
image lies from address 0 of the local store on is DESIGN CHOICE (assumption 24). -/
def Routine.start (core : Nat) (image : List Byte) (x : Xfer) (chunk : List Byte) : Routine where
  core := core
  stopped := false
  store := ((image.take 65536).zipIdx).foldl (fun m y => mapSet 0#8 m y.2 y.1) []
  sb0 := chunk
  sb1 := []
  a := #v[BitVec.ofNat 64 x.avl, x.rarg, BitVec.ofNat 64 chunk.length, 0, 0, 0, 0, 0]

/-- The routine after an ECALL of service 0 (R198): what it left in SB1, the next chunk in SB0, and its count in a2. -/
def Routine.yielded (r : Routine) (out chunk : List Byte) : Routine :=
  { r with sb1 := out, sb0 := chunk, a := r.a.set 2 (BitVec.ofNat 64 chunk.length) }

/-- Bytes of SB1 drained to DST behind the earlier drains. -/
def State.drainChunk (s : State) (key : Nat) (q : Seat) (x : Xfer) (done : Nat) (bs : List Byte) : Except (Option EFault) State :=
  s.enginePut (q.engine key) [coreOf (q.place key)] (bs.length + 1) (x.dst + BitVec.ofNat 64 done) bs

/-! ### Starting a command (R181, R347) -/

/-- The head of a channel's queue reaches the engine: a prefetch transfer on the channel ends; a command of length 0
completes at once. -/
def State.startCopy (s : State) (key ch : Nat) (c : Cap) : Perf :=
  if h : ch < 4 then
    match s.seat key with
    | none => .done s
    | some q =>
      let busy := match q.chan[ch] with
        | some a => (match a.cap.cmd with | .prefetch _ => false | _ => true)
        | none => false
      match (if busy then none else s.endPrefetch key ch), c.cmd.xfer with
      | none, _ => .wait
      | some s, none => .done s
      | some s, some x =>
        let put := fun (s : State) (a : Active) => s.mapSeat key fun q => { q with chan := q.chan.set ch (some a) }
        let a : Active := ⟨c, 0, x.avl, [], 0, false, false, none, s.devtime, none⟩
        let ends := fun (s : State) (f : Option EFault) =>
          match s.copyDone key ch x false f 0 with | some s => Perf.done s | none => .wait
        match c.cmd with
        | .xform _ =>
          match s.routineImage q.vi q.handle x.routine with
          | none => ends s (some ⟨xRtnImage, 0⟩)
          | some im =>
            if x.avl = 0 then ends s none
            else
              match s.coreFree ((List.range coresPerDie).map (coresPerDie * dieOf (q.place key) + ·)) with
              | none => .wait
              | some u =>
                match s.fillChunk (q.engine key) x 0 with
                | .error f => ends s (some f)
                | .ok (b, s) => .done (put s { a with taken := b.length, routine := some (Routine.start u im x b) })
        | .prefetch _ => if x.avl = 0 then ends s none else .done ((put s a).refill key ch [])
        | _ => if x.avl = 0 then ends s none else .done (put s a)
  else .done s

/-- A channel's active transfer changed. -/
def Seat.setTransfer (q : Seat) (ch : Nat) (a : Active) : Seat :=
  if h : ch < 4 then { q with chan := q.chan.set ch (some a) } else q

/-- The transfer on a channel with its descriptor, if one is active. -/
def Seat.transfer (q : Seat) (ch : Nat) : Option (Active × Xfer) :=
  if h : ch < 4 then
    match q.chan[ch] with
    | some a => a.cap.cmd.xfer.map fun x => (a, x)
    | none => none
  else none

/-! ### The gather of CPIX (R190, R200, R350) -/

/-- Elements gathered one after another from where the probe pass found them (R153), up to one that meets a bad tile. Each distinct
address is read once (R190): `got` holds what has been read. -/
def gatherGo (die n : Nat) : List (Nat × Nat × Bool) → List (Nat × Hit) → State →
    List (Nat × Nat × Bool) × Option (Nat × AFault) × State
  | _, [], s => ([], none, s)
  | got, (i, h) :: rest, s =>
    match got.find? fun x => x.1 = h.pa with
    | some x =>
      let (l, b, s) := gatherGo die n got rest s
      ((i, x.2) :: l, b, s)
    | none =>
      match (s.countEpoch die h.pa h.plc).homeRead h n with
      | .error f => ([], some (i, f), s)
      | .ok r =>
        let (l, b, s) := gatherGo die n ((h.pa, leNat r.bytes, r.expired) :: got) rest r.st
        ((i, leNat r.bytes, r.expired) :: l, b, s)

/-- The engine ends a gather: earlier stores are written back, the elements are written, and the tag is set. -/
def State.endGather (s : State) (key : Nat) (g : Gather) (tag : Nat) : State :=
  match s.seat key, g.cap.d with
  | some q, some t =>
    let s := s.writeBack (coreOf (q.place key)) q.cin
    let (l, b, s) := gatherGo (q.engine key).die (t.fmt.width / 8) []
      ((g.hits.zipIdx).map fun x => (x.2, ⟨x.1.1, x.1.2.1, x.1.2.2.1, x.1.2.2.2⟩)) s
    let fault := match b with
      | some (i, f) => some (f.code, f.detail, i)
      | none => g.fault
    s.mapSeat key fun q =>
      let q := { q with plane := writeElems q.plane t (l.map fun (x : Nat × Nat × Bool) => (x.1, x.2.1))
                        status := { q.status with exp := q.status.exp || l.any (·.2.2) } }
      let q := match fault with
        | some (cc, dd, i) => { q with sr := { q.sr with cpixCause := cc, cpixDetail := dd
                                                         cpixTag := BitVec.ofNat 6 tag, cpixElem := BitVec.ofNat 32 i } }
        | none => q
      q.setTag tag fault.isSome
  | _, _ => s

end Sys2Proof.Machine
end

