-- ==== Sys2Proof/Machine/StreamRun.lean ====
section
/-!
DEFINITION. Sys2Proof/Machine/StreamRun.lean: the stream engine: the stream object (R225), the commands of the S queue
(R228 to R236, R394, R395), frame arrivals (R232), acknowledgements (R226), the egress engine (R229) and a stream's reset
(R237). Each function is one event of a stream's total order (R227).
-/
namespace Sys2Proof.Machine

/-- The fields of a stream object (Table 10.1). -/
structure SObj where
  g : Word
  p : Word
  a : Word
  b : Word
  late : BitVec 32
  cfg : BitVec 32
  mtbase : Word
  sdur : BitVec 32
  dropin : BitVec 32
  egbase : Word
  inbase : Word
  kvbase : Word
  ckbase : Word
  egn : Nat
  inn : Nat
  kvn : Nat
  ckacc : Nat
  cknm1 : Nat
  reserved : Nat
  deriving DecidableEq, Repr

/-- The object in its first 96 bytes. -/
def sobjOf (l : List Byte) : SObj :=
  let v := leNat l
  let w := fun (lo : Nat) => BitVec.ofNat 64 (bits v lo 64)
  let h := fun (lo : Nat) => BitVec.ofNat 32 (bits v lo 32)
  ⟨w 0, w 64, w 128, w 192, h 256, h 288, w 320, h 384, h 416, w 448, w 512, w 576, w 640,
    bits v 704 16, bits v 720 16, bits v 736 12, bits v 748 9, bits v 757 4, bits v 761 7⟩

/-- B = none (R225). -/
def SObj.noBarge (o : SObj) : Bool := o.b = BitVec.allOnes 64
def SObj.tag (o : SObj) : Nat := bits o.cfg.toNat 2 6
def SObj.ltrap (o : SObj) : Bool := o.cfg.getLsbD 0
/-- Media time of a position (R226). -/
def SObj.mediaOf (o : SObj) (q : Word) : Word := o.mtbase + q * o.sdur.setWidth 64

def streamKey (ctx handle : Nat) : Nat := 256 * ctx + handle

/-- The object is read at its home. -/
def State.sobj (s : State) (who : Accessor) (st : Stream) : Except EFault (SObj × State) :=
  match s.engineGet who 3 st.obj 96 with
  | .error f => .error f
  | .ok (l, _, s) => .ok (sobjOf l, s)

/-- What the engine's work on an area comes to: it is done, it meets a fault on the area (R395), or it waits for a page that
migrates (R162). -/
inductive Area (α : Type) where
  | ok (a : α)
  | fault
  | wait
  deriving DecidableEq, Repr

def Area.bind {α β : Type} (x : Area α) (f : α → Area β) : Area β :=
  match x with
  | .ok a => f a
  | .fault => .fault
  | .wait => .wait

/-- An engine write of the stream engine. -/
def State.areaPut (s : State) (who : Accessor) (cores : List Nat) (va : Word) (bs : List Byte) : Area State :=
  match s.enginePut who cores (bs.length + 1) va bs with
  | .ok s => .ok s
  | .error none => .wait
  | .error (some _) => .fault

def State.areaGet (s : State) (who : Accessor) (va : Word) (n : Nat) : Area (List Byte × State) :=
  match s.engineGet who (n + 1) va n with
  | .ok (l, _, s) => .ok (l, s)
  | .error _ => .fault

def State.setStream (s : State) (k : Nat) (st : Stream) : State := { s with streams := mapInsert s.streams k st }

def streamTrap (detail : BitVec 8) (value pc : Word) : Trap := ⟨codeStream, detail, value, pc⟩

/-- The seat of a launch's node, or its saved image, changed (R191, R237). -/
def State.mapNodeSeat (s : State) (ctx launch : Nat) (node : Word) (f : Seat → Seat) : State :=
  { s with
    seats := s.seats.map fun x =>
      (x.1, if x.2.ctx = ctx ∧ x.2.launch = launch ∧ x.2.node = node then f x.2 else x.2)
    launches := s.launches.map fun l =>
      if l.ctx = ctx ∧ l.id = launch then
        { l with nodes := l.nodes.map fun n => if n.addr = node then { n with image := n.image.map f } else n }
      else l }

/-- TAGS[T] set and TAGFAULT[T] cleared in one step (R232). -/
def Seat.raiseTag (q : Seat) (t : Nat) : Seat :=
  { q with tags := q.tags ||| (1#64 <<< t), tagfault := q.tagfault &&& ~~~(1#64 <<< t) }
def Seat.clearTag (q : Seat) (t : Nat) : Seat :=
  { q with tags := q.tags &&& ~~~(1#64 <<< t), tagfault := q.tagfault &&& ~~~(1#64 <<< t) }

/-! ### The commands -/

/-- What one command comes to: the state with the object's area written, and the value for sd. A fault on the area leaves
everything as it was. -/
abbrev SRes := Area (State × Word)

/-- SAPP (R229). -/
def sapp (s : State) (who : Accessor) (core k : Nat) (st : Stream) (o : SObj) (x : Word) : SRes :=
  if !o.noBarge then .ok (s, -1)
  else if o.egn ≤ st.egress.length then .ok (s, -2)
  else
    let at_ := o.egbase + BitVec.ofNat 64 (16 * ((st.egHead + st.egress.length) % o.egn))
    let entry := leBytes 8 x.toNat ++ leBytes 4 o.g.toNat ++ leBytes 4 o.a.toNat
    ((s.areaPut who [core] at_ entry).bind fun s =>
      s.areaPut who [core] st.obj (leBytes 8 (o.g + 1).toNat)).bind fun s =>
      .ok (s.setStream k { st with egress := st.egress ++ [⟨x, o.g.toNat, o.a.setWidth 32, false⟩] }, o.g)

/-- One accumulator row as SCKP writes it (R230). -/
def accRowBytes (q : Seat) (row : Nat) : List Byte := (List.range 128).flatMap fun n => leBytes 4 (readAcc q.acc row n)

def ckptGo (who : Accessor) (core : Nat) (q : Seat) (o : SObj) (k : Nat) : List Nat → State → Area State
  | [], s => .ok s
  | r :: rest, s =>
    (s.areaPut who [core] (o.ckbase + BitVec.ofNat 64 (8192 * k + 512 * r)) (accRowBytes q (o.ckacc + r))).bind
      (ckptGo who core q o k rest)

/-- SCKP (R230). -/
def sckp (s : State) (who : Accessor) (core k : Nat) (st : Stream) (o : SObj) (q : Seat) (tag : Word) : SRes :=
  (ckptGo who core q o st.nextSlot (List.range (o.cknm1 + 1)) s).bind fun s =>
    let slots := (st.slots.filter fun x => x.1 ≠ st.nextSlot) ++ [(st.nextSlot, tag, st.slotSeq)]
    .ok (s.setStream k { st with slots := slots, nextSlot := (st.nextSlot + 1) % 16, slotSeq := st.slotSeq + 1 },
      BitVec.ofNat 64 st.nextSlot)

/-- The cursors that SCUR writes (R231). -/
def scurValue (o : SObj) (code : Nat) : Word :=
  match code with
  | 0 => o.g | 1 => o.p | 2 => o.a | 3 => o.b | 4 => o.mediaOf o.g | 5 => o.mediaOf o.p | _ => o.late.setWidth 64

/-- SRECV (R233): the oldest descriptor to the address translated at issue; LATEF and BARGE are bits 97 and 96. -/
def srecv (s : State) (who : Accessor) (core k : Nat) (st : Stream) (o : SObj) (dst : Hit) : Area (State × Word × Bool × Word) :=
  if st.inCount = 0 then .ok (s, -1, false, 0)
  else
    (s.areaGet who (o.inbase + BitVec.ofNat 64 (32 * (st.inHead % o.inn))) 32).bind fun (d, s) =>
      let v := leNat d
      let late := v.testBit 97
      let s := (s.invalCleanLine core who.cin dst.pa).homeWrite dst d
      .ok (s.setStream k { st with inHead := (st.inHead + 1) % o.inn, inCount := st.inCount - 1 },
        if late then 2 else if v.testBit 96 then 1 else 0, late, BitVec.ofNat 64 (bits v 0 64))

/-- An address translates to an MT 1 page of a context. -/
def State.inFleet (s : State) (ctx : Nat) (va : Word) : Bool :=
  decide (va.toNat / 2 ^ 58 = 0) && match s.walk ctx va.toNat with | .ok l => pteMt l.word == 1 | .error _ => false

/-- The tiles under bytes va to va + len − 1 that lie in MT 1 pages of the context: none where va itself does not (R235). -/
def State.tilesUnder (s : State) (ctx : Nat) (va : Word) (len : Nat) : List Nat :=
  if len = 0 || !s.inFleet ctx va then []
  else
    (List.range ((va.toNat % 2048 + len - 1) / 2048 + 1)).filterMap fun i =>
      let a := va.toNat / 2048 * 2048 + 2048 * i
      if a / 2 ^ 58 ≠ 0 then none
      else match s.walk ctx a with
        | .ok l => if pteMt l.word = 1 then some (tileOf (ptePa l.word + a % l.size)) else none
        | .error _ => none

/-- The key/value map after a truncation to b, entry by entry (R235): entries to rewrite, and tiles that expire. -/
def kvGo (who : Accessor) (core : Nat) (ctx : Nat) (o : SObj) : List Nat → State → Area State
  | [], s => .ok s
  | j :: rest, s =>
    let at_ := o.kvbase + BitVec.ofNat 64 (32 * j)
    (s.areaGet who at_ 32).bind fun (l, s) =>
      let v := leNat l
      let start := bits v 0 64
      let end_ := bits v 64 64
      if bits v 224 1 = 0 then kvGo who core ctx o rest s
      else if o.b.toNat ≤ start then
        (s.areaPut who [core] (at_ + 28) (leBytes 4 (bits v 224 32 - 1))).bind fun s =>
          let s := (s.tilesUnder ctx (BitVec.ofNat 64 (bits v 128 64)) (bits v 192 32)).foldl (·.expire) s
          kvGo who core ctx o rest s
      else if o.b.toNat < end_ then
        (s.areaPut who [core] (at_ + 8) (leBytes 8 o.b.toNat)).bind (kvGo who core ctx o rest)
      else kvGo who core ctx o rest s

/-- The greatest valid tag not above b; among equal tags the slot written last (R235). -/
def bestSlot (b : Nat) (l : List (Nat × Word × Nat)) : Option (Nat × Word × Nat) :=
  (l.filter fun x => decide (x.2.1.toNat ≤ b)).foldl (fun best x =>
    match best with
    | none => some x
    | some y =>
      if y.2.1.toNat < x.2.1.toNat ∨ (y.2.1 = x.2.1 ∧ y.2.2 < x.2.2) then some x else some y) none

/-- STRUNC (R235). -/
def strunc (s : State) (who : Accessor) (core ctx k : Nat) (st : Stream) (o : SObj) : SRes :=
  if o.noBarge then .ok (s, -1)
  else
    let b := o.b.toNat
    (((kvGo who core ctx o (List.range o.kvn) s).bind fun s => s.areaPut who [core] st.obj (leBytes 8 b)).bind fun s =>
      s.areaPut who [core] (st.obj + 24) (leBytes 8 (2 ^ 64 - 1))).bind fun s =>
      let gone := st.egress.filter fun e => decide (b ≤ e.pos)
      let best := bestSlot b st.slots
      let st := { st with egress := st.egress.filter fun e => decide (e.pos < b)
                          cancels := st.cancels ++ (gone.filter (·.sent)).map (·.pos)
                          slots := st.slots.filter fun x => decide (x.2.1.toNat ≤ b) }
      .ok (s.setStream k st,
        match best with
        | some x => BitVec.ofNat 64 (x.1 * 2 ^ 32 + x.2.1.toNat % 2 ^ 32)
        | none => -2)

/-- The engine fields as creation sets them (R225); while the object's page migrates the writes are held (R162). -/
def State.initFields (s : State) (who : Accessor) (st : Stream) : State :=
  (s.putLater who [] st.obj (List.replicate 24 0 ++ leBytes 8 (2 ^ 64 - 1) ++ [0, 0, 0, 0])).putLater who [] (st.obj + 52)
    [0, 0, 0, 0]

/-- The reset of a stream has not reached its object, whose page migrates: the engine performs no command of the stream before
(R162, R237). -/
def State.resetHeld (s : State) (ctx : Nat) (st : Stream) : Bool :=
  s.migs.any fun m => m.ctx == ctx && m.va.toNat / 16384 == st.obj.toNat / 16384
    && m.held.any fun x => decide (st.obj.toNat % 16384 ≤ x.2.1) && decide (x.2.1 < st.obj.toNat % 16384 + 96)

/-- A command of the S queue reaches the engine (R224, R394, R395): the handle, then the effect. -/
def State.runStream (s : State) (key : Nat) (c : Cap) : Perf :=
  match s.seat key with
  | none => .done s
  | some q =>
    let k := streamKey q.ctx (c.x.toNat % 256)
    -- the stream engine is on the I/O die
    let who := { q.engine key with die := 4 }
    let core := coreOf (q.place key)
    match (if c.x.toNat < 256 then mapFind s.streams k else none) with
    | none => .stop s (streamTrap 1 0 c.pc) c
    | some st =>
      if s.resetHeld q.ctx st then .wait
      else
      match s.sobj who st with
      | .error _ => .stop s (streamTrap 3 0 c.pc) c
      | .ok (o, s') =>
        let fin := fun (d : Reg) (r : SRes) => match r with
          | .fault => Perf.stop s (streamTrap 3 0 c.pc) c
          | .wait => .wait
          | .ok (s, w) => .done (s.writeReg key d w)
        match c.cmd with
        | .sapp d => fin d (sapp s' who core k st o c.y)
        | .sckp d =>
          if q.rows ≤ o.ckacc + o.cknm1 then
            .stop (s.setSeat key { q with sr := { q.sr with eshElem := 0, eshPart := false, eshEnt := 0 } })
              ⟨codeShape, 0, 0, c.pc⟩ c
          else fin d (sckp s' who core k st o q c.y)
        | .scur d code => .done (s'.writeReg key d (scurValue o code))
        | .scurArm d =>
          let s := s'.setStream k { st with watcher := some (q.launch, q.node) }
          let s := s.mapSeat key fun q =>
            let q := q.clearTag o.tag
            if o.noBarge then q else q.raiseTag o.tag
          .done (s.writeReg key d o.b)
        | .srecv d =>
          match c.hit with
          | none => .done s
          | some h =>
            match srecv s' who core k st o h with
            | .fault => .stop s (streamTrap 3 0 c.pc) c
            | .wait => .wait
            | .ok (s, w, late, media) =>
              let s := (s.writeReg key d w).invalClean core q.cin
              if late && o.ltrap then .trap s (streamTrap 2 media c.pc) else .done s
        | .strunc d =>
          match strunc s' who core q.ctx k st o with
          | .fault => .stop s (streamTrap 3 0 c.pc) c
          | .wait => .wait
          | .ok (s, w) =>
            let s := s.writeReg key d w
            .done (if w = -1 then s else s.invalClean core q.cin)
        | _ => .done s

/-! ### The network's events -/

/-- The stream engine's own accessor for a context: it is on the I/O die. -/
def streamWho (ctx : Nat) (x : Ctx) : Accessor := ⟨ctx, cinOf ctx x.inc, !x.firmware, none, 4⟩

/-- A pending barge that a frame brings (R232): B := P, and the watcher's tag is raised. -/
def State.bargeIn (s : State) (who : Accessor) (st : Stream) (o : SObj) : Area State :=
  (s.areaPut who [] (st.obj + 24) (leBytes 8 o.p.toNat)).bind fun s =>
    .ok (match st.watcher with
      | some (launch, node) => s.mapNodeSeat who.ctx launch node (·.raiseTag o.tag)
      | none => s)

/-- A frame arrives at a stream (R232). -/
def State.frameIn (s : State) (ctx handle : Nat) (x : Ctx) (st : Stream) (media payload : Word) (len : BitVec 32)
    (barge : Bool) : Area State :=
  let who := streamWho ctx x
  let k := streamKey ctx handle
  match s.sobj who st with
  | .error _ => .fault
  | .ok (o, s) =>
    if o.inn ≤ st.inCount then s.areaPut who [] (st.obj + 52) (leBytes 4 (o.dropin + 1).toNat)
    else
      let late := decide (media.toNat < (o.mediaOf o.p).toNat)
      let idx : Nat := if late then 0xFFFFFFFF else o.a.toNat % 2 ^ 32
      let flags := (if barge then 1 else 0) + (if late then 2 else 0)
      let desc := leBytes 8 media.toNat ++ leBytes 4 len.toNat ++ leBytes 4 flags ++ leBytes 8 payload.toNat
        ++ leBytes 4 o.g.toNat ++ leBytes 4 idx
      (s.areaPut who [] (o.inbase + BitVec.ofNat 64 (32 * ((st.inHead + st.inCount) % o.inn))) desc).bind fun s =>
        let s := s.setStream k { st with inCount := st.inCount + 1 }
        if late then s.areaPut who [] (st.obj + 32) (leBytes 4 (o.late + 1).toNat)
        else
          (s.areaPut who [] (st.obj + 16) (leBytes 8 (o.a + 1).toNat)).bind fun s =>
            if barge && o.noBarge then s.bargeIn who st o else .ok s

/-- The acknowledgement of position q (R226), and the removal of entries that P has passed (R229). One that the object does
not admit changes nothing; `none` while the object's page migrates (R162). -/
def State.ackIn (s : State) (ctx handle : Nat) (x : Ctx) (st : Stream) (q : Word) : Option State :=
  let who := streamWho ctx x
  match s.sobj who st with
  | .error _ => some s
  | .ok (o, s') =>
    let sent := st.egress.any fun e => e.pos = q.toNat && e.sent
    if o.p.toNat ≤ q.toNat ∧ q.toNat < o.g.toNat ∧ sent ∧ (o.noBarge ∨ q.toNat < o.b.toNat) then
      match s'.areaPut who [] (st.obj + 8) (leBytes 8 (q + 1).toNat) with
      | .wait => none
      | .fault => some s
      | .ok s =>
        let gone := (st.egress.filter fun e => decide (e.pos ≤ q.toNat)).length
        some (s.setStream (streamKey ctx handle)
          { st with egress := st.egress.drop gone, egHead := if o.egn = 0 then 0 else (st.egHead + gone) % o.egn })
    else some s'

/-- The egress engine sends an entry: the first of the ring that is unsent and not held back. -/
def sendFirst (may : Egress → Bool) : List Egress → Option (Egress × List Egress)
  | [] => none
  | e :: rest => if may e then some (e, { e with sent := true } :: rest) else (sendFirst may rest).map fun x => (x.1, e :: x.2)

/-- The egress engine sends one item of what it holds (R229, R235): a cancel marker, or with none the next entry in position
order, none at or beyond a pending barge (R232). -/
def State.egressOut (s : State) (ctx handle : Nat) (x : Ctx) (st : Stream) : Option State :=
  match s.sobj (streamWho ctx x) st with
  | .error _ => none
  | .ok (o, s) =>
    match st.cancels with
    | p :: rest =>
      some { s.setStream (streamKey ctx handle) { st with cancels := rest } with out := .cancel ctx handle p :: s.out }
    | [] =>
      (sendFirst (fun e => !e.sent && (o.noBarge || decide (e.pos < o.b.toNat))) st.egress).map fun y =>
        { s.setStream (streamKey ctx handle) { st with egress := y.2 } with
          out := .sample ctx handle y.1.pos y.1.value y.1.asen :: s.out }

/-- The reset of a stream (R237): as at creation, with a cancel marker for every sent entry at or beyond P. -/
def State.resetStream (s : State) (ctx handle : Nat) (x : Ctx) (st : Stream) : State :=
  let who := streamWho ctx x
  let p := match s.sobj who st with | .ok (o, _) => o.p.toNat | .error _ => 0
  let marks := (st.egress.filter fun e => e.sent && decide (p ≤ e.pos)).map (·.pos)
  (s.setStream (streamKey ctx handle)
    { st with egress := [], inHead := 0, inCount := 0, egHead := 0, nextSlot := 0, slots := [], slotSeq := 0
              watcher := none, cancels := st.cancels ++ marks }).initFields who st

end Sys2Proof.Machine
end

