-- ==== Sys2Proof/Machine/CollRun.lean ====
section
/-!
DEFINITION. Sys2Proof/Machine/CollRun.lean: the fabric engine's collectives (R305, R358 to R365): joining a package's part,
starting it, what arrives from the other packages, and its completion.
-/
namespace Sys2Proof.Machine

/-- The descriptor in its 64 bytes (Table 18.3). -/
def collDescOf (l : List Byte) : CollDesc :=
  let v := leNat l
  { src := BitVec.ofNat 64 (bits v 0 64), dst := BitVec.ofNat 64 (bits v 64 64), len := bits v 128 64
    mcg := bits v 192 16, npkgm1 := bits v 208 8, rank := bits v 216 8, root := bits v 224 8, tag := bits v 232 6
    fmt := bits v 238 5, op := bits v 243 3, collid := BitVec.ofNat 64 (bits v 256 64), nred := v.testBit 320 }

/-- The element format of a GRED (Table 18.3). -/
def gredFmt (code : Nat) : Option Fmt :=
  match code with
  | 0 => some .fp32 | 1 => some .bf16 | 2 => some .fp16 | 6 => some .int32 | _ => none

/-- The checks of R359 on a descriptor of a GCAST or a GRED. `nred` is the bit a GROUPX command requires to be 0. -/
def collBad (l : List Byte) (red nred : Bool) : Bool :=
  let v := leNat l
  let d := collDescOf l
  decide (bits v 246 10 ≠ 0) || decide (bits v 321 127 ≠ 0) || (d.nred != nred)
    || decide (d.tag = 63) || decide (143 < d.npkgm1) || decide (d.npkgm1 < d.rank)
    || (decide (d.npkgm1 < d.root) && !(red && d.root == 255))
    || (if red then
          decide (2 < d.op) || (match gredFmt d.fmt with
            | none => true
            | some f => decide (d.src.toNat % (f.width / 8) ≠ 0) || decide (d.dst.toNat % (f.width / 8) ≠ 0))
        else
          decide (d.op ≠ 0) || decide (d.fmt ≠ 0) || decide (d.len % 64 ≠ 0) || decide (d.src.toNat % 64 ≠ 0)
            || decide (d.dst.toNat % 64 ≠ 0))

/-- Two members describe one collective (R360): everything but the tag agrees. -/
def CollDesc.agrees (a b : CollDesc) : Bool := { a with tag := 0, nred := false } == { b with tag := 0, nred := false }

/-- The node of a COLLECTIVE part: it has no group (R365). -/
def CollPart.nodeAddr (p : CollPart) : Word := match p.members with | m :: _ => m.1 | [] => 0

/-- The same part: of one group of one launch, or of one COLLECTIVE node (R360, R365). -/
def CollPart.same (a b : CollPart) : Bool :=
  a.ctx == b.ctx && a.launch == b.launch && a.group == b.group && a.desc.collid == b.desc.collid
    && (a.group.isSome || a.nodeAddr == b.nodeAddr)

def State.mapColl (s : State) (p : CollPart) (f : CollPart → CollPart) : State :=
  { s with colls := s.colls.map fun x => if x.same p then f x else x }

/-- The part that the members of a group perform under an identifier (R360). -/
def State.coll (s : State) (ctx launch group : Nat) (collid : Word) : Option CollPart :=
  s.colls.find? fun p => p.ctx == ctx && p.launch == launch && p.group == some group && p.desc.collid == collid

/-- A launch's node has a collective under way (R201: its next X-queue command waits). -/
def State.inColl (s : State) (ctx launch : Nat) (node : Word) : Bool :=
  s.colls.any fun p => p.ctx == ctx && p.launch == launch && p.members.any (·.1 == node)

/-- A GROUPX command joins its group's part (R360). -/
def State.joinColl (s : State) (key : Nat) (d : CollDesc) (red : Bool) (group : Nat) (desc : Word) : Perf :=
  match s.seat key with
  | none => .done s
  | some q =>
    if s.inColl q.ctx q.launch q.node then .wait
    else
      let m := (q.node, desc, d, red)
      match s.coll q.ctx q.launch group d.collid with
      | none =>
        .done { s with colls := s.colls ++ [⟨q.ctx, d, red, q.launch, some group, [m], false, 0, [], 0, none, 0⟩] }
      | some p =>
        if p.started then .wait
        else .done (s.mapColl p fun p => { p with members := p.members ++ [m] })

/-- A member that joined has failed since: the part waits for it no more (R360). -/
def State.collGone (s : State) (p : CollPart) (node : Word) : Bool :=
  match s.launch p.ctx p.launch with
  | some l => l.nodes.any fun n => n.addr == node && (n.state == .failed || n.state == .discarded)
  | none => false

/-- Every unfinished member of the part is running: the part goes on (R360, R364). A COLLECTIVE node is stopped by no pre-emption
(R365). -/
def State.collRunning (s : State) (p : CollPart) : Bool :=
  p.group.isNone || p.members.all fun m => s.collGone p m.1 || s.seats.any fun x =>
    x.2.ctx == p.ctx && x.2.launch == p.launch && x.2.node == m.1 && x.2.stopping.isNone

/-- The cores on which members of a part run: an engine's write invalidates their clean bytes (R216). -/
def State.collCores (s : State) (p : CollPart) : List Nat :=
  (s.seats.filter fun x => x.2.ctx == p.ctx && x.2.launch == p.launch && p.members.any (·.1 == x.2.node)).map fun x => coreOf x.1

/-- The fabric engine's accessor for a context. -/
def State.collWho (s : State) (ctx : Nat) : Accessor :=
  match s.ctx ctx with
  | some x => streamWho ctx x
  | none => ⟨ctx, cinOf ctx 0, true, none, 4⟩

def chunkBytes : Nat := 65536

/-- The root's chunk i (R361): it is read, sent, and written at DST unless DST is SRC; with the fault that it meets. `none`
while a page migrates. -/
def castChunk (who : Accessor) (cores : List Nat) (vi : Nat) (d : CollDesc) (i : Nat) (s : State) : Option (State × Option EFault) :=
  let off := i * chunkBytes
  let n := min chunkBytes (d.len - off)
  match s.engineGet who (n + 1) (d.src + BitVec.ofNat 64 off) n with
  | .error f => some (s, some f)
  | .ok (l, _, s) =>
    let s := if d.npkgm1 = 0 then s else { s with out := .multicast vi d.mcg (i % 24) off l :: s.out }
    if d.dst = d.src then some (s, none)
    else
      match s.enginePut who cores (n + 1) (d.dst + BitVec.ofNat 64 off) l with
      | .ok s => some (s, none)
      | .error none => none
      | .error (some f) => some (s, some f)

/-- The VI of a part's context. -/
def State.collVi (s : State) (p : CollPart) : Nat := match s.ctx p.ctx with | some x => x.vi | none => 0

/-- The root's chunks of a part. -/
def CollPart.chunks (p : CollPart) : Nat := ceilDiv p.desc.len chunkBytes

/-- The next chunk of a started GCAST at its root, while every member runs (R361, R364): the chunks before a fault have been
sent and written (R363). -/
def State.castStep (s : State) (p : CollPart) : Option State :=
  if p.started && !p.red && p.desc.rank == p.desc.root && p.fault.isNone && decide (p.next < p.chunks) && s.collRunning p then
    (castChunk (s.collWho p.ctx) (s.collCores p) (s.collVi p) p.desc p.next s).map fun (s, f) =>
      s.mapColl p fun p => match f with
        | none => { p with next := p.next + 1 }
        | some f => { p with fault := some (f.f.code, f.f.detail, p.next), va := f.va }
  else none

/-- Members of the part's group that have neither finished nor failed nor issued (R360). -/
def State.collMissing (s : State) (p : CollPart) : Bool :=
  match p.group with
  | none => false
  | some g =>
    match s.launch p.ctx p.launch with
    | none => false
    | some l =>
      l.nodes.any fun n =>
        n.gslots.toList.any (fun x => x.map (·.toNat) == some g) && n.state != .finished && n.state != .failed
          && n.state != .discarded && !p.members.any (·.1 == n.addr)

/-- The members' descriptions differ (R360). -/
def CollPart.mismatched (p : CollPart) : Bool :=
  p.members.any fun m => !(m.2.2.1.agrees p.desc && m.2.2.2 == p.red)

/-- RESULT of a part (Table 18.3). -/
def CollPart.result (p : CollPart) (done : Nat) : Nat :=
  match p.fault with
  | some (c, d, _) => c.toNat * 2 ^ 56 + d.toNat * 2 ^ 48 + done % 2 ^ 32
  | none => done % 2 ^ 32

/-- A COLLECTIVE node's part has ended (R365): the node finishes, or fails with RESULT's CAUSE and, as EVAL, the address that
faulted (R242, Table 11.3). EPC of a node that has no seat is a free value. -/
def State.endCollNode (s : State) (p : CollPart) (node : Word) : State :=
  match p.fault with
  | none => s.mapNode p.ctx p.launch node fun n => { n with state := .finishing }
  | some (c, d, _) =>
    let f : Failure := ⟨node, d ++ c, Config.freeWord s.freeN, p.va⟩
    let s := s.mapNode p.ctx p.launch node fun n => { n with state := .failed }
    { s.mapLaunch p.ctx p.launch fun l => { l with failures := l.failures ++ [f] } with freeN := s.freeN + 1 }

/-- RESULT in each member's descriptor; `none` while a page of one migrates (R162). -/
def putResults (who : Accessor) (cores : List Nat) (bytes : List Byte) : List Word → State → Option State
  | [], s => some s
  | a :: rest, s =>
    match s.enginePut who cores 2 (a + 56) bytes with
    | .ok s => putResults who cores bytes rest s
    | .error none => none
    | .error (some _) => putResults who cores bytes rest s

/-- The part ends (R363): RESULT in each member's descriptor, then each member's tag; or the end of its node (R365). -/
def State.endColl (s : State) (p : CollPart) (done : Nat) : Option State :=
  (putResults (s.collWho p.ctx) (s.collCores p) (leBytes 8 (p.result done)) (p.members.map (·.2.1)) s).map fun s =>
    let s := p.members.foldl (fun s m =>
      if p.group.isSome then s.mapNodeSeat p.ctx p.launch m.1 (·.setTag m.2.2.1.tag p.fault.isSome)
      else s.endCollNode p m.1) s
    { s with colls := s.colls.filter fun x => !x.same p }

/-- The elements of a GRED's own contribution in order, and the first whose read faults: those before it are contributed
(R363). -/
def ownPart (who : Accessor) (d : CollDesc) (e : Nat) : Nat → Nat → State → List Byte × Option (Nat × EFault) × State
  | 0, _, s => ([], none, s)
  | n + 1, i, s =>
    match s.engineGet who 2 (d.src + BitVec.ofNat 64 (e * i)) e with
    | .error f => ([], some (i, f), s)
    | .ok (l, _, s) =>
      let (t, f, s) := ownPart who d e n (i + 1) s
      (l ++ t, f, s)

/-- The part of a collective starts (R360 to R362): `none` while a member is missing or stopped, or a page is migrating. A
mismatch ends it at once. The root of a GCAST sends its first chunk. -/
def State.startColl (s : State) (p : CollPart) : Option State :=
  if p.started || s.collMissing p || !s.collRunning p then none
  else if p.mismatched then s.endColl { p with fault := some (codeIllop, 1, 0) } 0
  else
    let d := p.desc
    if p.red then
      match gredFmt d.fmt with
      | none => none
      | some fmt =>
        let (l, f, s) := ownPart (s.collWho p.ctx) d (fmt.width / 8) d.len 0 s
        let s := if d.npkgm1 = 0 || l.isEmpty then s else { s with out := .multicast (s.collVi p) d.mcg 0 0 l :: s.out }
        some (s.mapColl p fun p => { p with started := true, got := p.got ++ [(d.rank, 0, l)]
                                            fault := f.map fun x => (x.2.f.code, x.2.f.detail, x.1)
                                            va := match f with | some x => x.2.va | none => p.va })
    else if d.rank = d.root ∧ 0 < p.chunks then
      let p' := { p with started := true, acks := p.chunks * d.npkgm1 }
      (s.mapColl p fun _ => p').castStep p'
    else some (s.mapColl p fun p => { p with started := true })

/-- A received chunk is written at DST; a contribution is kept until all have arrived (R361, R362). A write that faults stops the
part at its chunk: the chunks before it are still written, and no other (R363). -/
def State.collArrive (s : State) (p : CollPart) (rank offset : Nat) (bs : List Byte) : Option State :=
  let d := p.desc
  let upd := fun (s : State) (f : CollPart → CollPart) => s.mapColl p f
  let behind := match p.fault with | some (_, _, i) => decide (i * chunkBytes ≤ offset) | none => false
  if !p.started || (!p.red && (behind || !s.collRunning p)) then none
  else if p.got.any fun x => x.1 = rank && x.2.1 = offset then none
  else if p.red then some (upd s fun p => { p with got := p.got ++ [(rank, offset, bs)] })
  else
    match s.enginePut (s.collWho p.ctx) (s.collCores p) (bs.length + 1) (d.dst + BitVec.ofNat 64 offset) bs with
    | .ok s => some (upd s fun p => { p with got := p.got ++ [(rank, offset, bs)] })
    | .error none => none
    | .error (some f) => some (upd s fun p => { p with fault := some (f.f.code, f.f.detail, offset / chunkBytes), va := f.va })

/-- Every byte of chunk k that the part receives has been written here. -/
def CollPart.chunkHere (p : CollPart) (k : Nat) : Bool :=
  decide (min chunkBytes (p.desc.len - k * chunkBytes)
    ≤ ((p.got.filter fun x => decide (x.2.1 / chunkBytes = k)).map (·.2.2.length)).foldl (· + ·) 0)

/-- DONE of a GCAST that receives: the chunks completed at this package (Table 18.3). -/
def CollPart.chunksHere (p : CollPart) : Nat := ((List.range p.chunks).filter p.chunkHere).length

/-- Bytes of a rank's contribution, from the pieces that have arrived. -/
def CollPart.contribution (p : CollPart) (rank n : Nat) : Option (List Byte) :=
  let pieces := p.got.filter (·.1 = rank)
  if n ≤ (pieces.map (·.2.2.length)).foldl (· + ·) 0 then
    some ((List.range n).map fun i =>
      match pieces.find? fun x => decide (x.2.1 ≤ i) && decide (i < x.2.1 + x.2.2.length) with
      | some x => nth 0 x.2.2 (i - x.2.1)
      | none => 0)
  else none

/-- The reduced elements written at DST, from element e on: how many, and the fault that ended them (R362, R363). -/
def redWrite (who : Accessor) (cores : List Nat) (d : CollDesc) (n : Nat) :
    List (Nat × Nat) → State → Option (Nat × Option EFault × State)
  | [], s => some (0, none, s)
  | (e, v) :: rest, s =>
    match s.enginePut who cores 3 (d.dst + BitVec.ofNat 64 (n * e)) (leBytes n v) with
    | .error none => none
    | .error (some f) => some (0, some f, s)
    | .ok s =>
      match redWrite who cores d n rest s with
      | none => none
      | some (k, f, s) => some (k + 1, f, s)

/-- The elements that a GRED reduces: all of them, or those before the one of its own contribution that faulted (R363). -/
def CollPart.reducible (p : CollPart) : Nat := match p.fault with | some (_, _, i) => i | none => p.desc.len

/-- The reduced elements, once every rank's contribution to them has arrived (R105, R362). -/
def CollPart.reduced (p : CollPart) (fmt : Fmt) : Option (List (Nat × Nat)) :=
  let d := p.desc
  let n := fmt.width / 8
  let m := p.reducible
  ((List.range (d.npkgm1 + 1)).mapM fun r => p.contribution r (m * n)).map fun parts =>
    let fn : RedFn := match d.op with | 0 => .sum | 1 => .max | _ => .min
    (List.range m).map fun e =>
      (e, ((reduceAll fn ⟨.rne, 0, false⟩ fmt (d.npkgm1 + 1) fun r =>
        if r ≤ d.npkgm1 then some (fmt, leNat (((nth [] parts r).drop (e * n)).take n)) else none).1).getD 0)

/-- The part completes once everything it waits for is there, while its members run (R361 to R364); `none` before. -/
def State.finishColl (s : State) (p : CollPart) : Option State :=
  let d := p.desc
  if !p.started || !s.collRunning p then none
  else if p.red then
    match gredFmt d.fmt with
    | none => none
    | some fmt =>
      match p.reduced fmt with
      | none => none
      | some vals =>
        if d.root ≠ 255 ∧ d.root ≠ d.rank then s.endColl p p.reducible
        else
          match redWrite (s.collWho p.ctx) (s.collCores p) d (fmt.width / 8) vals s with
          | none => none
          | some (k, none, s) => s.endColl p k
          | some (k, some f, s) => s.endColl { p with fault := some (f.f.code, f.f.detail, k), va := f.va } k
  else
    match p.fault with
    | some (_, _, i) =>
      if d.rank = d.root then s.endColl p i
      else if (List.range i).all p.chunkHere then s.endColl p p.chunksHere else none
    | none =>
      if d.rank = d.root then if p.chunks ≤ p.next ∧ p.acks = 0 then s.endColl p p.chunks else none
      else if d.len ≤ (p.got.map (·.2.2.length)).foldl (· + ·) 0 then s.endColl p p.chunks else none

end Sys2Proof.Machine
end

