-- ==== Sys2Proof/Machine/Perform.lean ====
section
/-!
DEFINITION. Sys2Proof/Machine/Perform.lean: performing the commands that wait in a seat's queues: which command may be
performed before which (R73, R200, R201, R209 to R212, R236), one command's effect, and what a fault of it does to the
seat: a late trap with its set-aside commands (R245, R246, R80, R128), or a page its host supplies (R248).
-/
namespace Sys2Proof.Machine

/-! ### What a command touches -/

/-- The scalar register a command writes when it is performed. -/
def Cmd.dest : Cmd → Option Reg
  | .load d _ _ | .atomic _ d _ _ _ | .frnw d | .flife d | .acq d _ | .extr d | .mask .pop _ _ _ d | .mask .first _ _ _ d
  | .sapp d | .sckp d | .scur d _ | .scurArm d | .srecv d | .strunc d => if d = 0 then none else some d
  | _ => none

/-- The mask register a command writes. -/
def Cmd.destMask : Cmd → Option MaskNo
  | .vcmp _ md => some md
  | .vload _ _ => some 0
  | .mask fn md _ _ _ => if fn = .pop ∨ fn = .first then none else some md
  | .cpix md _ => if md = 0 then none else some md
  | _ => none

/-- Mask registers that a command of the mask group reads. -/
def Cmd.readsMask (c : Cmd) (m : MaskNo) : Bool :=
  match c with
  | .mask .setn _ _ _ _ => false
  | .mask .pop _ a _ _ | .mask .first _ a _ _ | .mask .not _ a _ _ => a == m
  | .mask _ _ a b _ => a == m || b == m
  | _ => false

/-- Shapes whose cells a command writes, and those whose cells it reads. -/
def Cap.writes (c : Cap) : List Shape :=
  match c.cmd with
  | .vstore _ _ | .append | .extr _ | .vcmp _ _ | .mmr _ | .mmt _ | .accwr _ | .ldstp => []
  | .nmsel | .qnt => c.d.toList ++ c.b.toList
  | _ => c.d.toList
def Cap.reads (c : Cap) : List Shape :=
  c.d.toList ++ c.a.toList ++ c.b.toList ++ c.mxsa.toList ++ (c.chain.map (·.shape)).toList

/-- Two commands share a cell that one of them writes (R73). -/
def Cap.cellsMeet (e l : Cap) : Bool :=
  shapesMeet e.writes (l.writes ++ l.reads) || shapesMeet e.reads l.writes

/-- Memory commands of the V queue (R209), and those of the P queue. -/
def Cap.vMem (c : Cap) : Bool :=
  match c.cmd with | .vload _ _ | .vstore _ _ | .append => true | _ => false
def Cap.pMem (c : Cap) : Bool :=
  match c.cmd with | .fence _ | .qfence _ => false | _ => c.queue == .p

/-- Earlier commands a FENCE covers, and later ones it holds (Table 9.4, R176). -/
def FenceKind.before (k : FenceKind) (c : Cap) : Bool :=
  match k with
  | .sv => (match c.cmd with | .store _ | .atomic _ _ _ _ _ | .finit | .frnw _ | .pub _ => true | _ => false)
  | .vs => c.vMem
  | .all => c.pMem || c.vMem
  | .scoped sc => c.pMem || c.vMem || (sc == 4 && c.queue == .x)
def FenceKind.after (k : FenceKind) (c : Cap) : Bool :=
  match k with
  | .sv => c.vMem
  | .vs => c.pMem
  | .all | .scoped _ => c.pMem || c.vMem

/-- The queue's bit in a QFENCE mask (Table 9.1). -/
def Queue.bit : Queue → Nat
  | .p => 0 | .v => 1 | .m => 2 | .c ch => 3 + ch | .x => 7 | .s => 8

/-- Commands that wait for the acknowledgements of earlier X-queue commands (R211, R215, R354). -/
def Cap.sysScope (c : Cap) : Bool :=
  match c.cmd with
  | .pub sc => sc == 4
  | .fence (.scoped sc) => sc == 4
  | .atomic _ _ _ _ sys => sys
  | _ => false

/-- An earlier command e holds a later command l back until it has been performed. A QFENCE waits for no other one: it waits
for commands of the queues it names, and those for an earlier QFENCE that names theirs (R210, R388). -/
def blocks (e l : Cap) : Bool :=
  match e.cmd, l.cmd with
  | .fence _, .fence _ => true
  | .qfence _, .qfence _ => false
  | .fence _, .qfence _ => false
  | .qfence _, .fence _ => false
  | .fence k, _ => k.after l
  | _, .fence k => k.before e
  | .qfence m, _ => m.getLsbD l.queue.bit
  | _, .qfence m => m.getLsbD e.queue.bit
  | _, _ =>
    e.queue == l.queue || e.cellsMeet l
      || (match l.cmd with | .pub _ => e.vMem | _ => false)
      || (match e.cmd with | .acq _ _ => l.vMem | _ => false)
      || (match e.cmd with | .srecv _ | .strunc _ => l.pMem || l.vMem | _ => false)
      || (l.sysScope && e.queue == .x)
      || (match l.cmd with | .sckp _ => e.queue == .m | _ => false)
      || (match e.cmd with | .sckp _ => l.queue == .m | _ => false)

/-- A copy is active on a channel, other than a PREFETCH (R210). -/
def Seat.copying (q : Seat) (ch : Nat) : Bool :=
  match q.transfer ch with
  | some (a, _) => (match a.cap.cmd with | .prefetch _ => false | _ => true)
  | none => false

/-- A virtual processor has not exited yet (R45, R51). -/
def Seat.forked (q : Seat) : Bool := match q.fork with | some f => !f.vps.isEmpty | none => false

/-- P and V memory commands are outstanding (R209). -/
def Seat.memBusy (q : Seat) : Bool := q.pend.any fun c => c.pMem || c.vMem

/-- What a command waits for beside earlier queued ones: gathers in the background, active copies and collectives, and
the page its seat is parked on. -/
def State.engineHolds (s : State) (q : Seat) (c : Cap) : Bool :=
  q.gathers.any (fun g => shapesMeet g.cap.d.toList (c.writes ++ c.reads))
    || (c.sysScope && s.inColl q.ctx q.launch q.node)
    || (match c.cmd with
        | .qfence m => (List.range 4).any (fun ch => m.getLsbD (3 + ch) && q.copying ch) || (m.getLsbD 7 && s.inColl q.ctx q.launch q.node)
          -- a fork that was outstanding when it issued (R388)
          || (c.n == 1 && q.forked)
        | _ => false)
    || (match q.park with | some p => p.late && c.pc == p.epc | none => false)

/-- The stage of a bypass chain that is still open: it is performed with the chain's end (R83, R116). -/
def Seat.stageOpen (q : Seat) (i : Nat) (c : Cap) : Bool :=
  c.isStage && q.byp.isSome && !(q.pend.drop (i + 1)).any Cap.isStage

/-- The command at a position of the queues, if nothing holds it back. -/
def State.freeAt (s : State) (q : Seat) (i : Nat) : Option Cap :=
  match q.pend[i]? with
  | none => none
  | some c => if (q.pend.take i).any (fun e => blocks e c) || s.engineHolds q c || q.stageOpen i c then none else some c

/-- A V-queue command hands its addresses and data to the memory path (R202), behind the earlier ones of the queue and once the
cells and masks it reads are written. A vector load or store makes its translation pass, and keeps it where no fault ended it
(R244); VAPPEND and CPIX, whose addresses come with their performing, hand over then. When a command hands over is otherwise the
model's choice: where the thread needs the room, or as the agenda says, DESIGN CHOICE (assumption 77). -/
def State.hand (s : State) (key i : Nat) : Option State :=
  match s.seat key with
  | none => none
  | some q =>
    match q.pend[i]? with
    | none => none
    | some c =>
      let waits := fun (e : Cap) => (e.queue == .v && e.handed.isNone) || shapesMeet e.writes c.reads
        || (match e.cmd.destMask with | some m => m == c.msk && m != 0 | none => false)
      if c.queue != .v || c.handed.isSome || (q.pend.take i).any waits
          || q.gathers.any (fun g => shapesMeet g.cap.d.toList c.reads) then none
      else
        let keep := fun (s : State) (l : List Passed) => s.mapSeat key fun q =>
          { q with pend := q.pend.take i ++ { c with handed := some l } :: q.pend.drop (i + 1) }
        let pass := fun (k : AKind) (a : VAddr) (t : Shape) =>
          let p := passOver key q c k (match a with | .indexed _ => true | _ => false)
            ((c.whole.indices q t (t.count c.vl)).map (eaccOf c q a t)) s
          if p.wait || p.bad.isSome then none else some (keep p.st (p.hits.map EHit.passed))
        match c.cmd, c.d with
        | .vload a _, some t => pass .vload a t
        | .vstore a _, some t => pass .vstore a t
        | .append, _ | .cpix _ _, _ => none
        | _, _ => some (keep s [])

/-- The first command from a position on that can hand over. -/
def State.handFrom (s : State) (key : Nat) : Nat → Nat → Option State
  | 0, _ => none
  | n + 1, i =>
    match s.hand key i with
    | some s => some s
    | none => s.handFrom key n (i + 1)

def State.handNext (s : State) (key : Nat) : Option State :=
  match s.seat key with
  | some q => s.handFrom key q.pend.length 0
  | none => none

/-! ### One command -/

/-- A vector command that touches no memory (R79): its stop is an ARITH trap at the command, or at the first VHAD.c of its
chain (R83). -/
def vecDone (s : State) (key : Nat) (c : Cap) (o : VOut) : Perf :=
  match o.stop with
  | none => if c.inPart then .part (s.setSeat key o.q) c.further else .done (s.setSeat key o.q)
  | some (e, en) =>
    let pc := match c.chain with | some ch => ch.pc | none => c.pc
    .stop (s.setSeat key o.q) (arithTrap en pc) (c.stoppedAt e)

def State.runVec (s : State) (key : Nat) (c : Cap) (q : Seat) : Perf :=
  let v := fun (o : VOut) => vecDone s key c o
  match c.cmd, c.d, c.a, c.b with
  | .vec fn, some t, _, _ => v (runElem c fn q t)
  | .vcmp fn md, _, some ta, some tb => v (runCmp c fn md q ta tb)
  | .red fn seg, some t, some ta, _ => v (if fn = .scan then runScan c seg q t ta else runReduce c fn seg q t ta)
  | .perm, some t, some ta, some tb => v (runPerm c q t ta tb)
  | .compr, some t, some ta, _ => v (runCompr c q t ta)
  | .expnd, some t, some ta, _ => v (runExpnd c q t ta)
  | .nmsel, some t, some ta, some tb => v (runNmsel c q t ta tb)
  | .qnt, some t, some ta, some tb => v (runQnt c q t ta tb)
  | .dqnt, some t, some ta, some tb => v (runDqnt c q t ta tb)
  | .had dist _, some t, some ta, _ => v (runHad c dist q t ta)
  | .had dist _, none, some ta, _ => v (runStages c dist q ta)
  | .bcast, some t, _, _ => v (runBcast c q t)
  | .ins, some t, some ta, _ => v (runIns c q t ta)
  | .slide, some t, some ta, _ => v (runSlide c q t ta)
  | .pzero, some t, _, _ => v (runPzero c q t)
  | .extr d, _, some ta, _ => .done (s.setSeat key (q.setReg d (extrValue c q ta)))
  | .mask fn md ma mb d, _, _, _ =>
    match fn with
    | .pop => .done (s.setSeat key (q.setReg d (BitVec.ofNat 64 (popOf c.vl (q.mask ma).toNat))))
    | .first =>
      .done (s.setSeat key (q.setReg d (match lowestSet c.vl 0 (q.mask ma).toNat with
        | some i => BitVec.ofNat 64 i | none => BitVec.allOnes 64)))
    | .setn => .done (s.setSeat key (q.setMask md (maskBelow (BitVec.allOnes 4096) (max 0 (min c.x.toInt 4096)).toNat)))
    | _ => .done (s.setSeat key (q.setMask md (maskFnBits fn (q.mask ma) (q.mask mb))))
  | _, _, _, _ => .done s

/-- A FENCE takes its effect (Table 9.4): a scoped one is a phase boundary at its scope. -/
def State.runFence (s : State) (key : Nat) (q : Seat) (k : FenceKind) : State :=
  match k with
  | .scoped _ => (s.writeBack (coreOf key) q.cin).invalClean (coreOf key) q.cin
  | _ => s

/-- A QFENCE takes its effect (R210): naming P or V together with an engine's queue it writes dirty bytes back. -/
def State.runQfence (s : State) (key : Nat) (q : Seat) (m : BitVec 9) : State :=
  if m &&& 0x003#9 ≠ 0 ∧ m &&& 0x1FC#9 ≠ 0 then s.writeBack (coreOf key) q.cin else s

/-- Performing one command. -/
def State.perform (s : State) (key : Nat) (c : Cap) : Perf :=
  match s.seat key with
  | none => .done s
  | some q =>
    match c.cmd with
    | .load d n sg => s.pload key c d n sg
    | .store n => s.pstore key c n
    | .atomic fn d wide uns _ => s.patomic key c fn d wide uns
    | .finit => s.pfinit key c
    | .frnw d => s.pfrnw key c d
    | .flife d => s.pflife key c d
    | .pub sc => s.ppub key c sc
    | .acq d sc => s.pacq key c d sc
    | .fence k => .done (s.runFence key q k)
    | .qfence m => .done (s.runQfence key q m)
    | .append => s.append key c
    | .vload a ff => s.vload key c a ff
    | .vstore a ord => s.vstore key c a ord
    | .cpix md tag => s.cpixProbe key c md tag
    | .mmr ctl => s.mmr key c ctl
    | .mmt ctl => s.mmt key c ctl
    | .accrd rm => s.accrd key c rm
    | .accwr add => s.accwr key c add
    | .accsc => s.accsc key c
    | .accz => s.accz key c
    | .ldst ff mode g f => s.ldst key c ff mode g f
    | .swst => s.swst key
    | .ldstp => s.ldstp key c
    | .prefetch _ | .copy _ | .xform _ | .image _ => s.startCopy key (c.queue.bit - 3) c
    | .coll d red g desc => s.joinColl key d red g desc
    | .sapp _ | .sckp _ | .scur _ _ | .scurArm _ | .srecv _ | .strunc _ => s.runStream key c
    | _ => s.runVec key c q

/-! ### Faults -/

/-- An address lies in a range that its context maps on demand (R248). -/
def State.onDemand (s : State) (ctx : Nat) (va : Word) : Bool :=
  match s.ctx ctx with
  | some c => c.onDemand.any fun r => decide (r.va ≤ va.toNat) && decide (va.toNat < r.va + r.size)
  | none => false

/-- A fault that the host may settle (R248): XLATE NOTVALID in an on-demand range, outside a handler that has no handler. -/
def State.hostPage (s : State) (q : Seat) (t : Trap) : Bool :=
  t.code == codeXlate && t.detail == 1 && s.onDemand q.ctx t.value

/-- The seat parks, and firmware asks the owning host for the page (R248). -/
def State.parkSeat (s : State) (key : Nat) (t : Trap) (late : Bool) (lane : Option Nat) : State :=
  match s.seat key with
  | none => s
  | some q =>
    -- an instruction that parks at issue ends a bypass chain before it (R72)
    let byp := if late || lane.isSome then q.byp else none
    let s := s.setSeat key { q with byp := byp, park := some ⟨t.value, s.devtime, t.pc, late, lane⟩ }
    let s := match s.ctx q.ctx with
      | some c => s.setCtx q.ctx { c with requests := c.requests ++ [(⟨t.value, q.node, s.devtime⟩ : PageReq)] }
      | none => s
    { s with out := .pageRequest q.vi q.handle t.value :: s.out }

/-- A younger command depends on a command (R246): it is of the same queue, or uses a register or cells that the command
writes, or writes cells that it reads. -/
def depends (e l : Cap) : Bool :=
  e.queue == l.queue || e.cellsMeet l
    || (match e.cmd.dest with | some d => l.cmd.dest == some d | none => false)
    || (match e.cmd.destMask with | some m => l.msk == m || l.cmd.destMask == some m || l.cmd.readsMask m | none => false)

/-- Commands that depend on a set-aside one (R246), oldest first, and the others: those that `first` says depend on the command
of the trap, and those that one of them holds back. -/
def splitDependents (first : Cap → Bool) : List Cap → List Cap → List Cap × List Cap
  | _, [] => ([], [])
  | held, l :: rest =>
    if first l || held.any (fun e => blocks e l) then
      let (a, b) := splitDependents first (held ++ [l]) rest
      (l :: a, b)
    else
      let (a, b) := splitDependents first held rest
      (a, l :: b)

/-- A late trap of the command at a position (R246): it and the younger commands that depend on it are set aside; with
`performed` the command itself is done (R233). -/
def State.lateTrap (s : State) (key i : Nat) (t : Trap) (c : Cap) (performed : Bool) : State :=
  match s.seat key with
  | none => s
  | some q =>
    -- a command that is performed holds nothing back any more
    let (deps, keep) := splitDependents (if performed then depends c else blocks c) [] (q.pend.drop (i + 1))
    let held := if performed then deps else c :: deps
    let s := s.setSeat key { q with pend := q.pend.take i ++ keep, aside := q.aside ++ held }
    s.takeTrap key t true false

/-- The command at a position stops where it is, changed. -/
def Seat.keepAt (q : Seat) (i : Nat) (c : Cap) : Seat := { q with pend := q.pend.take i ++ c :: q.pend.drop (i + 1) }

/-- The mask of a command leaves elements inactive: that of a selection or of segments does not (R107, R412, R417). -/
def Cap.masked (c : Cap) : Bool :=
  match c.cmd with | .compr | .vec .sel | .red _ true => false | _ => true

/-- The elements that each lane cluster performed of a command's whole (Table 14.3): the active ones that it owns; of VCOMPR
those that it selects, and of a VLDF that was shortened those below its new VL. -/
def Cap.elems (c : Cap) (q : Seat) (short : Option Nat) : Vector Nat 8 :=
  match c.owner with
  | none => Vector.replicate 8 0
  | some (t, n) =>
    let n := match c.cmd with | .compr => popOf n (q.mask c.msk).toNat | _ => short.getD n
    let l := (List.range n).filter fun i => !c.masked || c.active q i
    Vector.ofFn fun k : Fin 8 => min 65535 ((l.filter fun i => t.cluster i == k.val).length)

/-- The entry that ESHAPE.ENT and a sample name (R79, Table 14.3): the destination or data entry, v63 of VHAD.c, or va
(assumption 55). -/
def Cap.ent (c : Cap) : Ent := if c.isStage then 63 else match c.d with | some _ => c.dEnt | none => c.aEnt

/-- What VSAMPLE will report of a completed instruction (R293), and of the stages of the bypass chain that it ends: each performs
the elements of byp. -/
def Cap.samples (c : Cap) (q : Seat) (time : Nat) (short : Option Nat) : List Sample :=
  let stages := match c.chain with
    | some ch => ch.sampled.map fun pc =>
      (⟨63, c.vl, pc, time, ({ c with d := none, a := some ch.shape, msk := 0 } : Cap).elems q none⟩ : Sample)
    | none => []
  if c.sampled then stages ++ [⟨c.ent, c.vl, c.pc, time, c.elems q short⟩] else stages

/-- The command at a position is done, and leaves its samples to be written. -/
def State.finishAt (s : State) (key i : Nat) (more : List Sample) : State :=
  s.mapSeat key fun q => { q with pend := dropAt q.pend i, samples := q.samples ++ more }

/-- The command at a position of a seat's queues is performed, as `f` bounds this performing: the state after it, and whether
a fault ended it. `none` while something holds it back. A command that resumes after WATCH is past that once another fault
has stopped it (R296). -/
def State.performWith (s : State) (key i : Nat) (f : Cap → Cap) : Option (State × Bool) :=
  match s.seat key with
  | none => none
  | some q =>
    match s.freeAt q i with
    | none => none
    | some c =>
      match s.perform key (f c) with
      | .wait => none
      | .part s c' => some (s.mapSeat key fun q => q.keepAt i c', false)
      | .done s => some (s.finishAt key i (c.samples q s.devtime none), false)
      | .short s k => some (s.finishAt key i (c.samples q s.devtime (some k)), false)
      | .trap s t => some (s.lateTrap key i t c true, true)
      | .stop s t c' =>
        if s.hostPage q t then some ((s.mapSeat key fun q => q.keepAt i c').parkSeat key t true none, true)
        else
          let c' := { c' with unwatched := false }
          some ((s.mapSeat key fun q => q.keepAt i c').lateTrap key i t c' false, true)

def State.performAt (s : State) (key i : Nat) : Option (State × Bool) := s.performWith key i id

/-- Some elements of the scatter at a position are performed ahead of the others (R217). -/
def State.performSome (s : State) (key i : Nat) (els : List Nat) : Option (State × Bool) :=
  match (s.seat key).bind fun q => q.pend[i]? with
  | some c =>
    match c.cmd with
    | .vstore (.indexed _) _ => s.performWith key i fun c => { c with only := some els }
    | _ => none
  | none => none

/-- The first stream command that an engine holds for a saved seat, performed: its result goes to the image (R237, R252). One
that faults is left for the restore. -/
def State.performStream (s : State) (key : Nat) : Option State :=
  match s.seat key with
  | none => none
  | some q =>
    match q.pend.zipIdx.find? fun x => x.1.queue == .s with
    | none => none
    | some (c, i) =>
      match s.freeAt q i, s.perform key c with
      | some _, .done s => some (s.mapSeat key fun q => { q with pend := dropAt q.pend i })
      | _, _ => none

/-- The first command that can be performed, from a position on. -/
def State.firstFrom (s : State) (key : Nat) : Nat → Nat → Option (State × Bool)
  | 0, _ => none
  | n + 1, i =>
    match s.performAt key i with
    | some r => some r
    | none => s.firstFrom key n (i + 1)

/-- The oldest command that can be performed. -/
def State.performOne (s : State) (key : Nat) : Option (State × Bool) :=
  match s.seat key with
  | none => none
  | some q => s.firstFrom key q.pend.length 0

/-- Everything the queues hold that can be performed, oldest first; a fault ends it. -/
def State.drainGo (key : Nat) : Nat → State → State
  | 0, s => s
  | n + 1, s =>
    match s.performOne key with
    | none => s
    | some (s, true) => s
    | some (s, false) => s.drainGo key n

def State.drain (s : State) (key : Nat) : State :=
  match s.seat key with
  | none => s
  | some q => s.drainGo key q.pend.length

end Sys2Proof.Machine
end

