-- ==== Sys2Proof/Machine/Heat.lean ====
section
/-!
DEFINITION. Sys2Proof/Machine/Heat.lean: the readings of the temperatures, every millisecond: the lifetime of fleeting tiles
(R165, R177) and the thermal rows of HBM (R280).
-/
namespace Sys2Proof.Machine

/-- One millisecond of device time (R19). -/
def msTicks : Nat := 100000

/-! ### Junction temperature and LIFE (R165, R177) -/

/-- Table 7.2. -/
def lifeOf (temp : Int) : Nat := if temp ≤ 85 then 2000 else if temp ≤ 95 then 1000 else if temp ≤ 105 then 500 else 250

/-- The cooler classes, coolest first, with their upper bounds (R165). -/
def coolerClasses : List (Nat × Int) := [(2000, 85), (1000, 95), (500, 105)]

/-- 100 ms of device time. -/
def historyTicks : Nat := 10000000

/-- LIFE after a reading: down at once, up to the coolest class from which every reading of the past 100 ms keeps 5 °C. -/
def nextLife (life : Nat) (temp : Int) (past : List Int) : Nat :=
  if lifeOf temp < life then lifeOf temp
  else
    match coolerClasses.find? fun c => decide (life < c.1) && past.all fun t => decide (t + 5 ≤ c.2) with
    | some c => c.1
    | none => life

/-- The frames of MT 1 that a context maps, by a walk of its tables (R179). -/
def fleetFrames (m : List Host.Cell) : List (Nat × Nat) → Nat → List (Nat × Nat)
  | [], _ => []
  | (_, size) :: rest, table =>
    (List.range 2048).flatMap fun i =>
      let w : Word := BitVec.ofNat 64 (leNat (memBytes m (table + 8 * i) 8))
      if !pteV w then []
      else if pteLeaf w then (if pteMt w = 1 then [(ptePa w, size)] else [])
      else fleetFrames m rest (ptePa w)

/-- A context has a page on a die's fleeting array. -/
def State.fleetingOn (s : State) (ctx d : Nat) : Bool :=
  match s.ctx ctx with
  | some x => (fleetFrames s.mem walkLevels (ptePa x.ptroot)).any fun f => regionOf s.pkg.lg f.1 == .fleeting d
  | none => false

/-- STATUS.LIFECHG and tag 63 (R177). -/
def Seat.lifeChanged (q : Seat) : Seat :=
  { q with status := { q.status with lifechg := true }, tags := q.tags ||| (1#64 <<< 63) }

/-- A new LIFE takes effect at one tick (R177): a fall expires tiles, a rise revives none; resident seats are told, and
saved ones are when they resume. -/
def State.setLife (s : State) (d life : Nat) : State :=
  if (s.die d).life = life then s
  else
    let s := s.sweep d 0
    let s := (s.setDie d { s.die d with life := life }).sweep d 0
    let told := fun (ctx : Nat) => s.fleetingOn ctx d
    { s with
      seats := s.seats.map fun x => (x.1, if told x.2.ctx then x.2.lifeChanged else x.2)
      launches := s.launches.map fun l => if told l.ctx then
        { l with nodes := l.nodes.map fun n => { n with image := n.image.map (·.lifeChanged) } } else l }

/-- A reading of a die's hottest junction at a device time (R165, R276). -/
def State.junctionAt (s : State) (d : Nat) (temp : Int) (t : Nat) : State :=
  let x := s.die d
  let past := (t, temp) :: x.readings.filter fun r => decide (t < r.1 + historyTicks)
  (s.setDie d { x with hot := decide (100 < temp), readings := past }).setLife d (nextLife x.life temp (past.map (·.2)))

def State.junction (s : State) (d : Nat) (temp : Int) : State := s.junctionAt d temp s.devtime

/-- A millisecond has passed since a sensor's last reading (R165, R280). -/
def readingDue (last : Option Nat) (now : Nat) : Bool := match last with | some t => decide (t + msTicks ≤ now) | none => true

/-! ### HBM temperature (R280, R282) -/

/-- The lower bounds of the rows of Table 13.5, from row 1 on. -/
def rowBounds : List Int := [85, 95, 105, 115, 120]
def rowOf (temp : Int) : Nat := (rowBounds.filter fun b => decide (b ≤ temp)).length

/-- The row after a reading: hotter at once, one cooler after ten readings in a row 3 °C below the row's bound. -/
def Stack.read (x : Stack) (temp : Int) (now : Nat) : Stack :=
  let r := rowOf temp
  let x := { x with readAt := some now, code := temp }
  if x.row < r then { x with row := r, readings := [] }
  else if 0 < x.row ∧ temp + 3 ≤ rowBounds.getD (x.row - 1) 0 then
    if x.readings.length + 1 = 10 then { x with row := x.row - 1, readings := [] } else { x with readings := temp :: x.readings }
  else { x with readings := [] }

/-! ### Readings that are overdue -/

/-- The reading of a die that no event has brought when it was due shows what the last one showed; a 4 µs boundary looks for it.
DESIGN CHOICE (assumption 53). -/
def State.dieAgain (t : Nat) (s : State) (d : Nat) : State :=
  match (s.die d).readings.head? with
  | some r => if r.1 + msTicks < t then s.junctionAt d r.2 (r.1 + msTicks) else s
  | none => s

/-- The same of a stack's reading. -/
def State.stackAgain (t : Nat) (s : State) (k : Nat) : State :=
  match (s.stack k).readAt with
  | some r => if r + msTicks < t then s.setStack k ((s.stack k).read (s.stack k).code (r + msTicks)) else s
  | none => s

/-- The readings that the management controller and the memory controllers take every millisecond once the package has booted
(R165, R280). -/
def State.readAgain (s : State) (t : Nat) : State :=
  if s.pkg.booted then (s.hbm.map (·.1)).foldl (State.stackAgain t) ((s.dies.map (·.1)).foldl (State.dieAgain t) s) else s

end Sys2Proof.Machine
end

