-- ==== Sys2Proof/Machine/Gust.lean ====
section
/-!
DEFINITION. Sys2Proof/Machine/Gust.lean: one interval of a stack pair's Gust (R272 to R277) and the restoration of chaining
at its end (R279), the end of a placement epoch (R160), and the cycles that a tick grants (R270, R278).
-/
namespace Sys2Proof.Machine

/-- 4 µs (R272). -/
def gustTicks : Nat := 400

/-- 0.5 µs (R283). -/
def resumeTicks : Nat := 50

/-- A quad that has been bound again within 1 µs of its hold issues after 0.5 µs (R283). -/
def State.quadOn (s : State) (quad : Nat) : Bool :=
  match (s.quad quad).power with
  | .on => true
  | .resuming => decide ((s.quad quad).since + resumeTicks ≤ s.devtime)
  | _ => false

/-- The quad counts for the grants: a quad that wakes does not before its ramp has ended (R284). -/
def State.quadCounts (s : State) (quad : Nat) : Bool := (s.quad quad).power == .on || (s.quad quad).power == .resuming

/-- A resident seat of the quad satisfies a test. -/
def State.anySeat (s : State) (quad : Nat) (p : Seat → Bool) : Bool :=
  (List.range 8).any fun i => match s.seat (8 * quad + i) with | some q => p q | none => false

/-- Claiming and busy quads (R272); a quad that is not busy is idle. -/
def State.claims (s : State) (quad : Nat) : Bool := s.quadCounts quad && s.anySeat quad fun q => q.sr.claim
def State.busyQuad (s : State) (quad : Nat) : Bool := s.quadCounts quad && s.anySeat quad fun _ => true

/-- What a row of Table 13.2 grants: levels of the lower and the upper quad, the charge, and WHY of a claimant. -/
structure Grant where
  lower : Nat
  upper : Nat
  charge : Nat
  why : BitVec 2
  deriving DecidableEq, Repr

/-- Table 13.2: the first row that matches. -/
def grantOf (hot locked : Bool) (cl cu bl bu : Bool) (permits : Nat) : Grant :=
  if hot then ⟨0, 0, 0, 3⟩
  else if locked then ⟨0, 0, 0, 1⟩
  else if cl && cu && decide (4 ≤ permits) then ⟨2, 2, 4, 0⟩
  else if cl && cu && decide (2 ≤ permits) then ⟨1, 1, 2, 0⟩
  else if cl && !cu && bu && decide (1 ≤ permits) then ⟨1, 0, 1, 0⟩
  else if cu && !cl && bl && decide (1 ≤ permits) then ⟨0, 1, 1, 0⟩
  else if (cl && !cu && !bu) || (cu && !cl && !bl) then ⟨0, 0, 0, 2⟩
  else ⟨0, 0, 0, 1⟩

/-- The level a quad runs at: a fall from B2 to nominal passes through B1 (R274). -/
def fallFrom (was granted : Nat) : Nat := if was = 2 ∧ granted = 0 then 1 else granted

/-- The end of an interval for the pool (R275). -/
def Pair.refill (p : Pair) (boosted : Bool) : Pair :=
  if boosted then { p with calm := 0 }
  else if p.calm + 1 = 4 then
    let n := min 64 (p.permits + 1)
    { p with calm := 0, permits := n, locked := p.locked && decide (n < 16) }
  else { p with calm := p.calm + 1 }

/-- A charge (R275). -/
def Pair.charge (p : Pair) (n : Nat) : Pair :=
  { p with permits := p.permits - n, locked := p.locked || (decide (0 < n) && decide (p.permits ≤ n)) }

/-- The withdrawal order of R279, by the bits of CHAINPERM. -/
def chainOrder : List Nat := [1, 0, 2, 3, 4, 5]

/-- The end of an interval for a quad's chaining pairs: the pair withdrawn last comes back after a calm interval. -/
def Quad.restore (x : Quad) : Quad :=
  let perm := if x.calm && x.clamp == 0 then
      match chainOrder.reverse.find? fun i => !x.chainperm.getLsbD i with
      | some i => x.chainperm ||| (1#6 <<< i)
      | none => x.chainperm
    else x.chainperm
  { x with chainperm := perm, calm := x.clamp == 0 }

/-- A quad at the start of an interval. -/
def Quad.start (x : Quad) (granted : Nat) (claims : Bool) (why : BitVec 2) : Quad :=
  { x.restore with lvl := fallFrom x.lvl granted, why := if claims then why else 0 }

/-- The boundary of an interval of a pair at a device time (R272 to R275, R279). -/
def State.gustAt (s : State) (pair t : Nat) : State :=
  let lo := 2 * pair
  let hi := 2 * pair + 1
  let p := (s.pair pair).refill ((s.quad lo).lvl != 0 || (s.quad hi).lvl != 0)
  let cl := s.claims lo
  let cu := s.claims hi
  let g := grantOf (s.die (dieOfQuad lo)).hot p.locked cl cu (s.busyQuad lo) (s.busyQuad hi) p.permits
  ((s.setPair pair { p.charge g.charge with lastInterval := some t }).setQuad lo
    ((s.quad lo).start g.lower cl g.why)).setQuad hi ((s.quad hi).start g.upper cu g.why)

/-- A pair whose interval changes something: one that has been boosted or claims, or whose chaining is withdrawn. The
others hold a full pool at nominal. -/
def State.gustLive (s : State) (pair : Nat) : Bool :=
  (mapFind s.pairs pair).isSome || s.claims (2 * pair) || s.claims (2 * pair + 1)
    || (s.quad (2 * pair)).chainperm != 0x3F#6 || (s.quad (2 * pair + 1)).chainperm != 0x3F#6

/-- The interval boundary at a device time, for every pair. -/
def State.gustBoundary (s : State) (t : Nat) : State :=
  ((List.range Config.pairs).filter s.gustLive).foldl (fun s p => s.gustAt p t) s

/-! ### Placement epochs (R160) -/

/-- The leaves of a table and those below it: first address, size and entry. -/
def leavesOf (m : List Host.Cell) : List (Nat × Nat) → Nat → Nat → List (Nat × Nat × Word)
  | [], _, _ => []
  | (sh, size) :: rest, table, va =>
    (List.range 2048).flatMap fun i =>
      let w : Word := BitVec.ofNat 64 (leNat (memBytes m (table + 8 * i) 8))
      if !pteV w then []
      else if pteLeaf w then [(va + i * 2 ^ sh, size, w)]
      else leavesOf m rest (ptePa w) (va + i * 2 ^ sh)

/-- The die to which an epoch's counts send a page frame (R160). -/
def State.epochDie (s : State) (frame : Nat) : Option Nat :=
  let n := fun (d : Nat) => mapGet 0 s.epoch (4 * frame + d)
  let all := n 0 + n 1 + n 2 + n 3
  (List.range 4).find? fun d =>
    decide (256 ≤ n d) && decide (3 * all ≤ 4 * n d) && decide (regionOf s.pkg.lg (16384 * frame) ≠ .local_ d)

/-- The pages of PLC 7 that an epoch queues for migration. -/
def State.epochQueue (s : State) : List Mig :=
  s.ctxs.flatMap fun x => (leavesOf s.mem walkLevels (ptePa x.2.ptroot) 0).filterMap fun l =>
    if ptePlc l.2.2 = 7 ∧ !pteMig l.2.2 then
      match s.epochDie (ptePa l.2.2 / 16384) with
      | some d => if s.migs.any fun g => g.ctx == x.1 && g.va == BitVec.ofNat 64 l.1 then none
                  else some ⟨x.1, BitVec.ofNat 64 l.1, some d, 0, false, []⟩
      | none => none
    else none

/-- The end of an epoch: the pages that the counts ask for are queued, and the counters restart. -/
def State.endEpoch (s : State) : State := { s with migs := s.migs ++ s.epochQueue, epoch := [] }

/-- What device time brings about at a multiple of 4 µs: the Gust intervals, the readings that are overdue, and every millisecond
the end of an epoch. -/
def State.boundary (s : State) (t : Nat) : State :=
  let s := (s.gustBoundary t).readAgain t
  if t % msTicks = 0 then s.endEpoch else s

/-! ### Granted cycles (R19, R270, R278) -/

/-- The quad has its full voltage, and its cores' clock runs. That it runs through the hold too is DESIGN CHOICE
(assumption 52). -/
def Power.clocked : Power → Bool
  | .on | .resuming | .hold => true
  | _ => false

/-- Cycles that a tick grants to a core of the quad, in 160ths: 14, 15.4 or 16.8 by the level, less by the clamp (R270, R278). -/
def Quad.rate (x : Quad) : Nat :=
  if x.power.clocked then (if x.lvl = 0 then 140 else if x.lvl = 1 then 154 else 168) * (16 - x.clamp) else 0

/-- Whole cycles that a core is granted in some ticks, with the fraction it has. -/
def Core.granted (c : Core) (rate ticks : Nat) : Nat := (c.frac + rate * ticks) / 160

/-- A core after some ticks at a rate: CYCLE, the cycles of a seat switch (R42), and the share of issue while both seats are
ready. -/
def Core.run (c : Core) (rate ticks : Nat) (both : Bool) : Core :=
  let n := c.granted rate ticks
  { c with cycle := c.cycle + n, frac := (c.frac + rate * ticks) % 160, switching := c.switching - n
           held := if both then c.held + n else c.held }

end Sys2Proof.Machine
end

