-- ==== Sys2Proof/Machine/Issue.lean ====
section
/-!
DEFINITION. Sys2Proof/Machine/Issue.lean: issuing an instruction: whose instruction it is (R47, R332), the waits on
registers and queues (R202, R209, R244, R247), traps at issue (R311, R245), what a command captures (R76, R95), the
translation of P-queue commands (R315), and virtual processors (R45 to R50).
-/
namespace Sys2Proof.Machine

/-- What a meaning answers. -/
abbrev Res := Host.Outcome State Fault Refusal

/-! ### Waiting -/

/-- The sweep of a die comes round at least every 16 ms of device time (R178). -/
def sweepPeriod : Nat := 1600000

/-- The key of a group's barrier: PHASE and GBAR episodes are counted separately (R356). -/
def barrierKey (group : Nat) (gbar : Bool) : Nat := 2 * group + (if gbar then 1 else 0)

/-- The episode a seat waits for has completed; a launch that is gone holds no one back. -/
def State.episodeDone (s : State) (q : Seat) (group : Nat) (gbar : Bool) (n : Nat) : Bool :=
  match s.launch q.ctx q.launch with
  | some l => decide (n ≤ mapGet 0 l.episodes (barrierKey group gbar))
  | none => true

/-- The incarnation of a context whose reclaim is in progress (R263). -/
def State.reclaimOf (s : State) (ctx : Nat) : Option (BitVec 6) := (s.ctx ctx).bind fun c => c.reclaim.map (·.1)

/-- No COPY, CPXF or CPIMG of a channel is queued or active (R195). -/
def Seat.drained (q : Seat) (ch : Nat) : Bool :=
  !q.copying ch && !q.pend.any fun c => c.queue == .c ch && (match c.cmd with | .prefetch _ => false | _ => true)

/-- A command has been translated and not performed (R406). -/
def Cap.translated (c : Cap) : Bool := c.pa.isSome || !(c.handed.getD []).isEmpty

/-- Every seat, resident and saved: what their queues and engines hold is still to be performed. -/
def State.everySeat (s : State) : List Seat := s.seats.map (·.2) ++ s.saved.map (·.2.2.2)

/-- Requests made with a translation that has been invalidated are still to be performed (R406): queued and set-aside commands, of
resident and of saved seats, and the gathers of CPIX. -/
def State.oldRequests (s : State) (covers : Nat → Bool) : Bool :=
  s.everySeat.any fun q =>
    covers q.ctx && ((q.pend ++ q.aside).any Cap.translated || q.gathers.any fun g => !g.hits.isEmpty)

/-- The other seat of a core. -/
def otherSeat (key : Nat) : Nat := if key % 2 = 0 then key + 1 else key - 1

/-- What a waiting seat waits for has come (R42). -/
def State.waitMet (s : State) (key : Nat) (q : Seat) : Bool :=
  match q.wait with
  | none => true
  | some (.tags all m) => if all then q.tags &&& m == m else q.tags &&& m != 0
  | some (.barrier g gb n) => s.episodeDone q g gb n
  | some .vjoin => !q.forked
  | some (.deadline t) => decide (t.toNat ≤ s.devtime)
  | some .yield => q.yielded || (match s.seat (otherSeat key) with
    | some o => o.halted || o.wait.isSome || o.park.isSome || o.stopping.isSome
    | none => true)
  | some (.cpdrn ch) => q.drained ch
  | some (.rclm c inc) => s.reclaimOf c != some inc
  | some .joined => !q.forked
  | some .drained => !q.forked && !q.memBusy
  | some (.tlbi c) => !s.oldRequests fun x => c == 4096 || x == c

/-- A resident seat that is ready (R42): it would issue if it held issue. -/
def State.ready (s : State) (key : Nat) : Bool :=
  match s.seat key with
  | some q => !q.halted && q.park.isNone && q.stopping.isNone && s.waitMet key q
  | none => false

/-- The entry of a Barograph for one granted cycle (Table 14.6): CYC, FOREIGN, SEAT and SWITCH as the core stands, with the
element pointers and the pipes' occupancy given. -/
def baroEntry (cyc holder : Nat) (foreign switching : Bool) (occ : Nat) (eptr : Word) : BitVec 128 :=
  let y : Nat := if foreign then 2 ^ 8 else holder * 2 ^ 7 + (if switching then 2 ^ 6 else 0) + occ % 16
  BitVec.ofNat 128 ((if foreign then 0 else eptr.toNat * 2 ^ 64) + cyc % 2 ^ 32 * 2 ^ 32 + y)

/-- OCC of a cycle (Table 14.6): V and M while they hold a command of a seat; of the pipes that hold none, a free choice of those
that accepted an instruction in the cycle, where the core has issued since the last tick, and none where it has not (assumption
29). -/
def occOf (vector matrix issued : Bool) (free : Nat) : Nat :=
  (if vector then 2 else 0) ||| (if matrix then 4 else 0) ||| (if issued then free % 16 else 0)

/-- One granted cycle of the Barograph's core (R298). While the V pipe is occupied the element pointers are free values; else they
stay as they are. -/
def Baro.cycle (c : Core) (foreign vector matrix : Bool) (free : Nat) (b : Baro) (k : Nat) : Baro :=
  let occ := occOf vector matrix b.issued (Config.freeWord (free + 1 + 2 * k)).toNat
  let eptr := if occ.testBit 1 then Config.freeWord (free + 2 + 2 * k) else b.eptr
  { b with written := b.written + 1
           eptr := eptr
           ring := mapInsert b.ring (b.written % 65536)
             (baroEntry (c.cycle + k) c.holder foreign (decide (k < c.switching)) occ eptr) }

/-- n granted cycles of the Barograph's core, none beyond its post count (R298). -/
def Baro.run (b : Baro) (c : Core) (foreign vector matrix : Bool) (free n : Nat) : Baro :=
  let n := match b.stopAt with | some w => min n (w + b.post - b.written) | none => n
  { (List.range n).foldl (Baro.cycle c foreign vector matrix free) b with issued := b.issued && n == 0 }

/-- A core's quad. -/
def State.rateOf (s : State) (core : Nat) : Nat := (s.quad (quadOfCore core)).rate

/-- The Barographs that run while some ticks pass (R298): the pipes hold the commands of both seats (R18). -/
def State.baroRun (s : State) (ticks : Nat) : State :=
  { s with dies := s.dies.map fun x =>
      match x.2.baro with
      | some b =>
        if b.running && !b.frozen then
          let c := s.core b.core
          let foreign := match s.seat (2 * b.core + c.holder) with | some q => q.vi != b.vi | none => false
          let holds := fun (z : Queue) => [0, 1].any fun i => match s.seat (2 * b.core + i) with
            | some q => q.pend.any (·.queue == z)
            | none => false
          (x.1, { x.2 with baro := some (b.run c foreign (holds .v) (holds .m) s.freeN (c.granted (s.rateOf b.core) ticks)) })
        else x
      | none => x }

/-- The cores whose clock runs. -/
def State.clockedCores (s : State) : List Nat :=
  (s.quads.filter fun x => x.2.power.clocked).flatMap fun x => (List.range 4).map (4 * x.1 + ·)

/-- Ticks that pass without an interval boundary between them: every core whose quad is clocked is granted its cycles, those of a
tick at once: that no instruction reads a CYCLE within a tick is DESIGN CHOICE (assumption 9). -/
def State.runTicks (s : State) (ticks : Nat) : State :=
  let s := s.baroRun ticks
  let both := fun (c : Nat) => s.ready (2 * c) && s.ready (2 * c + 1)
  { s.clockedCores.foldl (fun s c => s.setCore c ((s.core c).run (s.rateOf c) ticks (both c))) s with
    devtime := s.devtime + ticks, freeN := s.freeN + 2 * 16 * 2 * ticks + 3 }

/-- Ticks that pass, with the interval boundaries and the ends of epochs on the way (R160, R272): `n` bounds their number. -/
def State.runTo : Nat → Nat → State → State
  | 0, t, s => s.runTicks (t - s.devtime)
  | n + 1, t, s =>
    let b := (s.devtime / gustTicks + 1) * gustTicks
    if b ≤ t then State.runTo n t ((s.runTicks (b - s.devtime)).boundary b) else s.runTicks (t - s.devtime)

/-- Device time passes: ticks of DEVTIME (R19), with the sweeps (R178), the Gust intervals (R272) and the ends of epochs (R160)
that come round, and the cycles that each core is granted at its quad's frequency (R270, R278). One DEVTIME serves every unit:
that no two units differ at an instant, where R19 allows one tick, is DESIGN CHOICE (assumption 9). -/
def State.lapse (s : State) (ticks : Nat) : State :=
  let more := (s.devtime + ticks) / 100 - s.ftick
  let due := (List.range Config.dies).filter fun d => decide ((s.die d).lastSweep + sweepPeriod ≤ s.devtime + ticks)
  let s := due.foldl (fun s d => s.sweep d more) s
  State.runTo (ticks / gustTicks + 1) (s.devtime + ticks) s

/-- An instruction that cannot issue yet: the queues move on, and the thread stays where it is. Time passes between the rounds
of the threads. -/
def State.stallKeep (s : State) (key : Nat) : State :=
  if s.hold then s
  else match s.performOne key with
    | some (s, _) => s
    | none => s

/-- An instruction that is no part of a bypass chain stalls: a chain before it has ended (R72). -/
def State.stall (s : State) (key : Nat) : State := (s.mapSeat key fun q => { q with byp := none }).stallKeep key

/-- An instruction that has no room in the V queue or in the operand log: a command in front of it hands its addresses and data
over, if one can (R202, R244), and else the queues move on. -/
def State.stallFull (s : State) (key : Nat) : State :=
  match s.handNext key with
  | some s => s
  | none => s.stallKeep key

/-- A register waits for a command that writes it (R209, R228, R376). -/
def Seat.busy (q : Seat) (r : Reg) : Bool := q.pend.any fun c => c.cmd.dest == some r

/-- A mask register waits for a V-queue command that writes it (R376). -/
def Seat.maskBusy (q : Seat) (m : MaskNo) : Bool := q.pend.any fun c => c.cmd.destMask == some m

/-- VL waits for a VLDF (R247). -/
def Seat.vlBusy (q : Seat) : Bool := q.pend.any fun c => match c.cmd with | .vload _ ff => ff | _ => false

/-- Commands of the named queues are still queued. -/
def Seat.queued (q : Seat) (f : Queue → Bool) : Bool :=
  q.pend.any fun c => match c.cmd with | .fence _ | .qfence _ => false | _ => f c.queue

/-- The instruction issues once a condition of waiting no longer holds. -/
def waitOn (s : State) (key : Nat) (w : Bool) (k : Res) : Res := if w then .next (s.stall key) else k

/-- The same of an instruction that may be a part of a bypass chain. -/
def waitKeep (s : State) (key : Nat) (w : Bool) (k : Res) : Res := if w then .next (s.stallKeep key) else k

/-! ### Traps at issue -/

/-- A fault at issue: the host's page, or a precise trap (R245, R248). -/
def State.raise (s : State) (key : Nat) (t : Trap) : State :=
  match s.seat key with
  | none => s
  | some q => if s.hostPage q t then s.parkSeat key t false none else s.preciseTrap key t

/-- A check at issue that failed (R311, R351, R409): SHAPE names its entry in ESHAPE, with ELEM 0 and PART 0. -/
def State.bad (s : State) (key : Nat) (q : Seat) (i : Instr) (b : Bad) : State :=
  match b with
  | .illop => s.preciseTrap key ⟨codeIllop, 0, i.word.setWidth 64, q.curPc⟩
  | .priv => s.preciseTrap key ⟨codePriv, 0, i.word.setWidth 64, q.curPc⟩
  | .align v => s.preciseTrap key ⟨codeAlign, 0, v, q.curPc⟩
  | .shape e =>
    (s.setSeat key { q with sr := { q.sr with eshElem := 0, eshPart := false, eshEnt := e } }).preciseTrap key
      ⟨codeShape, 0, 0, q.curPc⟩

/-- A trap in a virtual processor (R50): every VP stops, ESHAPE.ELEM names the lane. -/
def State.vpTrap (s : State) (key lane : Nat) (t : Trap) : State :=
  match s.seat key with
  | none => s
  | some q =>
    if s.hostPage q t then s.parkSeat key t false (some lane)
    else
      let fork := q.fork.map fun f =>
        { f with vps := f.vps.map fun x => (x.1, if x.1 = lane then { x.2 with trapped := true } else x.2) }
      let q := { q with fork := fork, sr := { q.sr with eshElem := BitVec.ofNat 32 lane, eshPart := false, eshEnt := 0 } }
      (s.setSeat key q).takeTrap key t false true

/-! ### Whose instruction -/

/-- The VP of a lane. -/
def Seat.vp (q : Seat) (lane : Nat) : Option Vp := q.fork.bind fun f => mapFind f.vps lane

/-- An instruction of the control thread, or of a VP (R47, Table 2.6). A word that names no instruction raises ILLOP. -/
def both (i : Instr) (s : State) (f : Nat → Seat → Res) (g : Nat → Seat → Nat → Vp → Res) : Res :=
  match s.thr with
  | none => .fault .noThread
  | some t =>
    match s.seat t.key with
    | none => .fault .noThread
    | some q =>
      match t.lane with
      | none => if i.wf then f t.key q else .next (s.bad t.key q i .illop)
      | some l =>
        match q.vp l with
        | none => .fault .noThread
        | some v =>
          if i.wf then g t.key q l v else .next (s.vpTrap t.key l ⟨codeIllop, 0, i.word.setWidth 64, v.pc⟩)

/-- An instruction that only the control thread executes: ILLOP in a VP (R47). -/
def ctl (i : Instr) (s : State) (f : Nat → Seat → Res) : Res :=
  both i s f fun key _ l v => .next (s.vpTrap key l ⟨codeIllop, 0, i.word.setWidth 64, v.pc⟩)

/-- An instruction that only a VP executes: ILLOP in the control thread (R373). -/
def vpOnly (i : Instr) (s : State) (g : Nat → Seat → Nat → Vp → Res) : Res :=
  both i s (fun key q => .next (s.bad key q i .illop)) g

/-! ### Virtual processors -/

/-- The plane cell of lane register lj (R46). -/
def Seat.laneCell (q : Seat) (lane : Nat) (r : Reg) : Nat := cellKey (q.sr.lrow0 + r.toNat) lane

/-- l0 reads 0 (R46). -/
def Seat.laneReg (q : Seat) (lane : Nat) (r : Reg) : BitVec 32 :=
  if r = 0 then 0 else mapGet 0#32 q.plane (q.laneCell lane r)

def Seat.setLane (q : Seat) (lane : Nat) (r : Reg) (v : BitVec 32) : Seat :=
  if r = 0 then q else { q with plane := mapSet 0#32 q.plane (q.laneCell lane r) v }

/-- A register pair {l(n+1), ln} (Table 2.6). -/
def Seat.lanePair (q : Seat) (lane : Nat) (r : Reg) : Word := q.laneReg lane (r + 1) ++ q.laneReg lane r
def Seat.setLanePair (q : Seat) (lane : Nat) (r : Reg) (w : Word) : Seat :=
  (q.setLane lane r (w.extractLsb' 0 32)).setLane lane (r + 1) (w.extractLsb' 32 32)

def Seat.setVp (q : Seat) (lane : Nat) (v : Vp) : Seat :=
  { q with fork := q.fork.map fun f => { f with vps := mapInsert f.vps lane v } }

/-- The VP goes on at an address; the instruction that ERET resumed after WATCH is past (R296). -/
def Seat.vpTo (q : Seat) (lane : Nat) (a : Word) : Seat :=
  { q with noWatchVp := if q.noWatchVp = some lane then none else q.noWatchVp
           fork := q.fork.map fun f =>
      { f with vps := f.vps.map fun x => (x.1, if x.1 = lane then { x.2 with pc := a } else x.2) } }

/-- A VP access waits for the V-queue commands before the fork, and for what holds V-queue memory commands (R51, R209). -/
def Seat.vpHeld (q : Seat) : Bool :=
  q.pend.any fun c => c.queue == .v || (match c.cmd with
    | .fence .sv | .fence .all | .fence (.scoped _) | .acq _ _ | .srecv _ | .strunc _ => true
    | .qfence m => m.getLsbD 1 && c.n == 0
    | _ => false)

/-! ### Scalar results -/

/-- A scalar instruction: sd := f of the operands, in 64 bits; in a VP g of its lane registers, in 32 (R313, R47). -/
def scalar (i : Instr) (s : State) (d : Reg) (srcs : List Reg) (f : Seat → Word) (g : (Reg → BitVec 32) → BitVec 32) : Res :=
  both i s
    (fun key q => waitOn s key ((d :: srcs).any q.busy) (.next (s.setSeat key (q.setReg d (f q)).advance)))
    (fun key q l v => .next (s.setSeat key ((q.setLane l d (g (q.laneReg l))).vpTo l (v.pc + 4))))

/-! ### Commands -/

/-- What every command captures at issue (R76, R95). -/
def Seat.capture (q : Seat) (i : Instr) (cmd : Cmd) (qu : Queue) : Cap where
  cmd := cmd
  queue := qu
  pc := q.curPc
  word := i.word.setWidth 64
  vl := q.sr.vl
  maxvl := q.sr.maxvl
  stripbase := q.sr.stripbase
  seed := q.sr.seed
  mode := q.sr.mode
  ovfns := q.sr.ovfns
  excen := q.sr.excen
  qblk := q.sr.qblk
  nmsel := q.sr.nmsel
  decay := q.sr.decay
  mxsa := none
  mxsaEnt := q.sr.mxsa
  d := none
  a := none
  b := none
  dEnt := 0
  aEnt := 0
  bEnt := 0
  msk := 0
  acc := 0
  n := 0
  x := 0
  y := 0
  z := 0
  chain := none
  pa := none
  slot := none
  partial_ := false
  prog := Vector.replicate 8 0
  row := 0
  lim := none
  rowLim := none
  did := []
  only := none
  handed := none
  sampled := false
  unwatched := false

/-- Commands that take an entry of the operand log (R244). -/
def Cap.logged (c : Cap) : Bool :=
  match c.cmd with
  | .vload _ _ | .vstore _ _ | .append | .cpix _ _ | .ldst _ _ _ _ | .prefetch _ | .copy _ | .xform _ | .image _ | .coll _ _ _ _
  | .sapp _ | .sckp _ | .scur _ _ | .scurArm _ | .srecv _ | .strunc _ => true
  | _ => false

/-- A P-queue access at issue waits for the earlier commands that come before it (R209, R346). -/
def Seat.pHeld (q : Seat) (i : Instr) : Bool := q.pend.any fun e => blocks e (q.capture i (.load 0 8 false) .p)

/-- A transfer on a channel can still fault (R244): one whose data has not been moved, but for a PREFETCH, which takes none
(R348). -/
def Active.logged (a : Active) : Bool := !a.ran && (match a.cap.cmd with | .prefetch _ => false | _ => true)

/-- Entries of the operand log that a seat's own commands take (R244): those, the set-aside ones among them, whose translation and
probe pass have not ended, and transfers that can still fault. -/
def Seat.logHeld (q : Seat) : Nat :=
  ((q.pend ++ q.aside).filter fun c => c.logged && c.handed.isNone).length
    + (q.chan.toList.filter fun a => match a with | some a => a.logged | none => false).length

/-- Entries of the operand log that are taken (R244): a GROUPX command takes one while its collective runs. -/
def State.logTaken (s : State) (q : Seat) : Nat := q.logHeld + if s.inColl q.ctx q.launch q.node then 1 else 0

/-- A command finds no room (R202, R244): all 16 entries of the operand log are taken, or 32 V-queue commands are outstanding,
none of which has handed its addresses and data over. -/
def State.full (s : State) (q : Seat) (c : Cap) : Bool :=
  (c.logged && decide (16 ≤ s.logTaken q))
    || (c.queue == .v && decide (32 ≤ (q.pend.filter fun e => e.queue == .v && e.handed.isNone).length))

/-- A V-pipe instruction is counted (R293): the count after it, and whether it is the one to sample. -/
def Seat.count (q : Seat) : Seat × Bool :=
  if q.sr.trcN ≠ 0 ∧ q.sr.trcN.toNat ≤ q.sampleCnt + 1 then ({ q with sampleCnt := 0 }, true)
  else ({ q with sampleCnt := q.sampleCnt + 1 }, false)

/-- A command of the V queue is a V-pipe instruction (Table 1.4). -/
def Seat.countV (q : Seat) (c : Cap) : Seat × Cap :=
  if c.queue == .v then (q.count.1, { c with sampled := q.count.2 }) else (q, c)

/-- So is an instruction that takes effect at issue: DEFR, SHRD, LAYOUT, SETVL, REPF, VFORK and VJOIN. It performs no
element. -/
def Seat.countNow (q : Seat) (ent : Ent) (time : Nat) : Seat :=
  let p := q.count.1
  if q.count.2 then { p with samples := p.samples ++ [⟨ent, q.sr.vl, q.curPc, time, Vector.replicate 8 0⟩] } else p

/-- A V-pipe or M-pipe instruction first waits until every virtual processor has exited (R51). -/
def joinFirst (s : State) (key : Nat) (q : Seat) (k : Res) : Res :=
  if q.forked then .next (s.setSeat key (q.waitFor .joined)) else k

/-- A command issues: it joins its queue, the thread goes on as `f` leaves it, and the queues move on unless issue alone
was asked for. -/
def State.issueThen (s : State) (key : Nat) (q : Seat) (c : Cap) (f : Seat → Seat) : Res :=
  if s.full q c then .next (s.stallFull key)
  else
    let (q, c) := q.countV c
    let q := f q.advance
    let s := s.setSeat key { q with pend := q.pend ++ [c] }
    .next (if s.hold then s else s.drain key)

def State.issueCmd (s : State) (key : Nat) (q : Seat) (c : Cap) : Res := s.issueThen key q c id

/-! ### P-queue accesses -/

/-- Where an access at issue stands: translated, faulting, or waiting for a page that migrates. -/
inductive PAcc where
  | ok (h : Hit) (s : State)
  | trap (t : Trap) (s : State)
  | wait
  deriving DecidableEq, Repr

/-- The checks and the translation of a P-queue access, in order: ALIGN, translation and protection, watchpoints (R315,
R146, R295). It touches `n` bytes from `lo` on. -/
def State.access (s : State) (key : Nat) (q : Seat) (k : AKind) (a : Word) (align lo n : Nat) (pc : Word) : PAcc :=
  if a.toNat % align ≠ 0 then .trap (trapOf aAlign a pc) s
  else
    match s.translate (q.who key) k a with
    | (.fault f, s) => .trap (trapOf f a pc) s
    | (.wait, _) => .wait
    | (.ok h, s) =>
      match q.watchHit lo n k.writes with
      | some w => .trap (watchTrap w a pc) s
      | none => .ok h s

/-- A P-queue command whose address is translated at issue (R245): it issues, traps precisely, or waits. -/
def State.issueAt (s : State) (key : Nat) (q : Seat) (k : AKind) (a : Word) (align lo n : Nat) (c : Cap) : Res :=
  match s.access key q k a align lo n q.curPc with
  | .trap t s => .next (s.raise key t)
  | .wait => .next (s.stall key)
  | .ok h s => s.issueCmd key q { c with x := a, pa := some (h.pa, h.mt, h.plc) }

/-- A P-queue command that touches `n` bytes from its address on. -/
def State.issueP (s : State) (key : Nat) (q : Seat) (k : AKind) (a : Word) (align n : Nat) (c : Cap) : Res :=
  s.issueAt key q k a align a.toNat n c

/-- A VP's access, performed when nothing holds it (R51); a trap of it stops the fork (R50). -/
def State.vpAccess (s : State) (key : Nat) (q : Seat) (lane : Nat) (v : Vp) (k : AKind) (a : Word) (n : Nat)
    (f : Hit → State → Res) : Res :=
  if q.vpHeld then .next (s.stall key)
  else
    match s.access key { q with noWatch := q.noWatchVp == some lane } k a n a.toNat n v.pc with
    | .trap t s => .next (s.vpTrap key lane t)
    | .wait => .next (s.stall key)
    | .ok h s => f h s

/-! ### Vector operands (R409) -/

/-- A vector operand of an instruction. -/
def Seat.opnd (q : Seat) (e : Ent) : Opnd := ⟨e, q.entry e⟩

/-- The source va, which a chain supplies when it is v63 (R72): the chain's own source geometry stands for it. -/
def Seat.srcOpnd (q : Seat) (e : Ent) (chains : Bool) : Opnd :=
  if e = 63 && chains then ⟨e, q.byp.map (·.shape)⟩ else ⟨e, q.entry e⟩

def anyKind (_ : Shape) : Bool := true
def isRow (t : Shape) : Bool := t.kind == .row
def isRect (t : Shape) : Bool := t.kind == .rect

/-- Every operand's format passes (R71, R98). -/
def fmtsOk (ok : Fmt → Bool) (l : List Opnd) : Bool := l.all fun o => match o.shape with | some t => ok t.fmt | none => false

/-- One class for every operand (R411). -/
def oneClass (l : List Opnd) : Bool :=
  match l with
  | ⟨_, some t⟩ :: rest => t.fmt.cls != .special && fmtsOk (fun f => f.cls == t.fmt.cls) rest
  | _ => false

/-- One format for every operand. -/
def oneFmt (l : List Opnd) : Bool :=
  match l with
  | ⟨_, some t⟩ :: rest => fmtsOk (fun f => f == t.fmt) rest
  | _ => false

/-- mk ≠ 0 with N above 4096 (R70). The spec does not say which entry ESHAPE.ENT names then: the operand that sets N, the first,
is named, DESIGN CHOICE (assumption 80). -/
def overMask (vl : Nat) (masked : Bool) (l : List Opnd) : Option Bad :=
  match l with
  | ⟨e, some t⟩ :: _ => if masked && decide (4096 < t.count vl) then some (.shape e) else none
  | _ => none

/-- The checks of an element-wise instruction (R69 to R71, R409), after those of its encoding. -/
def elemChecks (vl : Nat) (masked : Bool) (fmtOk : Bool) (l : List Opnd) : Option Bad :=
  firstOf [firstBad anyKind l, badIf (!fmtOk) .illop, firstLong vl l, firstUneven vl l, overMask vl masked l]

/-- A vector command issues once a fork has ended and its VL is fixed, if its checks pass; `f` is what its issue leaves
beside. -/
def vectorThen (i : Instr) (s : State) (scalars : List Reg) (check : Seat → Option Bad) (mk : Seat → Cap)
    (f : Seat → Seat → Seat) : Res :=
  ctl i s fun key q => joinFirst s key q <|
    waitKeep s key (q.vlBusy || scalars.any q.busy)
      (match check q with
       | some b => .next (s.bad key q i b)
       | none => s.issueThen key q (mk q) (f q))

def vector (i : Instr) (s : State) (scalars : List Reg) (check : Seat → Option Bad) (mk : Seat → Cap) : Res :=
  vectorThen i s scalars check mk fun _ q => q

/-- A vector command with the entries it names (R76). -/
def Seat.vec (q : Seat) (i : Instr) (cmd : Cmd) (d a b : Option Ent) (m : MaskNo) (x : Word) : Cap :=
  { q.capture i cmd .v with
    d := d.bind q.entry, a := a.bind q.entry, b := b.bind q.entry
    dEnt := d.getD 0, aEnt := a.getD 0, bEnt := b.getD 0, msk := m, x := x }

/-- The operands among optional entries. -/
def Seat.opnds (q : Seat) (l : List (Option Ent)) : List Opnd := l.filterMap fun e => e.map q.opnd

end Sys2Proof.Machine
end

