-- ==== Sys2Proof/Machine/LoadStore.lean ====
section
/-!
DEFINITION. Sys2Proof/Machine/LoadStore.lean: scalar loads and stores (R315, R370, R401), atomics (R214, R333) and the FLEET
instructions (R172 to R175, R355): P-queue commands of the control thread; loads, stores and atomics also of a virtual
processor (Table 2.6).
-/
namespace Sys2Proof.Machine

def oddReg (r : Reg) : Bool := r.getLsbD 0

/-- ILLOP of an instruction in a virtual processor (R47). -/
def State.vpIllop (s : State) (key lane : Nat) (i : Instr) (v : Vp) : State :=
  s.vpTrap key lane ⟨codeIllop, 0, i.word.setWidth 64, v.pc⟩

/-- A VP's result and its move to the next instruction. -/
def State.vpNext (s : State) (key lane : Nat) (v : Vp) (f : Seat → Seat) : State :=
  s.mapSeat key fun q => (f q).vpTo lane (v.pc + 4)

/-- A load of `n` bytes into sd, or into one lane register or a pair; `k` is what protection sees (Table 6.4 admits LD.w and
LD.d in device space, not LD.wu). -/
def loadAs (i : Instr) (s : State) (k : AKind) (d a : Reg) (imm : BitVec 16) (n : Nat) (signed : Bool) : Res :=
  both i s
    (fun key q => waitOn s key (q.busy d || q.busy a)
      (s.issueP key q k (q.reg a + sext imm) n n (q.capture i (.load d n signed) .p)))
    (fun key q l v =>
      if oddReg a || (n == 8 && oddReg d) then .next (s.vpIllop key l i v)
      else
        let va := q.lanePair l a + sext imm
        s.vpAccess key q l v k va n fun h s =>
          match s.read (coreOf key) q.cin h n with
          | .error f => .next (s.vpTrap key l (trapOf f va v.pc))
          | .ok r =>
            let w := extend n signed (leNat r.bytes)
            .next ((r.st.vpNext key l v fun q => if n = 8 then q.setLanePair l d w else q.setLane l d (w.setWidth 32)).noteExp key
              r.expired))

def loadOp (i : Instr) (s : State) (d a : Reg) (imm : BitVec 16) (n : Nat) (signed : Bool) : Res :=
  loadAs i s (.load n) d a imm n signed

/-- A store of the low `n` bytes of the data register. -/
def storeOp (i : Instr) (s : State) (d a : Reg) (imm : BitVec 16) (n : Nat) : Res :=
  both i s
    (fun key q => waitOn s key (q.busy d || q.busy a)
      (s.issueP key q (.store n) (q.reg a + sext imm) n n { q.capture i (.store n) .p with y := q.reg d }))
    (fun key q l v =>
      if oddReg a || (n == 8 && oddReg d) then .next (s.vpIllop key l i v)
      else
        let va := q.lanePair l a + sext imm
        s.vpAccess key q l v (.store n) va n fun h s =>
          let w := if n = 8 then (q.lanePair l d).toNat else (q.laneReg l d).toNat
          let s := (s.dropStrip key h.mt h.pa).write (coreOf key) q.cin h (leBytes n w)
          .next (s.vpNext key l v id))

def execLdB (d a : Reg) (i : BitVec 16) (s : State) : Res := loadOp (.ldB d a i) s d a i 1 true
def execLdBu (d a : Reg) (i : BitVec 16) (s : State) : Res := loadOp (.ldBu d a i) s d a i 1 false
def execLdH (d a : Reg) (i : BitVec 16) (s : State) : Res := loadOp (.ldH d a i) s d a i 2 true
def execLdHu (d a : Reg) (i : BitVec 16) (s : State) : Res := loadOp (.ldHu d a i) s d a i 2 false
def execLdW (d a : Reg) (i : BitVec 16) (s : State) : Res := loadOp (.ldW d a i) s d a i 4 true
def execLdWu (d a : Reg) (i : BitVec 16) (s : State) : Res := loadAs (.ldWu d a i) s .loadWu d a i 4 false
def execLdD (d a : Reg) (i : BitVec 16) (s : State) : Res := loadOp (.ldD d a i) s d a i 8 false
def execStB (d a : Reg) (i : BitVec 16) (s : State) : Res := storeOp (.stB d a i) s d a i 1
def execStH (d a : Reg) (i : BitVec 16) (s : State) : Res := storeOp (.stH d a i) s d a i 2
def execStW (d a : Reg) (i : BitVec 16) (s : State) : Res := storeOp (.stW d a i) s d a i 4
def execStD (d a : Reg) (i : BitVec 16) (s : State) : Res := storeOp (.stD d a i) s d a i 8

/-! ### Atomics -/

/-- An atomic; ACAS compares with the old sd (R214). `.w` works on single lane registers, `.d` on pairs (R333). -/
def atomOp (i : Instr) (s : State) (fn : AtomFn) (d a b : Reg) (sys uns wide : Bit) : Res :=
  let w := wide == 1
  let n := if w then 8 else 4
  both i s
    (fun key q => waitOn s key (q.busy d || q.busy a || q.busy b)
      (s.issueP key q .atomic (q.reg a) n n
        { q.capture i (.atomic fn d w (uns == 1) (sys == 1)) .p with y := q.reg b, z := q.reg d }))
    (fun key q l v =>
      if oddReg a || (w && (oddReg d || oddReg b)) then .next (s.vpIllop key l i v)
      else if sys == 1 && (q.queued (fun z => z == .x) || s.inColl q.ctx q.launch q.node) then .next (s.stall key)
      else
        let get := fun (r : Reg) => if w then (q.lanePair l r).toNat else (q.laneReg l r).toNat
        let va := q.lanePair l a
        s.vpAccess key q l v .atomic va n fun h s =>
          let s := (s.dropStrip key h.mt h.pa).flushInval (coreOf key) q.cin h.pa
          let s := s.count q.cin (dieOf key) h.pa h.plc
          let (old, e, s) := s.atomicRel h fn (uns == 1) n (get b) (get d)
          .next ((s.vpNext key l v fun q =>
            if w then q.setLanePair l d (BitVec.ofNat 64 old) else q.setLane l d (BitVec.ofNat 32 old)).noteExp key e))

def execAadd (d a b : Reg) (sc w : Bit) (s : State) : Res := atomOp (.aadd d a b sc w) s .add d a b sc 0 w
def execAmin (d a b : Reg) (sc u w : Bit) (s : State) : Res := atomOp (.amin d a b sc u w) s .min d a b sc u w
def execAmax (d a b : Reg) (sc u w : Bit) (s : State) : Res := atomOp (.amax d a b sc u w) s .max d a b sc u w
def execAand (d a b : Reg) (sc w : Bit) (s : State) : Res := atomOp (.aand d a b sc w) s .and d a b sc 0 w
def execAor (d a b : Reg) (sc w : Bit) (s : State) : Res := atomOp (.aor d a b sc w) s .or d a b sc 0 w
def execAxchg (d a b : Reg) (sc w : Bit) (s : State) : Res := atomOp (.axchg d a b sc w) s .xchg d a b sc 0 w
def execAcas (d a b : Reg) (sc w : Bit) (s : State) : Res := atomOp (.acas d a b sc w) s .cas d a b sc 0 w

/-! ### FLEET -/

/-- A FLEET instruction acts on the tile of an address, which need not be aligned (R172, R355). FINIT touches the tile's
bytes; FRNW and FLIFE touch none (R295). -/
def fleetOp (i : Instr) (s : State) (k : AKind) (cmd : Cmd) (a : Reg) (regs : List Reg) (data : Seat → Word) (n : Nat) : Res :=
  ctl i s fun key q => waitOn s key ((a :: regs).any q.busy)
    (s.issueAt key q k (q.reg a) 1 ((q.reg a).toNat / 2048 * 2048) n { q.capture i cmd .p with y := data q })

def execFrnw (d a : Reg) (s : State) : Res := fleetOp (.frnw d a) s .fleetW (.frnw d) a [d] (fun _ => 0) 0
def execFlife (d a : Reg) (s : State) : Res := fleetOp (.flife d a) s .fleetR (.flife d) a [d] (fun _ => 0) 0
def execFinit (a b : Reg) (s : State) : Res := fleetOp (.finit a b) s .fleetW .finit a [b] (fun q => q.reg b) 2048

end Sys2Proof.Machine
end

