-- ==== Sys2Proof/Machine/Branch.lean ====
section
/-!
DEFINITION. Sys2Proof/Machine/Branch.lean: branches, jumps, calls and returns (R316, R341, R342, R344, R367, R368, R393), with
the return stack of the control thread (R250) and the divergence stacks of virtual processors (R48), and STRIP (R402).
-/
namespace Sys2Proof.Machine

/-- PC + 4 × offset (R310). -/
def target {n : Nat} (pc : Word) (o : BitVec n) : Word := pc + 4 * o.signExtend 64

/-- Taken, or on to the next instruction. -/
def Seat.branch (q : Seat) (c : Bool) (a : Word) : Seat := if c then q.jump a else q.advance

/-- A conditional branch on two registers (R341). -/
def branchOp (i : Instr) (s : State) (a b : Reg) (o : BitVec 16) (c : {n : Nat} → BitVec n → BitVec n → Bool) : Res :=
  both i s
    (fun key q => waitOn s key (q.busy a || q.busy b)
      (.next (s.setSeat key (q.branch (c (q.reg a) (q.reg b)) (target q.curPc o)))))
    (fun key q l v =>
      .next (s.setSeat key (q.vpTo l (if c (q.laneReg l a) (q.laneReg l b) then target v.pc o else v.pc + 4))))

def execBeq (a b : Reg) (o : BitVec 16) (s : State) : Res := branchOp (.beq a b o) s a b o fun x y => x == y
def execBne (a b : Reg) (o : BitVec 16) (s : State) : Res := branchOp (.bne a b o) s a b o fun x y => x != y
def execBlt (a b : Reg) (o : BitVec 16) (s : State) : Res := branchOp (.blt a b o) s a b o fun x y => x.slt y
def execBge (a b : Reg) (o : BitVec 16) (s : State) : Res := branchOp (.bge a b o) s a b o fun x y => !x.slt y
def execBltU (a b : Reg) (o : BitVec 16) (s : State) : Res := branchOp (.bltU a b o) s a b o fun x y => x.ult y
def execBgeU (a b : Reg) (o : BitVec 16) (s : State) : Res := branchOp (.bgeU a b o) s a b o fun x y => !x.ult y

/-- JMP (R367). -/
def execJmp (o : BitVec 26) (s : State) : Res :=
  both (.jmp o) s (fun key q => .next (s.setSeat key (q.jump (target q.curPc o))))
    (fun key q l v => .next (s.setSeat key (q.vpTo l (target v.pc o))))

/-! ### Divergence stacks (R48) -/

/-- The spill area of a lane: DVSP + 512 × i. -/
def Seat.dvArea (q : Seat) (lane : Nat) : Word := (q.sr.dvsp ++ 0#9) + BitVec.ofNat 64 (512 * lane)

/-- The watchpoint that an access of a VP to its spill area fires (R295, R296). -/
def Seat.vpWatch (q : Seat) (lane : Nat) (a : Word) (isStore : Bool) : Option Nat :=
  { q with noWatch := q.noWatchVp == some lane }.watchHit a.toNat 64 isStore

/-- Push on a VP's stack: with 8 entries, all of them are spilled first, the oldest at the lowest address. -/
def State.vpPush (s : State) (key : Nat) (q : Seat) (lane : Nat) (v : Vp) (ra dest : Word) : Res :=
  let go := fun (s : State) (stack : List Word) (sp : Nat) =>
    (.next (s.mapSeat key fun q => (q.setVp lane { v with stack := stack ++ [ra], spilled := sp }).vpTo lane dest) : Res)
  if v.stack.length < 8 then go s v.stack v.spilled
  else
    let a := q.dvArea lane + BitVec.ofNat 64 (64 * v.spilled)
    if 8 ≤ v.spilled then .next (s.vpTrap key lane (trapStack a v.pc))
    else if q.vpHeld then .next (s.stall key)
    else
      match s.translate (q.who key) .vstore a with
      | (.ok h, s) =>
        match q.vpWatch lane a true with
        | some k => .next (s.vpTrap key lane (watchTrap k a v.pc))
        | none => go ((s.writeRun (coreOf key) q.cin h v.stack).dropStrip key h.mt h.pa) [] (v.spilled + 1)
      | (.wait, _) => .next (s.stall key)
      | (.fault _, s) => .next (s.vpTrap key lane (trapStack a v.pc))

/-- A popped address (R393): one that is not a multiple of 4 traps, and the pop stands. -/
def State.vpRet (s : State) (key lane : Nat) (v : Vp) (stack : List Word) (sp : Nat) : Res :=
  let ra := stack.getLastD 0
  let v' := { v with stack := stack.dropLast, spilled := sp }
  if ra.toNat % 4 ≠ 0 then .next ((s.mapSeat key (·.setVp lane v')).vpTrap key lane ⟨codeAlign, 0, ra, v.pc⟩)
  else .next (s.mapSeat key fun q => (q.setVp lane v').vpTo lane ra)

/-- Pop of a VP's stack: an empty one refills the 8 entries it spilled last, and one from which nothing is left raises
ILLOP. -/
def State.vpPop (s : State) (key : Nat) (q : Seat) (lane : Nat) (v : Vp) : Res :=
  if !v.stack.isEmpty then s.vpRet key lane v v.stack v.spilled
  else if v.spilled = 0 then .next (s.vpIllop key lane .ret v)
  else if q.vpHeld then .next (s.stall key)
  else
    let a := q.dvArea lane + BitVec.ofNat 64 (64 * (v.spilled - 1))
    match s.translate (q.who key) .vload a with
    | (.ok h, s) =>
      match q.vpWatch lane a false, s.readRun (coreOf key) q.cin h 8 with
      | some k, _ => .next (s.vpTrap key lane (watchTrap k a v.pc))
      | none, .ok (l, e, s) => (s.noteExp key e).vpRet key lane v l (v.spilled - 1)
      | none, .error _ => .next (s.vpTrap key lane (trapStack a v.pc))
    | (.wait, _) => .next (s.stall key)
    | (.fault _, s) => .next (s.vpTrap key lane (trapStack a v.pc))

/-- JAL (R367): a spill is a P-queue store, so it follows the earlier commands of the queue (R250). -/
def execJal (o : BitVec 26) (s : State) : Res :=
  both (.jal o) s
    (fun key q => waitOn s key (decide (16 ≤ q.rstack.length) && q.pHeld (.jal o))
      (let dest := target q.curPc o
       match s.pushReturn key (q.curPc + 4) with
       | .ok s => .next (s.mapSeat key (·.jump dest))
       | .error none => .next (s.stall key)
       | .error (some t) => .next (s.raise key t)))
    (fun key q l v => s.vpPush key q l v (v.pc + 4) (target v.pc o))

/-- RET (R393); a refill is a P-queue load. -/
def execRet (s : State) : Res :=
  both .ret s
    (fun key q => waitOn s key (q.rstack.isEmpty && q.pHeld .ret)
      (match s.popReturn key with
       | .error t => .next (s.raise key t)
       | .ok (ra, s') =>
         if ra.toNat % 4 ≠ 0 then .next (s'.raise key ⟨codeAlign, 0, ra, q.curPc⟩)
         else .next (s'.mapSeat key (·.jump ra))))
    (fun key q l v => s.vpPop key q l v)

/-- JR (R368). -/
def execJr (a : Reg) (s : State) : Res :=
  ctl (.jr a) s fun key q => waitOn s key (q.busy a)
    (if (q.reg a).toNat % 4 ≠ 0 then .next (s.raise key ⟨codeAlign, 0, q.reg a, q.curPc⟩)
     else .next (s.setSeat key (q.jump (q.reg a))))

/-! ### Branches on tags and masks -/

/-- BTAG (R344): a snapshot of TAGS. -/
def execBtag (a : Reg) (c : BitVec 5) (o : BitVec 16) (s : State) : Res :=
  ctl (.btag a c o) s fun key q => waitOn s key (q.busy a)
    (let hit := q.tags &&& q.reg a
     let taken := if c = 0 then hit != 0 else if c = 1 then hit == q.reg a else hit == 0
     .next (s.setSeat key (q.branch taken (target q.curPc o))))

/-- BMASK (R342): waits for the mask and for VL. -/
def execBmask (m : MaskNo) (c : BitVec 5) (o : BitVec 16) (s : State) : Res :=
  ctl (.bmask m c o) s fun key q => waitOn s key (q.maskBusy m || q.vlBusy)
    (let low := (q.mask m).toNat % 2 ^ q.sr.vl
     let taken := if c = 0 then low != 0 else if c = 1 then low == 0 else low == 2 ^ q.sr.vl - 1
     .next (s.setSeat key (q.branch taken (target q.curPc o))))

/-! ### STRIP (R402) -/

/-- VL := max(0, min(v, MAXVL)), v signed (R66, R402). -/
def Seat.clampVl (q : Seat) (v : Word) : Nat := (max 0 (min v.toInt q.sr.maxvl)).toNat

/-- Pointer register s(24+j) advanced by g × F(24+j) (R321). -/
def Seat.advancePtr (q : Seat) (g : Nat) (j : Nat) : Seat :=
  let r : Reg := BitVec.ofNat 5 (24 + j)
  q.setReg r (q.reg r + BitVec.ofInt 64 ((g : Int) * (q.sr.spf.extractLsb' (8 * j) 8).toInt))

/-- STRIP; it waits while the end of a PREFETCH cannot write its descriptor (R162). -/
def execStrip (a : Reg) (p : BitVec 4) (o : BitVec 17) (s : State) : Res :=
  ctl (.strip a p o) s fun key q =>
    let ptrs := (List.range 4).filter fun j => p.getLsbD j
    waitOn s key (q.vlBusy || q.busy a || ptrs.any fun j => q.busy (BitVec.ofNat 5 (24 + j)))
      (let g := q.sr.vl
       let dest := target q.curPc o
       let q := q.setReg a (q.reg a - BitVec.ofNat 64 g)
       let q := ptrs.foldl (fun q j => q.advancePtr g j) q
       let q := { q with sr := { q.sr with stripbase := q.sr.stripbase + BitVec.ofNat 64 g } }
       let left := q.reg a
       match (s.setSeat key q).stripStep key g with
       | none => .next (s.stall key)
       | some s =>
         .next (s.mapSeat key fun q =>
           { q with sr := { q.sr with vl := q.clampVl left } }.branch (decide (0 < left.toInt)) dest))

end Sys2Proof.Machine
end

