-- ==== Sys2Proof/Machine/Sync.lean ====
section
/-!
DEFINITION. Sys2Proof/Machine/Sync.lean: the SYNC group (R208 to R213, R354, R357, R384, R386, R388, R389), the TAG group
(R192, R405), WAITE (R431), YIELD (R433), and the barriers' episodes (R53, R356).
-/
namespace Sys2Proof.Machine

/-! ### Barriers -/

/-- Episodes a node has arrived at. -/
def Launch.arrivedAt (l : Launch) (k : Nat) (node : Word) : Nat :=
  match (mapGet [] l.arrived k).find? (·.1 = node) with
  | some x => x.2
  | none => 0

/-- A member of a group is done with its barriers (R53). -/
def NodeState.ended (n : NodeState) : Bool := n == .finished || n == .failed || n == .discarded

def Node.inGroup (n : Node) (group : Nat) : Bool := n.gslots.toList.any fun x => x.map (·.toNat) == some group

/-- An episode can complete: every member has arrived at it, has finished or has failed (R356), and one has arrived. -/
def Launch.episodeReady (l : Launch) (k group : Nat) : Bool :=
  let e := mapGet 0 l.episodes k + 1
  let members := l.nodes.filter (·.inGroup group)
  members.all (fun n => n.state.ended || decide (e ≤ l.arrivedAt k n.addr))
    && members.any fun n => decide (e ≤ l.arrivedAt k n.addr)

/-- An arrival at the next episode of a barrier: the launch's record, and the wait that follows it. -/
def State.arrive (s : State) (key : Nat) (q : Seat) (group : Nat) (gbar : Bool) : State :=
  let k := barrierKey group gbar
  let n := match s.launch q.ctx q.launch with | some l => l.arrivedAt k q.node + 1 | none => 1
  let s := s.mapLaunch q.ctx q.launch fun l =>
    { l with arrived := mapInsert l.arrived k (((mapGet [] l.arrived k).filter fun x => x.1 ≠ q.node) ++ [(q.node, n)]) }
  s.mapSeat key (·.waitFor (.barrier group gbar n))

/-- The group in a slot (R53). -/
def Seat.group (q : Seat) (g : BitVec 2) : Option Nat := (q.sr.gslot[g.toNat]).map (·.toNat)

/-- PHASE (R213, R384). -/
def execPhase (g : BitVec 2) (s : State) : Res :=
  ctl (.phase g) s fun key q =>
    match q.group g with
    | none => .next (s.bad key q (.phase g) .illop)
    | some group =>
      match q.wait with
      | some (.barrier _ _ n) =>
        if s.episodeDone q group false n then
          .next ((s.invalClean (coreOf key) q.cin).mapSeat key (·.advance))
        else .next (s.stall key)
      | _ =>
        if q.forked || q.memBusy then .next (s.setSeat key (q.waitFor .drained))
        else .next ((s.writeBack (coreOf key) q.cin).arrive key q group false)

/-- GBAR (R357). -/
def execGbar (g : BitVec 2) (s : State) : Res :=
  ctl (.gbar g) s fun key q =>
    match q.group g with
    | none => .next (s.bad key q (.gbar g) .illop)
    | some group =>
      match q.wait with
      | some (.barrier _ _ n) =>
        if s.episodeDone q group true n then .next (s.setSeat key q.advance) else .next (s.stall key)
      | _ => .next (s.arrive key q group true)

/-- BARRIER_EPISODE_COMPLETE (R356). -/
def execBarrierEpisodeComplete (ctx launch group : Nat) (gbar : Bool) (s : State) : Res :=
  match s.launch ctx launch with
  | none => .fault (.notEnabled "BARRIER_EPISODE_COMPLETE")
  | some l =>
    let k := barrierKey group gbar
    if l.episodeReady k group then
      .next (s.mapLaunch ctx launch fun l => { l with episodes := mapInsert l.episodes k (mapGet 0 l.episodes k + 1) })
    else .fault (.notEnabled "BARRIER_EPISODE_COMPLETE")

/-! ### Releases, acquires and fences -/

/-- PUB (R211, R386), behind the fork where one is outstanding (R384). -/
def execPub (a b : Reg) (c : BitVec 3) (s : State) : Res :=
  ctl (.pub a b c) s fun key q => waitOn s key (q.forked || q.busy a || q.busy b)
    (s.issueP key q (.store 8) (q.reg a) 8 8 { q.capture (.pub a b c) (.pub c.toNat) .p with y := q.reg b })

/-- ACQ (R212, R338). -/
def execAcq (d a : Reg) (c : BitVec 3) (s : State) : Res :=
  ctl (.acq d a c) s fun key q => waitOn s key ((q.forked && c != 0) || q.busy d || q.busy a)
    (s.issueP key q (.load 8) (q.reg a) 8 8 (q.capture (.acq d a c) (.acq d c.toNat) .p))

/-- The kinds of Table 9.4 by their codes. -/
def fenceKindOf (k : BitVec 3) : FenceKind :=
  if k = 0 then .sv else if k = 1 then .vs else if k = 2 then .all else .scoped (k.toNat - 2)

/-- FENCE (R209, R354, R384). -/
def execFence (k : BitVec 3) (s : State) : Res :=
  ctl (.fence k) s fun key q =>
    waitOn s key (q.forked && decide (3 ≤ k.toNat)) (s.issueCmd key q (q.capture (.fence k) (.fence (fenceKindOf k)) .p))

/-- QFENCE (R210, R388). -/
def execQfence (a : Reg) (s : State) : Res :=
  ctl (.qfence a) s fun key q => waitOn s key (q.busy a)
    (if (q.reg a).toNat < 512 then
      let m := (q.reg a).setWidth 9
      s.issueCmd key q { q.capture (.qfence a) (.qfence m) .p with n := if m.getLsbD 1 && q.forked then 1 else 0 }
    else .next (s.bad key q (.qfence a) .illop))

/-- RCLM (R389): a seat that has waited for one reclaim, and finds it complete, waits for no other. -/
def execRclm (a : Reg) (s : State) : Res :=
  ctl (.rclm a) s fun key q =>
    if !q.status.prv then .next (s.bad key q (.rclm a) .priv)
    else waitOn s key (q.busy a)
      (if 4096 ≤ (q.reg a).toNat then .next (s.bad key q (.rclm a) .illop)
       else
         let c := (q.reg a).toNat
         match s.reclaimOf c, q.wait with
         | none, _ => .next (s.setSeat key q.advance)
         | some inc, some (.rclm c' inc') =>
           .next (s.setSeat key (if c' = c ∧ inc' ≠ inc then q.advance else q.waitFor (.rclm c inc)))
         | some inc, _ => .next (s.setSeat key (q.waitFor (.rclm c inc))))

/-! ### Tags -/

/-- The lowest set index, or −1 (Table 8.7). -/
def lowestTag (m : Word) : Word :=
  match lowestSet 64 0 m.toNat with
  | some i => BitVec.ofNat 64 i
  | none => BitVec.allOnes 64

def execTwall (a : Reg) (s : State) : Res :=
  ctl (.twall a) s fun key q => waitOn s key (q.busy a)
    (.next (s.setSeat key (if q.tags &&& q.reg a = q.reg a then q.advance else q.waitFor (.tags true (q.reg a)))))

def execTwany (d a : Reg) (s : State) : Res :=
  ctl (.twany d a) s fun key q => waitOn s key (q.busy d || q.busy a)
    (let m := q.reg a
     .next (s.setSeat key
      (if m = 0 || q.tags &&& m ≠ 0 then (q.setReg d (lowestTag (q.tags &&& m))).advance else q.waitFor (.tags false m))))

def execTffr (d a : Reg) (s : State) : Res :=
  ctl (.tffr d a) s fun key q => waitOn s key (q.busy d || q.busy a)
    (.next (s.setSeat key (q.setReg d (lowestTag (q.tags &&& q.reg a))).advance))

def execTclr (a : Reg) (s : State) : Res :=
  ctl (.tclr a) s fun key q => waitOn s key (q.busy a)
    (.next (s.setSeat key
      { q with tags := q.tags &&& ~~~q.reg a, tagfault := q.tagfault &&& ~~~q.reg a }.advance))

/-! ### Deadlines and YIELD -/

/-- WAITE (R431). -/
def execWaite (a : Reg) (s : State) : Res :=
  ctl (.waite a) s fun key q => waitOn s key (q.busy a)
    (.next (s.setSeat key
      (if (q.reg a).toNat ≤ s.devtime then q.advance else q.waitFor (.deadline (q.reg a)))))

/-- WAITE_DEADLINE (R431): the deadline of a waiting seat has come, and its WAITE completes. -/
def execWaiteDeadline (seat : Nat) (s : State) : Res :=
  match s.seat seat with
  | none => .fault (.notEnabled "WAITE_DEADLINE")
  | some q =>
    match q.wait with
    | some (.deadline t) =>
      if t.toNat ≤ s.devtime then .next (s.setSeat seat q.advance) else .fault (.notEnabled "WAITE_DEADLINE")
    | _ => .fault (.notEnabled "WAITE_DEADLINE")

/-- Issue passes to the other seat of a core, at a cost of 24 cycles (R42). -/
def State.switchSeat (s : State) (core : Nat) : State :=
  let c := s.core core
  s.setCore core { c with holder := 1 - c.holder, held := 0, switching := 24 }

/-- YIELD (R433). -/
def execYield (s : State) : Res :=
  ctl .yield s fun key q =>
    if q.wait = some .yield then
      if q.yielded || !s.ready (otherSeat key) then .next (s.setSeat key { q with yielded := false }.advance)
      else .next (s.stall key)
    else if s.ready (otherSeat key) then
      .next ((s.setSeat key { q.waitFor .yield with yielded := false }).switchSeat (coreOf key))
    else .next (s.setSeat key q.advance)

/-- SEAT_SWITCH (R42): the holder waits, has halted or has left, and the other seat is ready. -/
def execSeatSwitch (core : Nat) (s : State) : Res :=
  let h := 2 * core + (s.core core).holder
  if !s.ready h && s.ready (otherSeat h) then .next (s.switchSeat core) else .fault (.notEnabled "SEAT_SWITCH")

/-- ISSUE_SHARE_SPENT (R42): both seats are ready, and the holder has had its 4096 cycles. -/
def execIssueShareSpent (core : Nat) (s : State) : Res :=
  let h := 2 * core + (s.core core).holder
  if s.ready h && s.ready (otherSeat h) && decide (4096 ≤ (s.core core).held) then .next (s.switchSeat core)
  else .fault (.notEnabled "ISSUE_SHARE_SPENT")

end Sys2Proof.Machine
end

