-- ==== Sys2Proof/Machine/Vector.lean ====
section
/-!
DEFINITION. Sys2Proof/Machine/Vector.lean: issuing the element-wise vector instructions, comparisons and moves (R409 to
R412, R415, R416, R418, R420, R423): their checks in the order of R409, and what each captures.
-/
namespace Sys2Proof.Machine

/-! ### Formats -/

def intClass (l : List Opnd) : Bool := fmtsOk (fun f => f.cls == .integer) l
def floatClass (l : List Opnd) : Bool := fmtsOk (fun f => f.cls == .float) l
/-- One format, not of class special (R412, R423). -/
def onePlain (l : List Opnd) : Bool := oneFmt l && fmtsOk (fun f => f.cls != .special) l
/-- vd and va share one integer format, and vb is of any integer format (R412). -/
def shiftFmts (l : List Opnd) : Bool := intClass l && oneFmt (l.take 2)
/-- One element width, any class (R423). -/
def oneWidth (l : List Opnd) : Bool :=
  match l with
  | ⟨_, some t⟩ :: rest => fmtsOk (fun f => f.width == t.fmt.width) rest
  | _ => false
/-- Float, integer or E8M0 into float or integer (R418). -/
def cvtFmts (l : List Opnd) : Bool := fmtsOk (fun f => f != .qpair && f != .tbl8) l && fmtsOk (fun f => f != .e8m0) (l.take 1)

/-! ### Shared forms -/

/-- An element-wise instruction of vd, va and vb, or with a scalar in place of vb (R410, R411). -/
def elemOp (i : Instr) (s : State) (fn : VecFn) (d : Ent) (a b : Option Ent) (sb : Option Reg) (m : MaskNo)
    (fmt : List Opnd → Bool) : Res :=
  vector i s sb.toList
    (fun q => let l := q.opnds [some d, a, b]; elemChecks q.sr.vl (m != 0) (fmt l) l)
    (fun q => q.vec i (.vec fn) (some d) a b m (match sb with | some r => q.reg r | none => 0))

/-- Arithmetic of vd, va and vb in one class (R411). -/
def vvOp (i : Instr) (s : State) (fn : VecFn) (d a b : Ent) (m : MaskNo) : Res :=
  elemOp i s fn d (some a) (some b) none m oneClass

/-- The scalar form: vd and va share one class, and so does the scalar, which has va's format (R410). -/
def vsOp (i : Instr) (s : State) (fn : VecFn) (d a : Ent) (b : Reg) (m : MaskNo) : Res :=
  elemOp i s fn d (some a) none (some b) m oneClass

/-- A comparison into a mask (R416): N above 4096 raises SHAPE, masked or not. -/
def cmpOp (i : Instr) (s : State) (fn : CmpFn) (d : MaskNo) (a b : Ent) (m : MaskNo) : Res :=
  vector i s []
    (fun q => let l := q.opnds [some a, some b]; elemChecks q.sr.vl true (oneClass l) l)
    (fun q => q.vec i (.vcmp fn d) none (some a) (some b) m 0)

/-! ### Element-wise arithmetic (R411, R420) -/

def execVadd (d a b : Ent) (x y : Bit) (m : MaskNo) (s : State) : Res := vvOp (.vadd d a b x y m) s .add d a b m
def execVsub (d a b : Ent) (x y : Bit) (m : MaskNo) (s : State) : Res := vvOp (.vsub d a b x y m) s .sub d a b m
def execVmul (d a b : Ent) (x y : Bit) (m : MaskNo) (s : State) : Res := vvOp (.vmul d a b x y m) s .mul d a b m
def execVdiv (d a b : Ent) (x y : Bit) (m : MaskNo) (s : State) : Res := vvOp (.vdiv d a b x y m) s .div d a b m
def execVmin (d a b : Ent) (x y : Bit) (m : MaskNo) (s : State) : Res := vvOp (.vmin d a b x y m) s .min d a b m
def execVmax (d a b : Ent) (x y : Bit) (m : MaskNo) (s : State) : Res := vvOp (.vmax d a b x y m) s .max d a b m
def execVabs (d a : Ent) (x : Bit) (m : MaskNo) (s : State) : Res :=
  elemOp (.vabs d a x m) s .abs d (some a) none none m oneClass
def execVneg (d a : Ent) (x : Bit) (m : MaskNo) (s : State) : Res :=
  elemOp (.vneg d a x m) s .neg d (some a) none none m oneClass
def execVfma (d a b : Ent) (x y : Bit) (m : MaskNo) (s : State) : Res := vvOp (.vfma d a b x y m) s .fma d a b m
def execVfms (d a b : Ent) (x y : Bit) (m : MaskNo) (s : State) : Res := vvOp (.vfms d a b x y m) s .fms d a b m
def execVsqrt (d a : Ent) (x : Bit) (m : MaskNo) (s : State) : Res :=
  elemOp (.vsqrt d a x m) s .sqrt d (some a) none none m floatClass
def execVrcp (d a : Ent) (x : Bit) (m : MaskNo) (s : State) : Res :=
  elemOp (.vrcp d a x m) s .rcp d (some a) none none m floatClass
def execVrsqrt (d a : Ent) (x : Bit) (m : MaskNo) (s : State) : Res :=
  elemOp (.vrsqrt d a x m) s .rsqrt d (some a) none none m floatClass
def execVexp2 (d a : Ent) (x : Bit) (m : MaskNo) (s : State) : Res :=
  elemOp (.vexp2 d a x m) s .exp2 d (some a) none none m floatClass

/-- The saturating forms take the integer class only (R411). -/
def execVaddSat (d a b : Ent) (x y : Bit) (m : MaskNo) (s : State) : Res :=
  elemOp (.vaddSat d a b x y m) s .addSat d (some a) (some b) none m intClass
def execVsubSat (d a b : Ent) (x y : Bit) (m : MaskNo) (s : State) : Res :=
  elemOp (.vsubSat d a b x y m) s .subSat d (some a) (some b) none m intClass
def execVmulSat (d a b : Ent) (x y : Bit) (m : MaskNo) (s : State) : Res :=
  elemOp (.vmulSat d a b x y m) s .mulSat d (some a) (some b) none m intClass

def execVaddS (d a : Ent) (b : Reg) (x : Bit) (m : MaskNo) (s : State) : Res := vsOp (.vaddS d a b x m) s .add d a b m
def execVsubS (d a : Ent) (b : Reg) (x : Bit) (m : MaskNo) (s : State) : Res := vsOp (.vsubS d a b x m) s .sub d a b m
def execVmulS (d a : Ent) (b : Reg) (x : Bit) (m : MaskNo) (s : State) : Res := vsOp (.vmulS d a b x m) s .mul d a b m
def execVminS (d a : Ent) (b : Reg) (x : Bit) (m : MaskNo) (s : State) : Res := vsOp (.vminS d a b x m) s .min d a b m
def execVmaxS (d a : Ent) (b : Reg) (x : Bit) (m : MaskNo) (s : State) : Res := vsOp (.vmaxS d a b x m) s .max d a b m
def execVfmaS (d a : Ent) (b : Reg) (x : Bit) (m : MaskNo) (s : State) : Res := vsOp (.vfmaS d a b x m) s .fma d a b m

/-! ### Bits and shifts (R412) -/

def execVand (d a b : Ent) (x y : Bit) (m : MaskNo) (s : State) : Res :=
  elemOp (.vand d a b x y m) s .and d (some a) (some b) none m onePlain
def execVor (d a b : Ent) (x y : Bit) (m : MaskNo) (s : State) : Res :=
  elemOp (.vor d a b x y m) s .or d (some a) (some b) none m onePlain
def execVxor (d a b : Ent) (x y : Bit) (m : MaskNo) (s : State) : Res :=
  elemOp (.vxor d a b x y m) s .xor d (some a) (some b) none m onePlain
def execVnot (d a : Ent) (x : Bit) (m : MaskNo) (s : State) : Res :=
  elemOp (.vnot d a x m) s .not d (some a) none none m onePlain
def execVshl (d a b : Ent) (x y : Bit) (m : MaskNo) (s : State) : Res :=
  elemOp (.vshl d a b x y m) s .shl d (some a) (some b) none m shiftFmts
def execVshr (d a b : Ent) (x y : Bit) (m : MaskNo) (s : State) : Res :=
  elemOp (.vshr d a b x y m) s .shr d (some a) (some b) none m shiftFmts
def execVsra (d a b : Ent) (x y : Bit) (m : MaskNo) (s : State) : Res :=
  elemOp (.vsra d a b x y m) s .sra d (some a) (some b) none m shiftFmts
def execVshlSat (d a b : Ent) (x y : Bit) (m : MaskNo) (s : State) : Res :=
  elemOp (.vshlSat d a b x y m) s .shlSat d (some a) (some b) none m shiftFmts
def execVshlS (d a : Ent) (b : Reg) (x : Bit) (m : MaskNo) (s : State) : Res :=
  elemOp (.vshlS d a b x m) s .shl d (some a) none (some b) m shiftFmts
def execVshrS (d a : Ent) (b : Reg) (x : Bit) (m : MaskNo) (s : State) : Res :=
  elemOp (.vshrS d a b x m) s .shr d (some a) none (some b) m shiftFmts
def execVsraS (d a : Ent) (b : Reg) (x : Bit) (m : MaskNo) (s : State) : Res :=
  elemOp (.vsraS d a b x m) s .sra d (some a) none (some b) m shiftFmts

/-! ### Comparisons, moves, selection and conversion (R416, R418, R423) -/

def execVcmpEq (d : MaskNo) (a b : Ent) (x y : Bit) (m : MaskNo) (s : State) : Res := cmpOp (.vcmpEq d a b x y m) s .eq d a b m
def execVcmpNe (d : MaskNo) (a b : Ent) (x y : Bit) (m : MaskNo) (s : State) : Res := cmpOp (.vcmpNe d a b x y m) s .ne d a b m
def execVcmpLt (d : MaskNo) (a b : Ent) (x y : Bit) (m : MaskNo) (s : State) : Res := cmpOp (.vcmpLt d a b x y m) s .lt d a b m
def execVcmpLe (d : MaskNo) (a b : Ent) (x y : Bit) (m : MaskNo) (s : State) : Res := cmpOp (.vcmpLe d a b x y m) s .le d a b m
def execVcmpUn (d : MaskNo) (a b : Ent) (x y : Bit) (m : MaskNo) (s : State) : Res := cmpOp (.vcmpUn d a b x y m) s .un d a b m

/-- VSEL: the mask selects, and names no execution mask (R423). -/
def execVsel (d a b : Ent) (x y : Bit) (m : MaskNo) (s : State) : Res :=
  elemOp (.vsel d a b x y m) s .sel d (some a) (some b) none m onePlain
def execVmov (d a : Ent) (x : Bit) (m : MaskNo) (s : State) : Res :=
  elemOp (.vmov d a x m) s .mov d (some a) none none m oneWidth
def execVidx (d : Ent) (m : MaskNo) (s : State) : Res := elemOp (.vidx d m) s .idx d none none none m intClass

/-- The rounding mode of a suffix: .rn, .rz, .rd, .ru, .sr, .rna (Table 20.11). -/
def rmOfSuffix (r : BitVec 3) : Rm :=
  if r = 0 then .rne else if r = 1 then .rtz else if r = 2 then .rdn else if r = 3 then .rup else if r = 4 then .sr else .rna

def execVcvtRm (d a : Ent) (x : Bit) (m : MaskNo) (r : BitVec 3) (s : State) : Res :=
  elemOp (.vcvtRm d a x m r) s (.cvt (some (rmOfSuffix r))) d (some a) none none m cvtFmts
def execVcvt (d a : Ent) (x : Bit) (m : MaskNo) (s : State) : Res :=
  elemOp (.vcvt d a x m) s (.cvt none) d (some a) none none m cvtFmts

/-! ### Moves between scalars and elements (R415) -/

def execVbcast (d : Ent) (b : Reg) (m : MaskNo) (s : State) : Res :=
  vector (.vbcast d b m) s [b]
    (fun q => elemChecks q.sr.vl (m != 0) true (q.opnds [some d]))
    (fun q => q.vec (.vbcast d b m) .bcast (some d) none none m (q.reg b))

def execVextr (d : Reg) (a : Ent) (b : Reg) (x : Bit) (s : State) : Res :=
  vector (.vextr d a b x) s [d, b]
    (fun q => elemChecks q.sr.vl false true (q.opnds [some a]))
    (fun q => q.vec (.vextr d a b x) (.extr d) none (some a) none 0 (q.reg b))

def execVins (d a : Ent) (b : Reg) (x : Bit) (m : MaskNo) (s : State) : Res :=
  vector (.vins d a b x m) s [b]
    (fun q => let l := q.opnds [some d, some a]; elemChecks q.sr.vl (m != 0) (oneFmt l) l)
    (fun q => q.vec (.vins d a b x m) .ins (some d) (some a) none m (q.reg b))

def execVslide (d a : Ent) (b : Reg) (x : Bit) (m : MaskNo) (s : State) : Res :=
  vector (.vslide d a b x m) s [b]
    (fun q => let l := q.opnds [some d, some a]; elemChecks q.sr.vl (m != 0) (oneFmt l) l)
    (fun q => q.vec (.vslide d a b x m) .slide (some d) (some a) none m (q.reg b))

end Sys2Proof.Machine
end

