-- ==== Sys2Proof/Machine/Reduce.lean ====
section
/-!
DEFINITION. Sys2Proof/Machine/Reduce.lean: issuing the reductions and scans, permutations, block quantisation, Hadamard
stages and N:M selection, with the count rules of their own (R104 to R117, R417, R419, R422, R428 to R430), and the mask
group (R375, R376).
-/
namespace Sys2Proof.Machine

/-- A destination that is too small for the count written (R104). -/
def tooSmall (o : Opnd) (n : Nat) : Option Bad :=
  match o.shape with
  | some t => badIf (decide (t.cap < n)) (.shape o.ent)
  | none => some (.shape o.ent)

/-- N of an operand (Table 3.4). -/
def Opnd.count (o : Opnd) (vl : Nat) : Nat := match o.shape with | some t => t.count vl | none => 0

def Opnd.fmt (o : Opnd) : Option Fmt := o.shape.map (·.fmt)

/-! ### Reductions and scans -/

/-- VRSUM, VRMAX and VRMIN (R105, R430): vd is written by capacity. -/
def reduceOp (i : Instr) (s : State) (fn : RedFn) (d a : Ent) (m : MaskNo) : Res :=
  vector i s []
    (fun q =>
      let l := q.opnds [some d, some a]
      let vl := q.sr.vl
      firstOf [firstBad anyKind l, badIf (!oneClass l) .illop, firstLong vl [q.opnd a], overMask vl (m != 0) [q.opnd a]])
    (fun q => q.vec i (.red fn false) (some d) (some a) none m 0)

/-- The .seg reductions wait for their flags, and check the number of segments against cap(vd) (R107). -/
def segOp (i : Instr) (s : State) (fn : RedFn) (d a : Ent) (m : MaskNo) : Res :=
  ctl i s fun key q => waitOn s key (q.maskBusy m)
    (vector i s []
      (fun q =>
        let l := q.opnds [some d, some a]
        let vl := q.sr.vl
        let n := (q.opnd a).count vl
        firstOf [firstBad anyKind l, badIf (!oneClass l) .illop, firstLong vl [q.opnd a], overMask vl true [q.opnd a],
          tooSmall (q.opnd d) (segStarts (maskBit (q.mask m)) n).length])
      (fun q => q.vec i (.red fn true) (some d) (some a) none m 0))

/-- VSCAN and VSCAN.seg (R106, R107). -/
def scanOp (i : Instr) (s : State) (seg : Bool) (d a : Ent) (m : MaskNo) : Res :=
  vector i s []
    (fun q => let l := q.opnds [some d, some a]; elemChecks q.sr.vl (m != 0) (oneClass l) l)
    (fun q => q.vec i (.red .scan seg) (some d) (some a) none m 0)

def execVrsum (d a : Ent) (x : Bit) (m : MaskNo) (s : State) : Res := reduceOp (.vrsum d a x m) s .sum d a m
def execVrmax (d a : Ent) (x : Bit) (m : MaskNo) (s : State) : Res := reduceOp (.vrmax d a x m) s .max d a m
def execVrmin (d a : Ent) (x : Bit) (m : MaskNo) (s : State) : Res := reduceOp (.vrmin d a x m) s .min d a m
def execVscan (d a : Ent) (x : Bit) (m : MaskNo) (s : State) : Res := scanOp (.vscan d a x m) s false d a m
def execVrsumSeg (d a : Ent) (x : Bit) (m : MaskNo) (s : State) : Res := segOp (.vrsumSeg d a x m) s .sum d a m
def execVrmaxSeg (d a : Ent) (x : Bit) (m : MaskNo) (s : State) : Res := segOp (.vrmaxSeg d a x m) s .max d a m
def execVrminSeg (d a : Ent) (x : Bit) (m : MaskNo) (s : State) : Res := segOp (.vrminSeg d a x m) s .min d a m
def execVscanSeg (d a : Ent) (x : Bit) (m : MaskNo) (s : State) : Res := scanOp (.vscanSeg d a x m) s true d a m

/-! ### Permutations -/

/-- VPERM (R429). -/
def execVperm (d a b : Ent) (x y : Bit) (m : MaskNo) (s : State) : Res :=
  vector (.vperm d a b x y m) s []
    (fun q =>
      let l := q.opnds [some d, some a, some b]
      let vl := q.sr.vl
      firstOf [firstBad anyKind l, badIf (!(oneFmt (l.take 2) && intClass [q.opnd b])) .illop, firstLong vl l,
        firstUneven vl [q.opnd d, q.opnd b], overMask vl (m != 0) l])
    (fun q => q.vec (.vperm d a b x y m) .perm (some d) (some a) (some b) m 0)

/-- VCOMPR (R417). -/
def execVcompr (d a : Ent) (x : Bit) (m : MaskNo) (s : State) : Res :=
  vector (.vcompr d a x m) s []
    (fun q =>
      let l := q.opnds [some d, some a]
      let vl := q.sr.vl
      firstOf [firstBad anyKind l, badIf (!oneFmt l) .illop, firstLong vl [q.opnd a], overMask vl true [q.opnd a],
        tooSmall (q.opnd d) ((q.opnd a).count vl)])
    (fun q => q.vec (.vcompr d a x m) .compr (some d) (some a) none m 0)

/-- VEXPND reads va by capacity (R417). -/
def execVexpnd (d a : Ent) (x : Bit) (m : MaskNo) (s : State) : Res :=
  vector (.vexpnd d a x m) s []
    (fun q =>
      let l := q.opnds [some d, some a]
      let vl := q.sr.vl
      firstOf [firstBad anyKind l, badIf (!oneFmt l) .illop, firstLong vl [q.opnd d], overMask vl true [q.opnd d],
        tooSmall (q.opnd a) ((q.opnd d).count vl)])
    (fun q => q.vec (.vexpnd d a x m) .expnd (some d) (some a) none m 0)

/-- VNMSEL (R117, R428): N(va) × n / M elements to vd and to vb. -/
def execVnmsel (d a b : Ent) (x : Bit) (s : State) : Res :=
  vector (.vnmsel d a b x) s []
    (fun q =>
      let l := q.opnds [some d, some a, some b]
      let vl := q.sr.vl
      let (n, m) := nmOf q.sr.nmsel
      let na := (q.opnd a).count vl
      let ok := onePlain (l.take 2) && fmtsOk (fun f => f == .uint4 || f == .uint8) [q.opnd b]
      firstOf [firstBad anyKind l, badIf (!ok) .illop, firstLong vl [q.opnd a], badIf (decide (na % m ≠ 0)) (.shape a),
        tooSmall (q.opnd d) (na / m * n), tooSmall (q.opnd b) (na / m * n)])
    (fun q => q.vec (.vnmsel d a b x) .nmsel (some d) (some a) (some b) 0 0)

/-! ### Block quantisation (R110, R114, R419) -/

def wideFloat (f : Fmt) : Bool := f == .fp32 || f == .bf16 || f == .fp16

/-- Codes and scales that form a pairing of R110. -/
def pairing (codes scales : Option Fmt) : Bool :=
  match codes, scales with
  | some .mxfp4, some .e8m0 | some .e4m3, some .e8m0 | some .e5m2, some .e8m0 => true
  | some .uint4, some .qpair | some .uint8, some .qpair => true
  | _, _ => false

/-- Blocks of a quantisation of N elements, and the extent of their codes with padding (R110). -/
def blockCount (t : Shape) (n b : Nat) : Nat :=
  match t.kind with
  | .rect => t.h * ceilDiv t.w b
  | _ => ceilDiv n b

/-- VQNT's destination has the extent of its source with padding: a RECT H × Wp for a RECT, else at least P (R110). -/
def quantRoom (o : Opnd) (ta : Shape) (n b : Nat) : Option Bad :=
  match ta.kind with
  | .rect =>
    match o.shape with
    | some t => badIf (!(t.kind == .rect && t.h == ta.h && t.w == b * ceilDiv ta.w b)) (.shape o.ent)
    | none => some (.shape o.ent)
  | _ => tooSmall o (b * ceilDiv n b)

/-- The open chain that an instruction with source va goes on with (R72), with the stage at the end of the queue where the
VSAMPLE counter chose that. -/
def Seat.openChain (q : Seat) (a : Ent) : Option Chain :=
  if a = 63 then
    q.byp.map fun ch => match q.pend.getLast? with
      | some c => if c.isStage && c.sampled then { ch with sampled := ch.sampled ++ [c.pc] } else ch
      | none => ch
  else none

/-- An instruction that goes on with a chain takes the stage before it into itself: the chain is performed as one (R83). -/
def Seat.takeStage (q : Seat) (a : Ent) : Seat :=
  match q.pend.getLast? with
  | some c => if a = 63 && c.isStage then { q with pend := q.pend.dropLast } else q
  | none => q

/-- VQNT; v63 stands for the chain that ends here (R72). -/
def execVqnt (d a b : Ent) (x : Bit) (s : State) : Res :=
  vectorThen (.vqnt d a b x) s []
    (fun q =>
      let oa := q.srcOpnd a true
      let l := [q.opnd d, oa, q.opnd b]
      let vl := q.sr.vl
      let ta := oa.shape.getD ⟨.row, 0, 0, 0, 0, .fp32⟩
      let n := ta.count vl
      let bs := quantB ((q.opnd d).fmt.getD .uint8) q.sr.qblk
      let ok := fmtsOk wideFloat [oa] && pairing (q.opnd d).fmt (q.opnd b).fmt
      firstOf [firstBad anyKind l, badIf (!ok) .illop, firstLong vl [oa], quantRoom (q.opnd d) ta n bs,
        tooSmall (q.opnd b) (blockCount ta n bs)])
    (fun q =>
      { q.vec (.vqnt d a b x) .qnt (some d) (some a) (some b) 0 0 with
        a := (q.srcOpnd a true).shape, chain := q.openChain a })
    (fun _ q' => q'.takeStage a)

/-- VDQNT. -/
def execVdqnt (d a b : Ent) (x y : Bit) (s : State) : Res :=
  vector (.vdqnt d a b x y) s []
    (fun q =>
      let l := q.opnds [some d, some a, some b]
      let vl := q.sr.vl
      let ta := (q.opnd a).shape.getD ⟨.row, 0, 0, 0, 0, .fp32⟩
      let ok := fmtsOk wideFloat (l.take 1) && pairing (q.opnd a).fmt (q.opnd b).fmt
      firstOf [firstBad anyKind l, badIf (!ok) .illop, firstLong vl (l.take 2), firstUneven vl (l.take 2),
        tooSmall (q.opnd b) (blockCount ta (ta.count vl) (quantB ta.fmt q.sr.qblk))])
    (fun q => q.vec (.vdqnt d a b x y) .dqnt (some d) (some a) (some b) 0 0)

/-! ### Hadamard stages (R115, R116, R422) -/

/-- The operand's rows, or its run, are whole blocks. -/
def wholeBlocks (vl b : Nat) : List Opnd → Option Bad
  | [] => none
  | o :: t =>
    match o.shape with
    | some sh =>
      let n := match sh.kind with | .rect => sh.w | _ => sh.count vl
      if n % b = 0 then wholeBlocks vl b t else some (.shape o.ent)
    | none => some (.shape o.ent)

def hadChecks (q : Seat) (k : BitVec 6) (l : List Opnd) : Option Bad :=
  let b := blockSize q.sr.qblk
  firstOf [firstBad anyKind l, badIf (!(oneFmt l && fmtsOk wideFloat l) || decide (b < 2 ^ (k.toNat + 1))) .illop,
    firstLong q.sr.vl l, firstUneven q.sr.vl l, wholeBlocks q.sr.vl b l]

def execVhad (d a : Ent) (k : BitVec 6) (x : Bit) (s : State) : Res :=
  vector (.vhad d a k x) s []
    (fun q => hadChecks q k (q.opnds [some d, some a]))
    (fun q => q.vec (.vhad d a k x) (.had k.toNat false) (some d) (some a) none 0 0)

/-- The chain that a VHAD.c goes on with, or begins (R72, R116). -/
def Seat.stageChain (q : Seat) (a : Ent) : Option Chain :=
  (q.openChain a).orElse fun _ => (q.entry a).map fun t => ⟨t, a, q.curPc, q.replay, [], []⟩

/-- VHAD.c writes byp: the chain that a following VHAD.c or VQNT may name as v63 (R72, R116). -/
def execVhadC (a : Ent) (k : BitVec 6) (x : Bit) (s : State) : Res :=
  vectorThen (.vhadC a k x) s []
    (fun q => hadChecks q k [q.srcOpnd a true])
    (fun q =>
      { q.vec (.vhadC a k x) (.had k.toNat true) none (some a) none 0 0 with
        dEnt := 63, a := (q.srcOpnd a true).shape, chain := q.stageChain a })
    (fun q q' =>
      { q'.takeStage a with byp := (q.stageChain a).map fun ch => { ch with stages := ch.stages ++ [k.toNat] } })

/-! ### The mask group (R375, R376) -/

/-- A MASK instruction captures VL and joins the V queue. -/
def maskOp (i : Instr) (s : State) (fn : MaskFn) (md ma mb : MaskNo) (regs : List Reg) (d : Reg) (x : Seat → Word) : Res :=
  vector i s regs (fun _ => none) (fun q => q.vec i (.mask fn md ma mb d) none none none 0 (x q))

def execMand (d a b : MaskNo) (s : State) : Res := maskOp (.mand d a b) s .and d a b [] 0 fun _ => 0
def execMor (d a b : MaskNo) (s : State) : Res := maskOp (.mor d a b) s .or d a b [] 0 fun _ => 0
def execMxor (d a b : MaskNo) (s : State) : Res := maskOp (.mxor d a b) s .xor d a b [] 0 fun _ => 0
def execMandn (d a b : MaskNo) (s : State) : Res := maskOp (.mandn d a b) s .andn d a b [] 0 fun _ => 0
def execMnot (d a : MaskNo) (s : State) : Res := maskOp (.mnot d a) s .not d a 0 [] 0 fun _ => 0
def execMpop (d : Reg) (a : MaskNo) (s : State) : Res := maskOp (.mpop d a) s .pop 0 a 0 [d] d fun _ => 0
def execMfirst (d : Reg) (a : MaskNo) (s : State) : Res := maskOp (.mfirst d a) s .first 0 a 0 [d] d fun _ => 0
def execMsetn (d : MaskNo) (a : Reg) (s : State) : Res := maskOp (.msetn d a) s .setn d 0 0 [a] 0 fun q => q.reg a

end Sys2Proof.Machine
end

