-- ==== Sys2Proof/Machine/VecMem.lean ====
section
/-!
DEFINITION. Sys2Proof/Machine/VecMem.lean: issuing the vector memory instructions (R247, R413, R424 to R427) and CPIX (R190,
R350): their checks at issue and what each captures.
-/
namespace Sys2Proof.Machine

def anyFmt (_ : Fmt) : Bool := true
def notNibble (f : Fmt) : Bool := f.width != 4
/-- The index formats (R350, R427). -/
def indexFmt (f : Fmt) : Bool := f == .int32 || f == .uint32 || f == .int16 || f == .uint16

/-- b, the stride and the pitch are multiples of e (R424); EVAL := b. -/
def alignedTo (o : Opnd) (b : Word) (others : List Word) : Option Bad :=
  match o.shape with
  | some t =>
    let e := if t.fmt.width = 4 then 1 else t.fmt.width / 8
    badIf ((b :: others).any fun w => decide (w.toNat % e ≠ 0)) (.align b)
  | none => some (.shape o.ent)

/-- A direct, strided or pitched access (Table 20.18). -/
def vmemOp (i : Instr) (s : State) (cmd : Cmd) (v : Ent) (b : Reg) (st : Option Reg) (m : MaskNo) (kind : Shape → Bool)
    (fmt : Fmt → Bool) : Res :=
  vector i s (b :: st.toList)
    (fun q =>
      let l := q.opnds [some v]
      firstOf [firstBad kind l, badIf (!fmtsOk fmt l) .illop, firstLong q.sr.vl l, overMask q.sr.vl (m != 0) l,
        alignedTo (q.opnd v) (q.reg b) (st.toList.map q.reg)])
    (fun q => { q.vec i cmd (some v) none none m (q.reg b) with y := match st with | some r => q.reg r | none => 0 })

def execVld (v : Ent) (b : Reg) (m : MaskNo) (s : State) : Res :=
  vmemOp (.vld v b m) s (.vload .unit false) v b none m anyKind anyFmt
def execVlds (v : Ent) (b st : Reg) (m : MaskNo) (s : State) : Res :=
  vmemOp (.vlds v b st m) s (.vload .strided false) v b (some st) m anyKind notNibble
def execVldf (v : Ent) (b : Reg) (m : MaskNo) (s : State) : Res :=
  vmemOp (.vldf v b m) s (.vload .unit true) v b none m isRow anyFmt
def execVst (v : Ent) (b : Reg) (m : MaskNo) (s : State) : Res :=
  vmemOp (.vst v b m) s (.vstore .unit true) v b none m anyKind anyFmt
def execVsts (v : Ent) (b st : Reg) (m : MaskNo) (s : State) : Res :=
  vmemOp (.vsts v b st m) s (.vstore .strided true) v b (some st) m anyKind notNibble
def execVld2 (v : Ent) (b st : Reg) (m : MaskNo) (s : State) : Res :=
  vmemOp (.vld2 v b st m) s (.vload .pitched false) v b (some st) m isRect anyFmt
def execVst2 (v : Ent) (b st : Reg) (m : MaskNo) (s : State) : Res :=
  vmemOp (.vst2 v b st m) s (.vstore .pitched true) v b (some st) m isRect anyFmt

/-- An indexed access (R427): N(vi) equals N(v). Whether an address is a multiple of e the probe pass finds, in either mode
(assumption 65). -/
def vindexOp (i : Instr) (s : State) (cmd : Cmd) (v : Ent) (b : Reg) (vi : Ent) (m : MaskNo) : Res :=
  vector i s [b]
    (fun q =>
      let l := q.opnds [some v, some vi]
      elemChecks q.sr.vl (m != 0) (fmtsOk notNibble (l.take 1) && fmtsOk indexFmt (l.drop 1)) l)
    (fun q => q.vec i cmd (some v) none (some vi) m (q.reg b))

def execVldx (v : Ent) (b : Reg) (i : Ent) (c : Bit) (o : BitVec 2) (m : MaskNo) (s : State) : Res :=
  vindexOp (.vldx v b i c o m) s (.vload (.indexed (o == 0)) false) v b i m
def execVstxO (v : Ent) (b : Reg) (i : Ent) (c : Bit) (o : BitVec 2) (m : MaskNo) (s : State) : Res :=
  vindexOp (.vstxO v b i c o m) s (.vstore (.indexed (o == 0)) true) v b i m
def execVstxU (v : Ent) (b : Reg) (i : Ent) (c : Bit) (o : BitVec 2) (m : MaskNo) (s : State) : Res :=
  vindexOp (.vstxU v b i c o m) s (.vstore (.indexed (o == 0)) false) v b i m

/-- VAPPEND (R413): the header is 64-byte aligned. -/
def execVappend (a : Ent) (b : Reg) (x : Bit) (m : MaskNo) (s : State) : Res :=
  vector (.vappend a b x m) s [b]
    (fun q =>
      let l := q.opnds [some a]
      firstOf [elemChecks q.sr.vl (m != 0) (fmtsOk notNibble l) l, badIf (decide ((q.reg b).toNat % 64 ≠ 0)) (.align (q.reg b))])
    (fun q => q.vec (.vappend a b x m) .append none (some a) none m (q.reg b))

/-! ### Commands that name a tag (R191) -/

/-- Issue of a command that names a tag waits until the earlier one that names it has set it. -/
def Seat.tagBusy (q : Seat) (t : Nat) : Bool := q.tagsOut.contains t

/-- The tag and its fault bit are cleared, and the tag is outstanding. -/
def Seat.takeTag (q : Seat) (t : Nat) : Seat :=
  { q.clearTag t with tagsOut := q.tagsOut ++ [t] }

/-- CPIX (R190, R350): the formats of valid entries are checked first (R331). -/
def execCpix (d a : Ent) (b : Reg) (m : MaskNo) (t : BitVec 6) (s : State) : Res :=
  ctl (.cpix d a b m t) s fun key q => joinFirst s key q <| waitOn s key (q.tagBusy t.toNat)
    (vectorThen (.cpix d a b m t) s [b]
      (fun q =>
        let l := q.opnds [some d, some a]
        firstOf [badIf (wrongFmt notNibble (l.take 1) || wrongFmt indexFmt (l.drop 1)) .illop, firstBad isRow l,
          firstLong q.sr.vl l])
      (fun q => q.vec (.cpix d a b m t) (.cpix m t.toNat) (some d) (some a) none 0 (q.reg b))
      (fun _ q => q.takeTag t.toNat))

end Sys2Proof.Machine
end

