-- ==== Sys2Proof/Machine/Copy.lean ====
section
/-!
DEFINITION. Sys2Proof/Machine/Copy.lean: the COPY group (R182 to R184, R195, R346, R349) and what the copy engines do on
their own, for a saved seat too (R252): transfers that complete (R188, R199, R347), operands consumed (R196), transform
routines (R197, R198) and the gathers of CPIX (R190, R200).
-/
namespace Sys2Proof.Machine

/-! ### Descriptors (Tables 8.1 and 8.2) -/

/-- The descriptor's rounding mode; 6 is ROUND.MODE as captured. -/
def rmOfCode (code : Nat) (mode : Rm) : Option Rm :=
  match code with
  | 0 => some .rne | 1 => some .rtz | 2 => some .rdn | 3 => some .rup | 4 => some .rna | 5 => some .sr | 6 => some mode
  | _ => none

/-- A 4-bit format has stride 0 (Table 8.2). -/
def nibbleOk (f : Fmt) (stride : Int) : Bool := f.width != 4 || stride == 0

/-- The pairings of formats that a COPY admits (Table 8.2). -/
def copyFmts (sf df : Fmt) (conv : Bool) : Bool :=
  if conv then sf == .tbl8 && df.width == 16
  else sf == df || (sf.cls != .special && df.cls != .special)

/-- The kinds of copy command. -/
inductive CopyKind where
  | cfg | xform | image
  deriving DecidableEq, Repr

/-- The command a descriptor describes, or `none` when it breaks Table 8.2, R183 or R346. -/
def copyCmdOf (q : Seat) (k : CopyKind) (desc avl : Word) (l : List Byte) : Option Cmd :=
  let v := leNat l
  let sfmtC := bits v 195 5
  let dfmtC := bits v 200 5
  let sstr := signedOf 32 (bits v 128 32)
  let dstr := signedOf 32 (bits v 160 32)
  let dst := BitVec.ofNat 64 (bits v 64 64)
  let kind := bits v 205 2
  let conv := v.testBit 207
  let rmC := bits v 208 3
  let tag := bits v 211 6
  let ocv := v.testBit 217
  let octag := bits v 218 6
  let routine := BitVec.ofNat 64 (bits v 256 64)
  let rarg := BitVec.ofNat 64 (bits v 320 64)
  let common := decide (bits v 192 3 = 0) && decide (bits v 224 32 = 0) && decide (tag ≠ 63) && decide (octag ≠ 63)
    && (ocv || octag == 0) && !(ocv && octag == tag) && decide (avl.toNat < 2 ^ 32)
  match Fmt.ofCode sfmtC, Fmt.ofCode dfmtC, rmOfCode rmC q.sr.mode with
  | some sf, some df, some rm =>
    let x : Xfer := { avl := avl.toNat, desc := desc, src := BitVec.ofNat 64 (bits v 0 64), dst := dst, sstr := sstr
                      dstr := dstr, sfmt := sf, dfmt := df, conv := conv, rm := rm, ovfns := q.sr.ovfns, tag := tag
                      octag := if ocv then some octag else none, routine := routine, rarg := rarg
                      maxvl := q.sr.maxvl, seed := q.sr.seed }
    let plain := sfmtC == 0 && dfmtC == 0 && sstr == 0 && dstr == 0 && !conv && rmC == 0
    match k with
    | .cfg =>
      if kind = 0 then
        if common && dst == 0 && dstr == 0 && dfmtC == 0 && !conv && rmC == 0 && routine == 0 && rarg == 0 && sf.width != 4
        then some (.prefetch x) else none
      else if common && kind == 1 && routine == 0 && rarg == 0 && nibbleOk sf sstr && nibbleOk df dstr && copyFmts sf df conv
        then some (.copy x) else none
    | .xform => if common && kind == 1 && routine != 0 && plain then some (.xform x) else none
    | .image =>
      if common && kind == 1 && plain && routine == 0 && rarg == 0 && decide (dst.toNat % 256 = 0) then some (.image x)
      else none
  | _, _, _ => none

/-- Issue of a copy command (R346): the descriptor is read as one 64-byte load of the P queue. -/
def copyOp (i : Instr) (s : State) (k : CopyKind) (a b : Reg) (ch : BitVec 2) : Res :=
  ctl i s fun key q => waitOn s key (q.busy a || q.busy b || q.pHeld i)
    (let d := q.reg b
     match s.access key q (.load 64) d 64 d.toNat 64 q.curPc with
     | .trap t s => .next (s.raise key t)
     | .wait => .next (s.stall key)
     | .ok h s' =>
       match s'.read (coreOf key) q.cin h 64 with
       | .error f => .next (s.raise key (trapOf f d q.curPc))
       | .ok r =>
         let s' := r.st.noteExp key r.expired
         match s'.seat key with
         | none => .next s'
         | some q =>
           match copyCmdOf q k d (q.reg a) r.bytes with
           | none => .next (s'.bad key q i .illop)
           | some cmd =>
             match cmd.xfer with
             | none => .next s'
             | some x =>
               let tags := x.tag :: x.octag.toList
               waitOn s key (tags.any q.tagBusy)
                 (s'.issueThen key q (q.capture i cmd (.c ch.toNat)) fun q => tags.foldl Seat.takeTag q))

def execCpcfg (a b : Reg) (c : BitVec 2) (s : State) : Res := copyOp (.cpcfg a b c) s .cfg a b c
def execCpxf (a b : Reg) (c : BitVec 2) (s : State) : Res := copyOp (.cpxf a b c) s .xform a b c
def execCpimg (a b : Reg) (c : BitVec 2) (s : State) : Res := copyOp (.cpimg a b c) s .image a b c

/-- CPDRN (R195, R349). -/
def execCpdrn (c : BitVec 2) (s : State) : Res :=
  ctl (.cpdrn c) s fun key q =>
    .next (s.setSeat key (if q.drained c.toNat then q.advance else q.waitFor (.cpdrn c.toNat)))

/-! ### What the engines do -/

/-- What an event comes to: where it cannot take place the machine stops by its name. -/
def enabled (what : String) : Option State → Res
  | some s => .next s
  | none => .fault (.notEnabled what)

/-- The transfer at work on a channel of a seat, resident or saved, where it is of the kind an event asks for. -/
def onChannel (s : State) (seat ch : Nat) (what : String) (f : State → Seat → Active → Xfer → Option State) : Res :=
  enabled what (s.onSeat seat fun s q => (q.transfer ch).bind fun (a, x) => f s q a x)

/-- The data is moved, if it has not been, and the command completes (R188, R199, R347). -/
def State.finishTransfer (s : State) (seat ch : Nat) (a : Active) (x : Xfer) : Option State :=
  (s.moveData seat a).bind fun (a, s) => s.copyDone seat ch x a.consumed a.fault a.done

/-- COPY_TRANSFER_COMPLETE (R188, R347). -/
def execCopyTransferComplete (seat ch : Nat) (s : State) : Res :=
  onChannel s seat ch "COPY_TRANSFER_COMPLETE" fun s _ a x =>
    match a.cap.cmd with | .copy _ => s.finishTransfer seat ch a x | _ => none

/-- IMAGE_COMPLETE (R199, R348). -/
def execImageComplete (seat ch : Nat) (s : State) : Res :=
  onChannel s seat ch "IMAGE_COMPLETE" fun s _ a x =>
    match a.cap.cmd with | .image _ => s.finishTransfer seat ch a x | _ => none

/-- Every source byte of a transfer has been read (R196): of a PREFETCH once the remaining strips are in its buffer, of a
routine's stream once the source is exhausted; a copy or an image moves its data for it. -/
def State.consume (s : State) (seat : Nat) (a : Active) (x : Xfer) : Option (Active × State) :=
  match a.cap.cmd with
  | .prefetch _ =>
    let l := a.left.toNat
    if l ≤ 2 * x.maxvl ∧ (stripLines x a.done l).length ≤ 256 then some (a, s) else none
  | .xform _ => if x.avl ≤ a.taken then some (a, s) else none
  | _ => s.moveData seat a

/-- OPERANDS_CONSUMED (R182, R196, R347): OCTAG is set, and its TAGFAULT bit stays 0. -/
def execOperandsConsumed (seat ch : Nat) (s : State) : Res :=
  onChannel s seat ch "OPERANDS_CONSUMED" fun s _ a x =>
    match x.octag with
    | none => none
    | some t =>
      if a.consumed then none
      else (s.consume seat a x).map fun (a, s) =>
        s.mapSeat seat fun q => (q.setTag t false).setTransfer ch { a with consumed := true }

/-- PREFETCH_COMPLETE (R185, R187): the transfer has nothing left, a later command has reached the head of its channel, or
the seat has halted. -/
def execPrefetchComplete (seat ch : Nat) (s : State) : Res :=
  onChannel s seat ch "PREFETCH_COMPLETE" fun s q a _ =>
    match a.cap.cmd with
    | .prefetch _ =>
      if a.left ≤ 0 ∨ q.halted ∨ q.pend.any (fun c => c.queue == .c ch) then s.endPrefetch seat ch else none
    | _ => none

/-! ### Routines -/

/-- A routine's command ends with a fault (R197, R198, R257). -/
def State.endRoutine (s : State) (seat ch : Nat) (a : Active) (x : Xfer) (f : EFault) : Option State :=
  s.copyDone seat ch x a.consumed (some f) a.done

/-- A transform routine is at work on the channel. -/
def onRoutine (s : State) (seat ch : Nat) (what : String) (f : State → Seat → Active → Xfer → Option State) : Res :=
  onChannel s seat ch what fun s q a x =>
    match a.cap.cmd, a.routine with
    | .xform _, some r => if r.stopped then none else f s q a x
    | _, _ => none

/-- The bytes of an ECALL are drained; an a0 above 32 KiB ends the command with ILLOP (R198). -/
def State.drainOr (s : State) (seat ch : Nat) (q : Seat) (a : Active) (x : Xfer) (bs : List Byte)
    (k : State → Active → Option State) : Option State :=
  if sbBytes < bs.length then s.endRoutine seat ch a x ⟨⟨codeIllop, 0⟩, 0⟩
  else
    match s.drainChunk seat q x a.done bs with
    | .error none => none
    | .error (some f) => s.endRoutine seat ch a x f
    | .ok s => k s { a with done := a.done + bs.length }

/-- The routine goes on with the next chunk of its source (R198), on a transform core. -/
def State.nextChunk (s : State) (seat ch core : Nat) (q : Seat) (a : Active) (x : Xfer) (out : List Byte) : Option State :=
  match s.fillChunk (q.engine seat) x a.taken with
  | .error f => s.endRoutine seat ch a x f
  | .ok (chunk, s) => some (s.mapSeat seat (·.setTransfer ch
      { a with taken := a.taken + chunk.length, since := s.devtime
               routine := a.routine.map fun r => { r.yielded out chunk with core := core, stopped := false } }))

/-- ROUTINE_YIELD (R198): `bytes` are the first a0 bytes of SB1. Where the seat is being pre-empted, the routine stops here, and
its place in the stream is kept (Table 11.6). -/
def execRoutineYield (seat ch : Nat) (bytes : List Byte) (s : State) : Res :=
  onRoutine s seat ch "ROUTINE_YIELD" fun s q a x => s.drainOr seat ch q a x bytes fun s a =>
    if q.stopping.isSome then
      some (s.mapSeat seat (·.setTransfer ch { a with routine := a.routine.map fun r => { r with sb1 := bytes, stopped := true } }))
    else
      match a.routine with
      | some r => s.nextChunk seat ch r.core q a x bytes
      | none => none

/-- A routine that pre-emption stopped goes on once its seat is resident again and a transform core of the die is free (R198,
R252). -/
def resumeRoutine (seat ch : Nat) (s : State) : Res :=
  onChannel s seat ch "ROUTINE_YIELD" fun s q a x =>
    match a.routine, s.coreFree ((List.range coresPerDie).map (coresPerDie * dieOf (q.place seat) + ·)) with
    | some r, some u => if r.stopped && q.stopping.isNone then s.nextChunk seat ch u q a x r.sb1 else none
    | _, _ => none

/-- ROUTINE_DONE (R198, R347). -/
def execRoutineDone (seat ch : Nat) (bytes : List Byte) (s : State) : Res :=
  onRoutine s seat ch "ROUTINE_DONE" fun s q a x => s.drainOr seat ch q a x bytes fun s a =>
    s.copyDone seat ch x a.consumed none a.done

/-- ROUTINE_FAIL (R198): CAUSE TRAP with detail a0[7:0]. -/
def execRoutineFail (seat ch : Nat) (code : Byte) (s : State) : Res :=
  onRoutine s seat ch "ROUTINE_FAIL" fun s _ a x => s.endRoutine seat ch a x ⟨⟨codeTrap, code⟩, 0⟩

/-- ROUTINE_ILLEGAL_ACCESS (R197, R198): an access outside Table 8.9, or an illegal instruction. -/
def execRoutineIllegalAccess (seat ch : Nat) (illegal : Bool) (s : State) : Res :=
  onRoutine s seat ch "ROUTINE_ILLEGAL_ACCESS" fun s _ a x =>
    s.endRoutine seat ch a x ⟨if illegal then ⟨codeIllop, 0⟩ else xRtnAccess, 0⟩

/-- The floor of the routine watchdog in device-time ticks (Table 11.7). -/
def routineFloor : Nat := 732

/-- ROUTINE_WATCHDOG (R257): the floor has passed; that the budget of granted cycles is spent is what the event says. -/
def execRoutineWatchdog (seat ch : Nat) (s : State) : Res :=
  onRoutine s seat ch "ROUTINE_WATCHDOG" fun s _ a x =>
    if a.since + routineFloor ≤ s.devtime then s.endRoutine seat ch a x ⟨⟨codeTimeout, 1⟩, 0⟩ else none

/-! ### CPIX -/

/-- The tag of a gather. -/
def Gather.tag (g : Gather) : Nat := match g.cap.cmd with | .cpix _ t => t | _ => 63

/-- CPIX_GATHER_COMPLETE (R190, R200). -/
def execCpixGatherComplete (seat tag : Nat) (s : State) : Res :=
  enabled "CPIX_GATHER_COMPLETE" (s.onSeat seat fun s q => (q.gathers.find? fun g => g.tag = tag).map fun g =>
    (s.endGather seat g tag).mapSeat seat fun q => { q with gathers := q.gathers.filter fun g => g.tag ≠ tag })

end Sys2Proof.Machine
end

