-- ==== Sys2Proof/Machine/Fetch.lean ====
section
/-!
DEFINITION. Sys2Proof/Machine/Fetch.lean: the next word of a thread: from memory (R138, R309), from the run that REPF
captured, shifted (R133, R134, R392), or from a lane cluster's buffer (R49).
-/
namespace Sys2Proof.Machine

/-! ### Words and blocks from memory -/

/-- A fetched line enters the core's instruction L1, as the most recently fetched: one that was not there is a 64-byte request to
its page (R160), and the line fetched least recently leaves a full one (R1). No copy of it answers instead of the home
(assumption 8). -/
def State.fillLine (s : State) (who : Accessor) (h : Hit) : State :=
  match (if h.mt = 4 then none else who.core) with
  | none => s
  | some c =>
    let k := (who.cin, linePa h.pa)
    let old := (s.core c).il1
    let s := if old.contains k then s else s.countEpoch who.die h.pa h.plc
    s.setCore c { s.core c with il1 := k :: (old.filter fun x => x != k).take (Config.il1Lines - 1) }

/-- A word fetched at an address, or the trap of an instruction at `pc` that needs it. -/
def State.fetchAt (s : State) (who : Accessor) (a pc : Word) : Except Trap (BitVec 32 × State) :=
  match s.translate who .fetch a with
  | (.fault f, _) => .error (trapOf f a pc)
  | (.wait, _) => .error (trapOf xNotValid a pc)
  | (.ok h, s) =>
    match (s.fillLine who h).homeRead h 4 with
    | .error f => .error (trapOf f a pc)
    | .ok r => .ok (wordOfBytes (nth 0 r.bytes 0) (nth 0 r.bytes 1) (nth 0 r.bytes 2) (nth 0 r.bytes 3), r.st)

/-- A 512-byte block of instructions, line by line (R49). -/
def State.fetchLines (s : State) (who : Accessor) (a : Word) : Nat → Except AFault (List Byte × State)
  | 0 => .ok ([], s)
  | n + 1 =>
    match s.translate who .fetch a with
    | (.fault f, _) => .error f
    | (.wait, _) => .error xNotValid
    | (.ok h, s) =>
      match (s.fillLine who h).homeRead h 64 with
      | .error f => .error f
      | .ok r =>
        match r.st.fetchLines who (a + 64) n with
        | .error f => .error f
        | .ok (l, s) => .ok (r.bytes ++ l, s)

def blockBase (block : Nat) : Word := BitVec.ofNat 64 (512 * block)
def State.fetchBlock (s : State) (who : Accessor) (block : Nat) : Except AFault (List Byte × State) :=
  s.fetchLines who (blockBase block) 8

/-! ### Replays (R133, R134, R392, Table 19.6) -/

/-- A shifted entry field: at most v62, else the failing value modulo 64. -/
def shiftEnt (e : Ent) (k : Nat) : Except Ent Ent :=
  if e.toNat + k ≤ 62 then .ok (BitVec.ofNat 6 (e.toNat + k)) else .error (BitVec.ofNat 6 (e.toNat + k))

def shift1 (k : Nat) (a : Ent) (f : Ent → Instr) : Except Ent Instr := (shiftEnt a k).map f
def shift2 (k : Nat) (a b : Ent) (f : Ent → Ent → Instr) : Except Ent Instr :=
  match shiftEnt a k with
  | .ok a => shift1 k b (f a)
  | .error e => .error e
def shift3 (k : Nat) (a b c : Ent) (f : Ent → Ent → Ent → Instr) : Except Ent Instr :=
  match shiftEnt a k with
  | .ok a => shift2 k b c (f a)
  | .error e => .error e

/-- A shifted accumulator row; beyond row 511 it is outside every window, and ENT is 0. -/
def shiftAcc (k : Nat) (p : BitVec 9) (f : BitVec 9 → Instr) : Except Ent Instr :=
  if p.toNat + k < 512 then .ok (f (BitVec.ofNat 9 (p.toNat + k))) else .error 0
def shiftAcc1 (k ka : Nat) (a : Ent) (p : BitVec 9) (f : Ent → BitVec 9 → Instr) : Except Ent Instr :=
  match shiftEnt a k with
  | .ok a => shiftAcc ka p (f a)
  | .error e => .error e

/-- An instruction that a capture may hold, with its fields shifted, or the entry that a SHAPE trap names; `none` for an
instruction that no capture may hold. -/
def Instr.shifted (i : Instr) (dv dacc : Nat) : Option (Except Ent Instr) :=
  match i with
  | .vadd d a b x y m => some (shift3 dv d a b fun d a b => .vadd d a b x y m)
  | .vsub d a b x y m => some (shift3 dv d a b fun d a b => .vsub d a b x y m)
  | .vmul d a b x y m => some (shift3 dv d a b fun d a b => .vmul d a b x y m)
  | .vdiv d a b x y m => some (shift3 dv d a b fun d a b => .vdiv d a b x y m)
  | .vmin d a b x y m => some (shift3 dv d a b fun d a b => .vmin d a b x y m)
  | .vmax d a b x y m => some (shift3 dv d a b fun d a b => .vmax d a b x y m)
  | .vabs d a x m => some (shift2 dv d a fun d a => .vabs d a x m)
  | .vneg d a x m => some (shift2 dv d a fun d a => .vneg d a x m)
  | .vfma d a b x y m => some (shift3 dv d a b fun d a b => .vfma d a b x y m)
  | .vfms d a b x y m => some (shift3 dv d a b fun d a b => .vfms d a b x y m)
  | .vsqrt d a x m => some (shift2 dv d a fun d a => .vsqrt d a x m)
  | .vrcp d a x m => some (shift2 dv d a fun d a => .vrcp d a x m)
  | .vrsqrt d a x m => some (shift2 dv d a fun d a => .vrsqrt d a x m)
  | .vexp2 d a x m => some (shift2 dv d a fun d a => .vexp2 d a x m)
  | .vand d a b x y m => some (shift3 dv d a b fun d a b => .vand d a b x y m)
  | .vor d a b x y m => some (shift3 dv d a b fun d a b => .vor d a b x y m)
  | .vxor d a b x y m => some (shift3 dv d a b fun d a b => .vxor d a b x y m)
  | .vnot d a x m => some (shift2 dv d a fun d a => .vnot d a x m)
  | .vshl d a b x y m => some (shift3 dv d a b fun d a b => .vshl d a b x y m)
  | .vshr d a b x y m => some (shift3 dv d a b fun d a b => .vshr d a b x y m)
  | .vsra d a b x y m => some (shift3 dv d a b fun d a b => .vsra d a b x y m)
  | .vcmpEq d a b x y m => some (shift2 dv a b fun a b => .vcmpEq d a b x y m)
  | .vcmpNe d a b x y m => some (shift2 dv a b fun a b => .vcmpNe d a b x y m)
  | .vcmpLt d a b x y m => some (shift2 dv a b fun a b => .vcmpLt d a b x y m)
  | .vcmpLe d a b x y m => some (shift2 dv a b fun a b => .vcmpLe d a b x y m)
  | .vcmpUn d a b x y m => some (shift2 dv a b fun a b => .vcmpUn d a b x y m)
  | .vsel d a b x y m => some (shift3 dv d a b fun d a b => .vsel d a b x y m)
  | .vmov d a x m => some (shift2 dv d a fun d a => .vmov d a x m)
  | .vidx d m => some (shift1 dv d fun d => .vidx d m)
  | .vcvtRm d a x m r => some (shift2 dv d a fun d a => .vcvtRm d a x m r)
  | .vcvt d a x m => some (shift2 dv d a fun d a => .vcvt d a x m)
  | .vrsum d a x m => some (shift2 dv d a fun d a => .vrsum d a x m)
  | .vrmax d a x m => some (shift2 dv d a fun d a => .vrmax d a x m)
  | .vrmin d a x m => some (shift2 dv d a fun d a => .vrmin d a x m)
  | .vscan d a x m => some (shift2 dv d a fun d a => .vscan d a x m)
  | .vrsumSeg d a x m => some (shift2 dv d a fun d a => .vrsumSeg d a x m)
  | .vrmaxSeg d a x m => some (shift2 dv d a fun d a => .vrmaxSeg d a x m)
  | .vrminSeg d a x m => some (shift2 dv d a fun d a => .vrminSeg d a x m)
  | .vscanSeg d a x m => some (shift2 dv d a fun d a => .vscanSeg d a x m)
  | .vperm d a b x y m => some (shift3 dv d a b fun d a b => .vperm d a b x y m)
  | .vcompr d a x m => some (shift2 dv d a fun d a => .vcompr d a x m)
  | .vexpnd d a x m => some (shift2 dv d a fun d a => .vexpnd d a x m)
  | .vnmsel d a b x => some (shift3 dv d a b fun d a b => .vnmsel d a b x)
  | .vqnt d a b x => some (shift3 dv d a b fun d a b => .vqnt d a b x)
  | .vdqnt d a b x y => some (shift3 dv d a b fun d a b => .vdqnt d a b x y)
  | .vhad d a k x => some (shift2 dv d a fun d a => .vhad d a k x)
  | .vhadC _ _ _ => some (.error (BitVec.ofNat 6 (63 + dv)))
  | .vaddS d a b x m => some (shift2 dv d a fun d a => .vaddS d a b x m)
  | .vsubS d a b x m => some (shift2 dv d a fun d a => .vsubS d a b x m)
  | .vmulS d a b x m => some (shift2 dv d a fun d a => .vmulS d a b x m)
  | .vminS d a b x m => some (shift2 dv d a fun d a => .vminS d a b x m)
  | .vmaxS d a b x m => some (shift2 dv d a fun d a => .vmaxS d a b x m)
  | .vfmaS d a b x m => some (shift2 dv d a fun d a => .vfmaS d a b x m)
  | .vshlS d a b x m => some (shift2 dv d a fun d a => .vshlS d a b x m)
  | .vshrS d a b x m => some (shift2 dv d a fun d a => .vshrS d a b x m)
  | .vbcast d b m => some (shift1 dv d fun d => .vbcast d b m)
  | .vextr d a b x => some (shift1 dv a fun a => .vextr d a b x)
  | .vins d a b x m => some (shift2 dv d a fun d a => .vins d a b x m)
  | .vslide d a b x m => some (shift2 dv d a fun d a => .vslide d a b x m)
  | .vappend a b x m => some (shift1 dv a fun a => .vappend a b x m)
  | .vsraS d a b x m => some (shift2 dv d a fun d a => .vsraS d a b x m)
  | .mmr a p c x => some (shiftAcc1 dv dacc a p fun a p => .mmr a p c x)
  | .mmt a p c x => some (shiftAcc1 dv dacc a p fun a p => .mmt a p c x)
  | .accrdRm d p r => some (shiftAcc1 dv dacc d p fun d p => .accrdRm d p r)
  | .accrd d p => some (shiftAcc1 dv dacc d p fun d p => .accrd d p)
  | .accwr a p x => some (shiftAcc1 dv dacc a p fun a p => .accwr a p x)
  | .accwrA a p x => some (shiftAcc1 dv dacc a p fun a p => .accwrA a p x)
  | .accsc n p => some (shiftAcc dacc p fun p => .accsc n p)
  | .accz n p => some (shiftAcc dacc p fun p => .accz n p)
  | .swst => some (.ok .swst)
  | .ldstp a x => some (shift1 dv a fun a => .ldstp a x)
  | _ => none

/-! ### The next instruction of a thread -/

/-- What the fetch of a thread comes to. -/
inductive Fetched where
  | word (w : BitVec 32) (s : State)
  /-- the fetch faults -/
  | trap (t : Trap) (s : State)
  /-- a shifted field of a replayed instruction fails (R134) -/
  | shape (e : Ent)
  /-- the virtual processor waits for its block (R49) -/
  | waits (s : State)
  deriving DecidableEq, Repr

/-- The captured word at the position of a replay, shifted. -/
def Replay.fetch (r : Replay) (s : State) : Fetched :=
  let w := nth 0 r.words r.pos
  match decodeWord w with
  | none => .word w s
  | some i =>
    match Instr.shifted i (r.j * r.dv) (r.j * r.dacc) with
    | none => .word w s
    | some (.error e) => .shape e
    | some (.ok i) => .word ((encode i).getD w) s

def State.fetchCtl (s : State) (key : Nat) (q : Seat) : Fetched :=
  match q.replay with
  | some r => r.fetch s
  | none =>
    match s.fetchAt (q.who key) q.pc q.pc with
    | .ok (w, s) => .word w s
    | .error t => .trap t s

/-! ### Lane clusters (R49) -/

def clusterOf (lane : Nat) : Nat := lane / 32
def blockOf (a : Word) : Nat := a.toNat / 512

def Fork.buffered (f : Fork) (cluster block : Nat) : Option (List Byte) :=
  ((mapGet [] f.buffers cluster).find? fun x => x.1 = block).map (·.2)

/-- A block as the most recently used of its cluster's buffer; the least recently used of eight others leaves. -/
def Fork.touch (f : Fork) (cluster block : Nat) (l : List Byte) : Fork :=
  let rest := (mapGet [] f.buffers cluster).filter fun x => x.1 ≠ block
  { f with buffers := mapInsert f.buffers cluster ((block, l) :: rest.take 7) }

/-- A block fetch under way. -/
def Fork.start (f : Fork) (cluster block : Nat) : Fork :=
  if f.fetching.contains (cluster, block) then f else { f with fetching := f.fetching ++ [(cluster, block)] }

def State.fetchVp (s : State) (key : Nat) (q : Seat) (lane : Nat) (v : Vp) : Fetched :=
  match q.fork with
  | none => .waits s
  | some f =>
    let c := clusterOf lane
    let b := blockOf v.pc
    match f.buffered c b with
    | some l =>
      let k := v.pc.toNat % 512
      let w := wordOfBytes (nth 0 l k) (nth 0 l (k + 1)) (nth 0 l (k + 2)) (nth 0 l (k + 3))
      .word w (s.setSeat key { q with fork := some (f.touch c b l) })
    | none =>
      match s.fetchBlock (q.who key) b with
      | .error g => .trap (trapOf g v.pc v.pc) s
      | .ok (_, s) =>
        .waits (s.mapSeat key fun q =>
          { q with fork := q.fork.map fun f =>
              { f.start c b with vps := f.vps.map fun x => (x.1, if x.1 = lane then { x.2 with waiting := true } else x.2) } })

def State.fetch (s : State) (t : Thread) : Option Fetched :=
  match s.seat t.key with
  | none => none
  | some q =>
    match t.lane with
    | none => some (s.fetchCtl t.key q)
    | some l => (q.vp l).map fun v => s.fetchVp t.key q l v

end Sys2Proof.Machine
end

