-- ==== Sys2Proof/Machine/ShapeTab.lean ====
section
/-!
DEFINITION. Sys2Proof/Machine/ShapeTab.lean: the SHAPE group: DEFR (R59, R63, R351), SHRD (R64, R399), LAYOUT (R65, R369),
SETVL (R66, R397), PZERO (R67, R387) and REPF (R133 to R135, R391).
-/
namespace Sys2Proof.Machine

def kindOfCode : Nat → Option ShapeKind
  | 0 => some .row | 1 => some .rect | 2 => some .col | 3 => some .diag | _ => none
def codeOfKind : ShapeKind → Nat
  | .row => 0 | .rect => 1 | .col => 2 | .diag => 3

/-- The entry that a geometry word and a format word define in a seat of `rows` rows, or `none` where R63 raises SHAPE. -/
def shapeOf (rows : Nat) (g f : Word) : Option Shape :=
  let gv := g.toNat
  if bits gv 44 20 ≠ 0 ∨ f.toNat / 32 ≠ 0 then none
  else
    match kindOfCode (bits gv 41 3), Fmt.ofCode (f.toNat % 32) with
    | some k, some fmt =>
      let epc := fmt.epc
      let h := bits gv 20 9 + 1
      let w := bits gv 29 12 + 1
      let off := bits gv 17 3
      let x0 := epc * bits gv 9 8 + off
      let row0 := bits gv 0 9
      let tall := k == .col || k == .diag
      if epc ≤ off then none
      else if rows < row0 + h then none
      else if tall ∧ w ≠ 1 then none
      else if !tall ∧ 256 * epc < x0 + w then none
      else if k = .diag ∧ 256 * epc < x0 + h then none
      else some { kind := k, row0 := row0, x0 := x0, h := h, w := w, fmt := fmt }
    | _, _ => none

/-- The geometry word of an entry (Table 3.1, R64). -/
def Shape.geometry (t : Shape) : Word :=
  let epc := t.fmt.epc
  BitVec.ofNat 64 (codeOfKind t.kind * 2 ^ 41 + (t.w - 1) * 2 ^ 29 + (t.h - 1) * 2 ^ 20 + t.x0 % epc * 2 ^ 17
    + t.x0 / epc * 2 ^ 9 + t.row0)

/-- A V-pipe instruction of the SHAPE group that takes effect at issue (Table 1.4): it waits for a fork (R51), fails a check
or changes the seat, and is counted with the entry it names (R293). -/
def shapeOp (i : Instr) (s : State) (ent : Ent) (wait : Seat → Bool) (f : Seat → Except Bad Seat) : Res :=
  ctl i s fun key q => joinFirst s key q <| waitOn s key (wait q)
    (match f (q.countNow ent s.devtime) with
     | .error b => .next (s.bad key q i b)
     | .ok p => .next (s.setSeat key p.advance))

/-- DEFR (R63, R351). -/
def execDefr (d : Ent) (a b : Reg) (s : State) : Res :=
  shapeOp (.defr d a b) s d (fun q => q.busy a || q.busy b) fun q =>
    match (if d = 63 then none else shapeOf q.rows (q.reg a) (q.reg b)) with
    | none => .error (.shape d)
    | some t => .ok (q.setEntry d (some t))

/-- SHRD (R64, R399). -/
def execShrd (a : Ent) (g f : Reg) (s : State) : Res :=
  shapeOp (.shrd a g f) s a (fun q => q.busy g || q.busy f) fun q =>
    if a = 63 then .error (.shape a)
    else
      let (x, y) := match q.entry a with
        | some t => (t.geometry, BitVec.ofNat 64 (2 ^ 63 + t.fmt.code))
        | none => (0, 0)
      .ok ((q.setReg g x).setReg f y)

/-- The table after LAYOUT: n strips, the rest of v0 to v31 invalid, v32 to v62 unchanged (R65). -/
def layoutTable (v : Vector (Option Shape) 63) (n rows : Nat) (fmt : Fmt) : Vector (Option Shape) 63 :=
  let h := rows / n
  Vector.ofFn fun i : Fin 63 =>
    if i.val < n then some { kind := .row, row0 := i.val * h, x0 := 0, h := h, w := 256 * fmt.epc, fmt := fmt }
    else if i.val < 32 then none
    else v[i]

/-- LAYOUT (R65, R369). -/
def execLayout (n : BitVec 6) (f : BitVec 5) (s : State) : Res :=
  shapeOp (.layout n f) s 0 Seat.vlBusy fun q =>
    match Fmt.ofCode f.toNat with
    | none => .error (.shape 0)
    | some fmt =>
      let k := 2 ^ n.toNat
      let maxvl := min 4096 (q.rows / k * 256 * fmt.epc)
      .ok { q with v := layoutTable q.v k q.rows fmt, sr := { q.sr with maxvl := maxvl, vl := min q.sr.vl maxvl } }

/-- SETVL (R66, R397). -/
def execSetvl (d a : Reg) (s : State) : Res :=
  shapeOp (.setvl d a) s 0 (fun q => q.vlBusy || q.busy d || q.busy a) fun q =>
    let n := q.clampVl (q.reg a)
    .ok (({ q with sr := { q.sr with vl := n } }).setReg d (BitVec.ofNat 64 n))

/-- PZERO (R67, R387). -/
def execPzero (d : Ent) (s : State) : Res :=
  vector (.pzero d) s []
    (fun q => firstOf [firstBad anyKind (q.opnds [some d]), firstLong q.sr.vl (q.opnds [some d])])
    (fun q => q.vec (.pzero d) .pzero (some d) none none 0 0)

/-! ### REPF -/

/-- The words of a run, or the trap of the REPF at `pc` (R391). -/
def State.captureRun (s : State) (who : Accessor) (pc : Word) : Nat → Word → Except Trap (List (BitVec 32) × State)
  | 0, _ => .ok ([], s)
  | n + 1, a =>
    match s.fetchAt who a pc with
    | .error t => .error t
    | .ok (w, s) =>
      match s.captureRun who pc n (a + 4) with
      | .error t => .error t
      | .ok (l, s) => .ok (w :: l, s)

/-- A captured word is an instruction that a run may hold (R134). -/
def mayReplay (w : BitVec 32) : Bool :=
  match decodeWord w with
  | some i => (Instr.shifted i 0 0).isSome
  | none => false

/-- REPF (R133, R391): n − 1, k − 1, dv and dacc as the word holds them. -/
def execRepf (v : BitVec 6) (n k : BitVec 5) (c : BitVec 7) (s : State) : Res :=
  ctl (.repf v n k c) s fun key q => joinFirst s key q <|
    match s.captureRun (q.who key) q.pc (n.toNat + 1) (q.pc + 4) with
    | .error t => .next (s.raise key t)
    | .ok (words, s) =>
      match words.findIdx? fun w => !mayReplay w with
      | some i =>
        .next (s.preciseTrap key
          ⟨codeIllop, 0, (nth 0 words i).setWidth 64, q.pc + BitVec.ofNat 64 (4 * (i + 1))⟩)
      | none =>
        .next (s.mapSeat key fun q =>
          ({ (q.countNow 0 s.devtime).issued with replay := some ⟨words, q.pc + 4, k.toNat + 1, v.toNat, c.toNat, 0, 0⟩ }).noteReplay)

end Sys2Proof.Machine
end

