-- ==== Sys2Proof/Machine/Lane.lean ====
section
/-!
DEFINITION. Sys2Proof/Machine/Lane.lean: the LANE group: VFORK and VJOIN (R44, R45, R421), LEXIT and LFETCH (R373), and the
lane clusters' block fetches (R49).
-/
namespace Sys2Proof.Machine

/-- The cells of the lane registers: rows LROW0 to LROW0 + 31 (R46). -/
def Seat.laneRows (q : Seat) : Shape := { kind := .rect, row0 := q.sr.lrow0, x0 := 0, h := 32, w := 256, fmt := .fp32 }

/-- Commands that use the cells of the lane registers are still to be performed (R421, R73). -/
def Seat.laneBusy (q : Seat) : Bool :=
  q.pend.any (fun c => shapesMeet [q.laneRows] (c.writes ++ c.reads))
    || q.gathers.any fun g => shapesMeet [q.laneRows] g.cap.d.toList

/-- The lanes a VFORK makes active (R45). -/
def Seat.activeLanes (q : Seat) (m : MaskNo) : List Nat :=
  (List.range 256).filter fun i => decide (i < q.sr.vl) && (m == 0 || maskBit (q.mask m) i)

/-- The spill areas of the active lanes are probed for writing (R45). -/
def State.probeAreas (s : State) (key : Nat) (q : Seat) : List Nat → PAcc
  | [] => .ok ⟨0, 0, 0, 0⟩ s
  | l :: rest =>
    match s.translate (q.who key) .vstore (q.dvArea l) with
    | (.ok _, s) => s.probeAreas key q rest
    | (.wait, _) => .wait
    | (.fault _, s) => .trap (trapStack (q.dvArea l) q.curPc) s

/-- The fork of the active lanes; with none there is no fork (R45). Whether a lane cluster's buffer keeps the blocks of an earlier
fork, and whether the forks of a dual core's two seats share its blocks and its round, the spec does not say (R49): each seat's
fork has buffers and turns of its own, empty at VFORK, DESIGN CHOICE (assumption 27). -/
def forkOf (pc : Word) (lanes : List Nat) : Option Fork :=
  if lanes.isEmpty then none
  else some { vps := lanes.map fun l => (l, ⟨pc, [], 0, false, false⟩), created := lanes.length, buffers := [], fetching := []
              turn := [] }

/-- VFORK (R45, R421): a V-pipe instruction (Table 1.4), which traps while a fork is outstanding and does not wait for it. -/
def execVfork (a : Reg) (m : MaskNo) (s : State) : Res :=
  ctl (.vfork a m) s fun key q =>
    if q.forked then .next (s.bad key q (.vfork a m) .illop)
    else waitOn s key (q.busy a || q.vlBusy || q.maskBusy m || q.laneBusy)
      (if (q.reg a).toNat % 4 ≠ 0 then .next (s.bad key q (.vfork a m) (.align (q.reg a)))
       else if q.rows < q.sr.lrow0 + 32 then .next (s.bad key q (.vfork a m) (.shape 0))
       else
         let lanes := q.activeLanes m
         match s.probeAreas key q lanes with
         | .trap t s => .next (s.preciseTrap key t)
         | .wait => .next (s.stall key)
         | .ok _ s => .next (s.mapSeat key fun q => { (q.countNow 0 s.devtime).advance with fork := forkOf (q.reg a) lanes }))

/-- VJOIN (R44, R421). -/
def execVjoin (d : Reg) (s : State) : Res :=
  ctl (.vjoin d) s fun key q => waitOn s key (q.busy d)
    (if q.forked then .next (s.setSeat key (q.waitFor .vjoin))
     else
       let n := match q.fork with | some f => f.created | none => 0
       .next (s.setSeat key { ((q.countNow 0 s.devtime).setReg d (BitVec.ofNat 64 n)).advance with fork := none }))

/-- LFETCH (R49, R373). -/
def execLfetch (a : Reg) (s : State) : Res :=
  vpOnly (.lfetch a) s fun key q l v =>
    if oddReg a then .next (s.vpIllop key l (.lfetch a) v)
    else
      let c := clusterOf l
      let b := blockOf (q.lanePair l a)
      let held := match q.fork with | some f => (f.buffered c b).isSome | none => true
      if held then .next (s.vpNext key l v id)
      else
        match s.fetchBlock (q.who key) b with
        | .error _ => .next (s.vpNext key l v id)
        | .ok (_, s) => .next (s.vpNext key l v fun q => { q with fork := q.fork.map fun f => f.start c b })

/-- LEXIT (R373). -/
def execLexit (s : State) : Res :=
  vpOnly .lexit s fun key q l _ =>
    .next (s.setSeat key { q with noWatchVp := if q.noWatchVp = some l then none else q.noWatchVp
                                  fork := q.fork.map fun f => { f with vps := mapErase f.vps l } })

/-- LANE_BLOCK_FETCH_DONE (R49): the block enters the buffer, and the VPs of the cluster that wait for it can issue. A
block whose fetch faults by now is not buffered. -/
def execLaneBlockFetchDone (seat cluster block : Nat) (s : State) : Res :=
  match s.seat seat with
  | none => .fault (.notEnabled "LANE_BLOCK_FETCH_DONE")
  | some q =>
    match q.fork with
    | none => .fault (.notEnabled "LANE_BLOCK_FETCH_DONE")
    | some f =>
      if f.fetching.contains (cluster, block) then
        let wake := fun (f : Fork) =>
          { f with fetching := f.fetching.filter (· != (cluster, block))
                   vps := f.vps.map fun x =>
                     (x.1, if clusterOf x.1 = cluster ∧ blockOf x.2.pc = block then { x.2 with waiting := false } else x.2) }
        match s.fetchBlock (q.who seat) block with
        | .error _ => .next (s.setSeat seat { q with fork := some (wake f) })
        | .ok (l, s) => .next (s.mapSeat seat fun q => { q with fork := some ((wake f).touch cluster block l) })
      else .fault (.notEnabled "LANE_BLOCK_FETCH_DONE")

end Sys2Proof.Machine
end

