-- ==== Sys2Proof/Machine/Stream.lean ====
section
/-!
DEFINITION. Sys2Proof/Machine/Stream.lean: issuing the STREAM group (R228, R233, R394), and what the network does to a
stream: frames (R232), acknowledgements (R226) and the egress engine (R229, R235).
-/
namespace Sys2Proof.Machine

/-- A command of the S queue captures its handle and its data (R394). -/
def streamOp (i : Instr) (s : State) (cmd : Cmd) (d a : Reg) (b : Option Reg) : Res :=
  ctl i s fun key q => waitOn s key ((d :: a :: b.toList).any q.busy)
    (s.issueCmd key q { q.capture i cmd .s with x := q.reg a, y := match b with | some r => q.reg r | none => 0 })

def execSapp (d a b : Reg) (s : State) : Res := streamOp (.sapp d a b) s (.sapp d) d a (some b)
def execSckp (d a b : Reg) (s : State) : Res := streamOp (.sckp d a b) s (.sckp d) d a (some b)
def execScur (d a : Reg) (c : BitVec 3) (s : State) : Res := streamOp (.scur d a c) s (.scur d c.toNat) d a none
def execScurArm (d a : Reg) (s : State) : Res := streamOp (.scurArm d a) s (.scurArm d) d a none
def execStrunc (d a : Reg) (s : State) : Res := streamOp (.strunc d a) s (.strunc d) d a none

/-- SRECV (R233, R394): the descriptor's address is translated as a 32-byte store at issue. -/
def execSrecv (d a b : Reg) (s : State) : Res :=
  ctl (.srecv d a b) s fun key q => waitOn s key (q.busy d || q.busy a || q.busy b)
    (match s.access key q (.store 32) (q.reg b) 32 0 0 q.curPc with
     | .trap t s => .next (s.raise key t)
     | .wait => .next (s.stall key)
     | .ok h s =>
       s.issueCmd key q { q.capture (.srecv d a b) (.srecv d) .s with
                            x := q.reg a, y := q.reg b, pa := some (h.pa, h.mt, h.plc) })

/-! ### The network -/

/-- The context with a handle of a VI. -/
def State.ctxOf (s : State) (vi handle : Nat) : Option (Nat × Ctx) := s.ctxs.find? fun x => x.2.vi = vi ∧ x.2.handle = handle

/-- A frame that no stream of the VI is bound for, or that a fault keeps from being recorded, is counted (R232). -/
def State.unroutable (s : State) (vi : Nat) : State :=
  { s with vis := s.vis.map fun x => (x.1, if x.1 = vi then { x.2 with unroutable := x.2.unroutable + 1 } else x.2) }

/-- A frame for a stream handle of a context of a VI (R232); `none` while its writes wait for a page that migrates (R162). -/
def State.frame (s : State) (vi handle stream : Nat) (media payload : Word) (len : BitVec 32) (barge : Bool) : Option State :=
  match s.ctxOf vi handle with
  | none => some (s.unroutable vi)
  | some (c, x) =>
    match (if stream < 256 then mapFind s.streams (streamKey c stream) else none) with
    | none => some (s.unroutable vi)
    | some st =>
      match s.frameIn c stream x st media payload len barge with
      | .ok s => some s
      | .wait => none
      | .fault => some (s.unroutable vi)

/-- FRAME_ARRIVAL (R232): a frame that the fabric has delivered to a VI. -/
def execFrameArrival (vi handle stream : Nat) (media payload : Word) (len : BitVec 32) (barge : Bool) (s : State) : Res :=
  match mapFind s.vis vi with
  | none => .fault (.notEnabled "FRAME_ARRIVAL")
  | some _ => enabled "FRAME_ARRIVAL" (s.frame vi handle stream media payload len barge)

/-- PLAYBACK_ACK (R226); it waits while the object's page migrates (R162). -/
def execPlaybackAck (ctx stream : Nat) (q : Word) (s : State) : Res :=
  match s.ctx ctx, mapFind s.streams (streamKey ctx stream) with
  | some x, some st => enabled "PLAYBACK_ACK" (s.ackIn ctx stream x st q)
  | _, _ => .fault (.notEnabled "PLAYBACK_ACK")

/-- EGRESS_SEND (R229, R232, R235): one cancel marker or entry; with nothing to send it does not take place. -/
def execEgressSend (ctx stream : Nat) (s : State) : Res :=
  match s.ctx ctx, mapFind s.streams (streamKey ctx stream) with
  | some x, some st =>
    match s.egressOut ctx stream x st with
    | some s => .next s
    | none => .fault (.notEnabled "EGRESS_SEND")
  | _, _ => .fault (.notEnabled "EGRESS_SEND")

end Sys2Proof.Machine
end

