-- ==== Sys2Proof/Machine/GroupX.lean ====
section
/-!
DEFINITION. Sys2Proof/Machine/GroupX.lean: issuing GCAST and GRED (R318, R358, R359), and the fabric engine's collectives:
start (R360 to R362), chunks that arrive (R305, R361), acknowledgements (R361) and completion (R363).
-/
namespace Sys2Proof.Machine

/-- A GROUPX command: the descriptor is read at issue as one 64-byte load of the P queue (R359). -/
def groupOp (i : Instr) (s : State) (red : Bool) (a : Reg) (g : BitVec 2) : Res :=
  ctl i s fun key q =>
    match q.group g with
    | none => .next (s.bad key q i .illop)
    | some group => waitOn s key (q.busy a || q.pHeld i)
      (let d := q.reg a
       match s.access key q (.load 64) d 64 d.toNat 64 q.curPc with
       | .trap t s => .next (s.raise key t)
       | .wait => .next (s.stall key)
       | .ok h s' =>
         match s'.read (coreOf key) q.cin h 64 with
         | .error f => .next (s.raise key (trapOf f d q.curPc))
         | .ok r =>
           let s' := r.st.noteExp key r.expired
           match s'.seat key with
           | none => .next s'
           | some q =>
             if collBad r.bytes red false then .next (s'.bad key q i .illop)
             else
               let desc := collDescOf r.bytes
               waitOn s key (q.tagBusy desc.tag)
                 (s'.issueThen key q (q.capture i (.coll desc red group d) .x) (·.takeTag desc.tag)))

def execGcast (a : Reg) (g : BitVec 2) (s : State) : Res := groupOp (.gcast a g) s false a g
def execGred (a : Reg) (g : BitVec 2) (s : State) : Res := groupOp (.gred a g) s true a g

/-- The first part of a list that can take a step. -/
def firstPart (f : CollPart → Option State) : List CollPart → Option State
  | [] => none
  | p :: rest => match f p with | some s => some s | none => firstPart f rest

/-- A step of a part that this package performs under an identifier. -/
def onColl (s : State) (ctx : Nat) (collid : Word) (what : String) (f : CollPart → Option State) : Res :=
  match firstPart f (s.colls.filter fun p => p.ctx == ctx && p.desc.collid == collid) with
  | some s => .next s
  | none => .fault (.notEnabled what)

/-- COLLECTIVE_PART_START (R360 to R362). -/
def execCollectivePartStart (ctx : Nat) (collid : Word) (s : State) : Res :=
  onColl s ctx collid "COLLECTIVE_PART_START" s.startColl

/-- MULTICAST_CHUNK_ARRIVAL (R305, R361, R362): a chunk of the root's, or a piece of a rank's contribution. -/
def execMulticastChunkArrival (ctx : Nat) (collid : Word) (rank offset : Nat) (bytes : List Byte) (s : State) : Res :=
  onColl s ctx collid "MULTICAST_CHUNK_ARRIVAL" fun p => s.collArrive p rank offset bytes

/-- A peer acknowledges one chunk that the root has sent (R361). -/
def State.collAck (s : State) (p : CollPart) : Option State :=
  if p.started && decide ((p.chunks - p.next) * p.desc.npkgm1 < p.acks) then
    some (s.mapColl p fun p => { p with acks := p.acks - 1 })
  else none

/-- PEER_ACKNOWLEDGEMENT (R361). -/
def execPeerAcknowledgement (ctx : Nat) (collid : Word) (s : State) : Res :=
  onColl s ctx collid "PEER_ACKNOWLEDGEMENT" s.collAck

end Sys2Proof.Machine
end

