-- ==== Sys2Proof/Machine/Sys.lean ====
section
/-!
DEFINITION. Sys2Proof/Machine/Sys.lean: the SYS group (R317): TRAP and BRK (R343, R408), ERET (R243, R353), HALT (R43, R366),
MFSR and MTSR with every special register (R319 to R321, R378), TMARK (R407), TLBI (R406); words that name no instruction
(R311), fetch faults (R309), and the entry of late traps (R241).
-/
namespace Sys2Proof.Machine

/-! ### Traps asked for, and the way back -/

/-- TRAP (R408). -/
def execTrap (a : Reg) (s : State) : Res :=
  both (.trap a) s
    (fun key q => waitOn s key (q.busy a) (.next (s.preciseTrap key ⟨codeTrap, 0, q.reg a, q.curPc⟩)))
    (fun key q l v => .next (s.vpTrap key l ⟨codeTrap, 0, (q.laneReg l a).setWidth 64, v.pc⟩))

/-- BRK (R343). -/
def execBrk (s : State) : Res :=
  both .brk s (fun key q => .next (s.preciseTrap key ⟨codeBrk, 0, 0, q.curPc⟩))
    (fun key _ l v => .next (s.vpTrap key l ⟨codeBrk, 0, 0, v.pc⟩))

/-- A set-aside command as it is re-issued (R82): one that was left part-way resumes from RESTART0 to RESTART7 with
ESHAPE.PART = 1. With PART = 0, which a handler may have written, the spec does not say what becomes of it: it is performed again
as a whole, DESIGN CHOICE (assumption 80). An MMT or an LDST resumes at its row (R128). -/
def Seat.reissue (q : Seat) (c : Cap) : Cap :=
  let byEshape : Bool := match c.cmd with | .accrd _ => true | _ => c.queue == .v
  if !(byEshape && c.partial_) then c
  else if q.sr.eshPart then { c with prog := q.sr.restart.map (·.toNat) }
  else { c with partial_ := false, prog := Vector.replicate 8 0, did := [] }

/-- The set-aside commands stand in their queues again, oldest first (R243). After a late WATCH trap the stopped one
fires no watchpoint (R296). -/
def Seat.rejoin (q : Seat) : Seat :=
  let l := q.aside.map q.reissue
  let l := match l with
    | c :: rest => if q.status.defer && q.sr.causeCode == codeWatch then { c with unwatched := true } :: rest else l
    | [] => []
  { q with pend := q.pend ++ l, aside := [] }

/-- ERET (R243, R353): it waits for the handler's V and M commands. -/
def execEret (s : State) : Res :=
  ctl .eret s fun key q =>
    if !q.status.intrap then .next (s.bad key q .eret .illop)
    else waitOn s key (q.queued fun z => z == .v || z == .m)
      (let s := s.setSeat key q.rejoin.leaveTrap
       .next (if s.hold then s else s.drain key))

/-- HALT (R43, R366): the thread issues nothing more, and active PREFETCH transfers end (R187); in a handler the set-aside
commands are discarded. It waits while the end of a PREFETCH cannot write its descriptor (R162). -/
def execHalt (s : State) : Res :=
  ctl .halt s fun key q =>
    match (s.setSeat key { q.issued with halted := true, aside := [] }).endPrefetches key with
    | some s => .next s
    | none => .next (s.stall key)

/-! ### Reading special registers (Table 16.6) -/

def bit (b : Bool) (k : Nat) : Nat := if b then 2 ^ k else 0

def rmCode : Rm → Nat
  | .rne => 0 | .rtz => 1 | .rdn => 2 | .rup => 3 | .rna => 4 | .sr => 5

/-- The registers that a seat holds itself; `none` for a number that names none of these. -/
def Seat.srRead (q : Seat) (n : Nat) : Option Word :=
  let r := q.sr
  let w := fun (v : Nat) => some (BitVec.ofNat 64 v)
  match n with
  | 0 => w r.vl
  | 1 => w r.maxvl
  | 2 => some r.stripbase
  | 3 => some r.seed
  | 4 => w (rmCode r.mode + bit r.ovfns 3)
  | 5 => w r.excen.toNat
  | 6 => w r.excflags.toNat
  | 7 => w r.qblk.toNat
  | 8 => w r.decay.toNat
  | 9 => w r.mxsa.toNat
  | 10 => w r.nmsel.toNat
  | 11 => w r.spf.toNat
  | 12 => w r.lrow0
  | 13 => w (bit r.mseqAct 31 + r.mseqJ.toNat * 2 ^ 26 + r.mseqPos.toNat * 2 ^ 22 + r.mseqRow.toNat)
  | 14 => w r.ldstlen.toNat
  | 32 =>
    w (bit q.status.lifechg 6 + bit q.status.exp 5 + bit q.status.defer 3 + bit q.status.lane 2 + bit q.status.intrap 1
      + bit q.status.prv 0)
  | 33 => w (r.causeDetail.toNat * 256 + r.causeCode.toNat)
  | 34 => some r.epc
  | 35 => some r.eval
  | 36 => w (r.eshElem.toNat * 2 ^ 32 + bit r.eshPart 31 + r.eshEnt.toNat)
  | 37 => some (r.tvec ++ 0#2)
  | 38 => some (r.rsp ++ 0#6)
  | 39 => some (r.dvsp ++ 0#9)
  | 48 => w (r.cpixCause.toNat * 2 ^ 56 + r.cpixDetail.toNat * 2 ^ 48 + r.cpixTag.toNat * 2 ^ 32 + r.cpixElem.toNat)
  | 49 => some q.tags
  | 50 => some q.tagfault
  | 64 => w q.handle
  | 65 => w q.inc.toNat
  | 70 => w r.prio.toNat
  | 128 => w (bit r.trcErr 17 + r.trcN.toNat)
  | 129 => some (r.sbase ++ 0#12)
  | 130 => w r.ssize.toNat
  | 131 => some r.swptr
  | 132 => some r.srdptr
  | 133 => some r.dropped
  | 134 => some (r.rvbase ++ 0#13)
  | 135 => some r.rvcnt
  | 513 => w r.cvtidx.toNat
  | 515 => w q.cin.toNat
  | _ =>
    if 40 ≤ n ∧ n ≤ 47 then w (r.restart.getD (n - 40) 0).toNat
    else if 66 ≤ n ∧ n ≤ 69 then
      w (match r.gslot.getD (n - 66) none with | some g => 2 ^ 15 + g.toNat | none => 0)
    else if 136 ≤ n ∧ n ≤ 143 then
      let k := (n - 136) / 2
      if n % 2 = 0 then w (r.wpLow.getD k 0).toNat
      else w ((r.wpMode.getD k 0).toNat * 2 ^ 62 + (r.wpHigh.getD k 0).toNat)
    else none

/-- The registers that report shared state, and those of the context manager and the engines. -/
def State.srShared (s : State) (key : Nat) (q : Seat) (n : Nat) : Option Word :=
  let w := fun (v : Nat) => some (BitVec.ofNat 64 v)
  let quad := quadOfCore (coreOf key)
  let die := dieOf key
  match n with
  | 96 => w s.devtime
  | 97 => w (s.core (coreOf key)).cycle
  | 98 => w s.ftick
  | 99 => w (s.die die).life
  | 100 => let p := s.pair (pairOfQuad quad); w (bit p.locked 8 + p.permits)
  | 101 => let x := s.quad quad; w (x.why.toNat * 256 + bit q.sr.claim 4 + x.lvl)
  | 102 => w (s.quad quad).chainperm.toNat
  | 103 => let x := s.quad quad; w (x.clamp * 2 ^ 48 + x.steps.toNat)
  | 104 => (s.ctx q.ctx).map fun c => c.localRq.getD die 0
  | 105 => (s.ctx q.ctx).map fun c => c.remoteRq.getD die 0
  | 512 => (s.ctx q.ctx).map (·.ptroot)
  | 514 => w (match mapFind s.vis q.vi with | some v => (mapGet 0 v.cvt q.sr.cvtidx.toNat).toNat | none => 0)
  | _ => none

/-- Table 16.6 assigns a number. -/
def srAssigned (n : Nat) : Bool :=
  decide (n ≤ 14) || (decide (32 ≤ n) && decide (n ≤ 50)) || (decide (64 ≤ n) && decide (n ≤ 70))
    || (decide (96 ≤ n) && decide (n ≤ 105)) || (decide (128 ≤ n) && decide (n ≤ 143)) || (decide (512 ≤ n) && decide (n ≤ 516))

/-- The first two checks of R319. -/
def srBad (q : Seat) (n : Nat) : Option Bad :=
  firstOf [badIf (!srAssigned n) .illop, badIf (decide (512 ≤ n) && !q.status.prv) .priv]

/-- What an MFSR waits for (Table 18.18). -/
def Seat.srHeld (q : Seat) (n : Nat) : Bool :=
  match n with
  | 0 => q.vlBusy
  | 6 => q.queued fun z => z == .v || z == .m
  | 13 | 14 => q.queued fun z => z == .m
  | 32 => q.queued fun z => z == .p || z == .m
  | 104 | 105 => q.memBusy
  | _ => false

/-- Time goes on by an amount that the spec leaves open before a register that time moves is read: DEVTIME, CYCLE, FTICK, and
those of life and power. Whole ticks pass, so that CYCLE is read at the boundaries of ticks only: DESIGN CHOICE (assumption 9). -/
def State.clockMoves (s : State) (n : Nat) : State :=
  if 96 ≤ n ∧ n ≤ 103 then { s with freeN := s.freeN + 1 }.lapse (Config.freeChoice s.freeN) else s

def srNo (h l : BitVec 5) : Nat := 32 * h.toNat + l.toNat

/-- MFSR of CTXLK (R264): the named context's CIN as the master table holds it now, or NONE. -/
def Seat.lookCtx (q : Seat) (s : State) : Seat :=
  match s.ctxs.find? fun x => x.2.vi = q.sr.ctxlkVi.toNat ∧ x.2.handle = q.sr.ctxlkHandle.toNat with
  | some (c, x) => { q with sr := { q.sr with ctxlkNone := false, ctxlkCin := cinOf c x.inc } }
  | none => { q with sr := { q.sr with ctxlkNone := true, ctxlkCin := 0 } }

def Seat.ctxlkWord (q : Seat) : Word :=
  BitVec.ofNat 64 (bit q.sr.ctxlkNone 63 + q.sr.ctxlkCin.toNat * 2 ^ 32 + q.sr.ctxlkVi.toNat * 2 ^ 16 + q.sr.ctxlkHandle.toNat)

def execMfsrCtxlk (d : Reg) (s : State) : Res :=
  ctl (.mfsr d 16 4) s fun key q =>
    if !q.status.prv then .next (s.bad key q (.mfsr d 16 4) .priv)
    else waitOn s key (q.busy d)
      (let q := q.lookCtx s
       .next (s.setSeat key (q.setReg d q.ctxlkWord).advance))

/-- The value of an assigned register other than CTXLK. -/
def State.srValue (s : State) (key : Nat) (q : Seat) (n : Nat) : Word :=
  match q.srRead n with
  | some w => w
  | none => (s.srShared key q n).getD 0

/-- MFSR (R319, R378). -/
def execMfsr (d : Reg) (h l : BitVec 5) (s : State) : Res :=
  if h = 16 ∧ l = 4 then execMfsrCtxlk d s
  else
    ctl (.mfsr d h l) s fun key q =>
      let n := srNo h l
      match srBad q n with
      | some b => .next (s.bad key q (.mfsr d h l) b)
      | none => waitOn s key (q.busy d || q.srHeld n)
        (let s := s.clockMoves n
         .next (s.mapSeat key fun q => (q.setReg d (s.srValue key q n)).advance))

/-! ### Writing special registers -/

/-- A trace or watchpoint register: ILLOP for a non-zero reserved field (R288, R295). -/
def ifZero (reserved : Nat) (q : Seat) : Except Bad Seat := if reserved = 0 then .ok q else .error .illop

def rmOfField : Nat → Option Rm
  | 0 => some .rne | 1 => some .rtz | 2 => some .rdn | 3 => some .rup | 4 => some .rna | 5 => some .sr | _ => none

/-- A write of a register that the seat holds (R319): the writable fields, or why not. Registers with their own row, the
read-only ones and those outside the seat are not here. -/
def Seat.srWrite (q : Seat) (n : Nat) (w : Word) : Except Bad Seat :=
  let r := q.sr
  let v := w.toNat
  let put := fun (r : Sregs) => (Except.ok { q with sr := r } : Except Bad Seat)
  match n with
  | 2 => put { r with stripbase := w }
  | 3 => put { r with seed := w }
  | 4 =>
    match rmOfField (v % 8) with
    | some m => put { r with mode := m, ovfns := v.testBit 3 }
    | none => .error .illop
  | 5 => put { r with excen := excenOf w }
  | 7 => if v % 4 = 3 then .error .illop else put { r with qblk := BitVec.ofNat 2 v }
  | 8 => put { r with decay := BitVec.ofNat 32 v }
  | 9 => put { r with mxsa := BitVec.ofNat 6 v }
  | 10 => if v % 4 = 3 then .error .illop else put { r with nmsel := BitVec.ofNat 2 v }
  | 11 => put { r with spf := BitVec.ofNat 32 v }
  | 12 => put { r with lrow0 := v % 512 }
  | 33 => put { r with causeCode := BitVec.ofNat 8 v, causeDetail := BitVec.ofNat 8 (v / 256) }
  | 34 => put { r with epc := w }
  | 35 => put { r with eval := w }
  | 36 => put { r with eshElem := BitVec.ofNat 32 (v / 2 ^ 32), eshPart := v.testBit 31, eshEnt := BitVec.ofNat 6 v }
  | 37 => put { r with tvec := w.extractLsb' 2 62 }
  | 38 => put { r with rsp := w.extractLsb' 6 58 }
  | 39 => put { r with dvsp := w.extractLsb' 9 55 }
  | 48 => put { r with cpixCause := BitVec.ofNat 8 (v / 2 ^ 56), cpixDetail := BitVec.ofNat 8 (v / 2 ^ 48)
                       cpixTag := BitVec.ofNat 6 (v / 2 ^ 32), cpixElem := BitVec.ofNat 32 v }
  | 128 => (ifZero (v / 2 ^ 18) { q with sr := { r with trcErr := v.testBit 17, trcN := BitVec.ofNat 17 v } })
  | 129 => (ifZero (v % 2 ^ 12) { q with sr := { r with sbase := w.extractLsb' 12 52 } })
  | 130 => (ifZero (v / 2 ^ 20) { q with sr := { r with ssize := BitVec.ofNat 20 v } })
  -- SWPTR, DROPPED and RVCNT: no effect (R288)
  | 131 | 133 | 135 => .ok q
  | 134 => (ifZero (v % 2 ^ 13) { q with sr := { r with rvbase := w.extractLsb' 13 51 } })
  | 513 => put { r with cvtidx := BitVec.ofNat 8 v }
  | _ =>
    if h : 40 ≤ n ∧ n ≤ 47 then put { r with restart := r.restart.set (n - 40) (BitVec.ofNat 32 v) (by omega) }
    else if h : 136 ≤ n ∧ n ≤ 143 then
      if n % 2 = 0 then
        (ifZero (v / 2 ^ 58) { q with sr := { r with wpLow := r.wpLow.set ((n - 136) / 2) (BitVec.ofNat 58 v) (by omega) } })
      else
        (ifZero (bits v 58 4) { q with sr := { r with
          wpHigh := r.wpHigh.set ((n - 136) / 2) (BitVec.ofNat 58 v) (by omega)
          wpMode := r.wpMode.set ((n - 136) / 2) (BitVec.ofNat 2 (v / 2 ^ 62)) (by omega) } })
    -- every field is read-only (R319 3)
    else .error .illop

/-- An MTSR: the checks of R319, the waits of Table 18.18, then the write. -/
def srStore (i : Instr) (s : State) (a : Reg) (n : Nat) (wait : Seat → Bool) (f : Nat → Seat → Word → Res) : Res :=
  ctl i s fun key q =>
    match srBad q n with
    | some b => .next (s.bad key q i b)
    | none => waitOn s key (q.busy a || wait q) (f key q (q.reg a))

/-- An MTSR that leaves the seat changed and goes on. -/
def srPut (i : Instr) (s : State) (a : Reg) (n : Nat) (wait : Seat → Bool) (f : Seat → Word → Seat) : Res :=
  srStore i s a n wait fun key q w => .next (s.setSeat key (f q w).advance)

/-- MTSR of VL (R68): VL := min(value[12:0], MAXVL). An earlier VLDF that has not fixed VL comes first (R247). -/
def execMtsrVl (a : Reg) (s : State) : Res :=
  srPut (.mtsr a 0 0) s a 0 Seat.vlBusy fun q w => { q with sr := { q.sr with vl := min (w.toNat % 2 ^ 13) q.sr.maxvl } }

/-- MTSR of EXCFLAGS (R96): it waits as MFSR does. -/
def execMtsrExcflags (a : Reg) (s : State) : Res :=
  srPut (.mtsr a 0 6) s a 6 (fun q => q.srHeld 6) fun q w => { q with sr := { q.sr with excflags := excflagsOf w } }

/-- MTSR of STATUS (R167, R239): EXP and LIFECHG only. -/
def execMtsrStatus (a : Reg) (s : State) : Res :=
  srPut (.mtsr a 1 0) s a 32 (fun _ => false) fun q w =>
    { q with status := { q.status with exp := w.getLsbD 5, lifechg := w.getLsbD 6 } }

/-- MTSR of GUSTLVL (R277): CLAIM only. -/
def execMtsrGustlvl (a : Reg) (s : State) : Res :=
  srPut (.mtsr a 3 5) s a 101 (fun _ => false) fun q w => { q with sr := { q.sr with claim := w.getLsbD 4 } }

/-- MTSR of SRDPTR (R289): one that would exceed SWPTR is ignored. -/
def execMtsrSrdptr (a : Reg) (s : State) : Res :=
  srPut (.mtsr a 4 4) s a 132 (fun _ => false) fun q w =>
    if w ≤ q.sr.swptr then { q with sr := { q.sr with srdptr := w } } else q

/-- MTSR of PTROOT (R140): the running context's root in the context manager. -/
def execMtsrPtroot (a : Reg) (s : State) : Res :=
  srStore (.mtsr a 16 0) s a 512 (fun _ => false) fun key q w =>
    let root := BitVec.ofNat 64 (bits w.toNat 14 38 * 2 ^ 14)
    let s := match s.ctx q.ctx with
      | some c => s.setCtx q.ctx { c with ptroot := root }
      | none => s
    .next (s.setSeat key q.advance)

/-- MTSR of CVTDAT (R189): entry CVTIDX of the VI's table, and CVTIDX one up. -/
def execMtsrCvtdat (a : Reg) (s : State) : Res :=
  srStore (.mtsr a 16 2) s a 514 (fun _ => false) fun key q w =>
    let put := fun (v : Vi) => { v with cvt := mapSet 0 v.cvt q.sr.cvtidx.toNat (w.setWidth 16) }
    let s := { s with vis := s.vis.map fun (x : Nat × Vi) => (x.1, if x.1 = q.vi then put x.2 else x.2) }
    .next (s.setSeat key { q with sr := { q.sr with cvtidx := q.sr.cvtidx + 1 } }.advance)

/-- MTSR of CTXLK (R264). -/
def execMtsrCtxlk (a : Reg) (s : State) : Res :=
  srPut (.mtsr a 16 4) s a 516 (fun _ => false) fun q w =>
    { q with sr := { q.sr with ctxlkVi := w.extractLsb' 16 10, ctxlkHandle := w.extractLsb' 0 13 } }

/-- MTSR (R319, R378): LROW0 and DVSP wait until no fork is outstanding. -/
def execMtsr (a : Reg) (h l : BitVec 5) (s : State) : Res :=
  match srNo h l with
  | 0 => execMtsrVl a s
  | 6 => execMtsrExcflags a s
  | 32 => execMtsrStatus a s
  | 101 => execMtsrGustlvl a s
  | 132 => execMtsrSrdptr a s
  | 512 => execMtsrPtroot a s
  | 514 => execMtsrCvtdat a s
  | 516 => execMtsrCtxlk a s
  | n =>
    srStore (.mtsr a h l) s a n (fun q => (n == 12 || n == 39) && q.forked) fun key q w =>
      match q.srWrite n w with
      | .error b => .next (s.bad key q (.mtsr a h l) b)
      | .ok q => .next (s.setSeat key q.advance)

/-! ### TMARK and TLBI -/

/-- The MARK record (Table 14.2). -/
def markRecord (w : Word) (time : Nat) : List Byte :=
  recordBytes 3 24 ([0, 0, 0, 0, 0, 0] ++ leBytes 8 w.toNat ++ leBytes 8 time)

/-- TMARK (R298, R407): with SSIZE.PAGES 0 it writes no record, and DROPPED stays. Its record comes behind those of the sampled
instructions that have completed. -/
def execTmark (a : Reg) (s : State) : Res :=
  ctl (.tmark a) s fun key q => waitOn s key (q.busy a || (q.sr.ssize != 0 && !q.samples.isEmpty))
    (let w := q.reg a
     let t := (s.baroNote (coreOf key) (· == .tmark w)).setSeat key q.advance
     match (if q.sr.ssize = 0 then some t else t.writeRecord key (markRecord w s.devtime)) with
     | some t => .next t
     | none => .next (s.stall key))

/-- The operand of a TLBI (Table 19.24): the context and the address it covers; 4096 is every context. -/
def tlbiOperand (f : BitVec 2) (w : Word) : Option (Nat × Option Nat) :=
  let v := w.toNat
  if f = 0 then if bits v 44 8 = 0 then some (v / 2 ^ 52, some (v % 2 ^ 44 * 2 ^ 14)) else none
  else if f = 1 then if v / 2 ^ 12 = 0 then some (v % 2 ^ 12, none) else none
  else if v = 0 then some (4096, none) else none

def TlbEntry.ofCtx (e : TlbEntry) (c : Nat) (va : Option Nat) : Bool :=
  (c == 4096 || ctxOfCin e.cin == c)
    && (match va with | some a => decide (e.va ≤ a) && decide (a < e.va + e.size) | none => true)

/-- TLBI (R144, R406): the entries go at once, and the seat waits for the requests made with them. -/
def execTlbi (a : Reg) (f : BitVec 2) (s : State) : Res :=
  ctl (.tlbi a f) s fun key q =>
    if !q.status.prv then .next (s.bad key q (.tlbi a f) .priv)
    else waitOn s key (q.busy a)
      (match tlbiOperand f (q.reg a) with
       | none => .next (s.bad key q (.tlbi a f) .illop)
       | some (c, va) =>
         let s := s.tlbDrop fun e => e.ofCtx c va
         .next (s.setSeat key (if s.oldRequests fun x => c == 4096 || x == c then q.waitFor (.tlbi c) else q.advance)))

/-! ### Words and fetches -/

/-- WORD_NAMING_NO_INSTRUCTION (R311): ILLOP with EVAL := the word. -/
def execWordNamingNoInstruction (w : BitVec 32) (s : State) : Res :=
  if (decodeWord w).isSome then .fault (.notEnabled "WORD_NAMING_NO_INSTRUCTION")
  else
    match s.thr with
    | none => .fault .noThread
    | some t =>
      match s.seat t.key with
      | none => .fault .noThread
      | some q =>
        match t.lane with
        | none => .next (s.preciseTrap t.key ⟨codeIllop, 0, w.setWidth 64, q.curPc⟩)
        | some l =>
          match q.vp l with
          | none => .fault .noThread
          | some v => .next (s.vpTrap t.key l ⟨codeIllop, 0, w.setWidth 64, v.pc⟩)

/-- INSTRUCTION_FETCH_FAULT (R138, R309): the thread's next fetch faults. -/
def execInstructionFetchFault (s : State) : Res :=
  match s.thr with
  | none => .fault .noThread
  | some t =>
    match s.fetch t with
    | some (.trap f s) =>
      match t.lane with
      | none => .next (s.raise t.key f)
      | some l => .next (s.vpTrap t.key l f)
    | _ => .fault (.notEnabled "INSTRUCTION_FETCH_FAULT")

/-- TRAP_ENTRY (R241, R246): the queue detects the fault of the command at a position, and the seat takes the late trap, or
parks for its host's page (R248). -/
def execTrapEntry (seat pos : Nat) (s : State) : Res :=
  match s.performAt seat pos with
  | some (s, true) => .next s
  | _ => .fault (.notEnabled "TRAP_ENTRY")

end Sys2Proof.Machine
end

