-- ==== Sys2Proof/Machine/Sched.lean ====
section
/-!
DEFINITION. Sys2Proof/Machine/Sched.lean: the scheduler: effective priority (R34), placement (R35 to R39), binding and the
start of a node (R41), pre-emption and the save (R39, R40, R81, R251 to R255), finishing (R30) and completion (R33, R304),
and pages that seats wait for (R248).
-/
namespace Sys2Proof.Machine

/-! ### Nodes (Tables 2.1 and 2.2) -/

def Node.prio (n : Node) : Nat := bits n.ctl.toNat 2 3
def Node.single (n : Node) : Bool := n.ctl.getLsbD 5
def Node.fuse (n : Node) : Bool := n.ctl.getLsbD 6

/-- effpri (R34). -/
def Node.effPri (n : Node) (t : Nat) : Nat := min 7 (n.prio + (t - n.readyAt) / msTicks)

/-- Ready nodes that may be dispatched: one that waits for its page may not (R248). -/
def State.readyNodes (s : State) : List (Launch × Node) :=
  s.launches.flatMap fun l =>
    if l.state = .running then (l.nodes.filter fun n => n.state == .ready && n.blocked.isNone).map fun n => (l, n) else []

/-- The order of R34: effective priority, then ready time, VI and address. Nodes that these leave level, of two contexts or
launches of a VI, go in the order of the launch list: DESIGN CHOICE (assumption 69). -/
def goesBefore (t : Nat) (a b : Launch × Node) : Bool :=
  let x := a.2.effPri t
  let y := b.2.effPri t
  decide (y < x) || (x == y && (decide (a.2.readyAt < b.2.readyAt) || (a.2.readyAt == b.2.readyAt &&
    (decide (a.1.vi < b.1.vi) || (a.1.vi == b.1.vi && decide (a.2.addr.toNat < b.2.addr.toNat))))))

def firstInOrder (t : Nat) : List (Launch × Node) → Option (Launch × Node)
  | [] => none
  | x :: rest =>
    match firstInOrder t rest with
    | none => some x
    | some y => if goesBefore t y x then some y else some x

/-- A list in the order of R34; level nodes keep the order of the list (assumption 69). -/
def inOrder (t : Nat) : List (Launch × Node) → List (Launch × Node)
  | [] => []
  | x :: rest =>
    let l := inOrder t rest
    l.takeWhile (fun y => goesBefore t y x) ++ x :: l.dropWhile (fun y => goesBefore t y x)

/-! ### Co-resident groups (R39, R52) -/

/-- The co-resident groups a node names. -/
def Launch.coGroups (l : Launch) (n : Node) : List Nat :=
  n.gslots.toList.filterMap fun g => match g with
    | some g => if (l.groups.getD g.toNat 0).getLsbD 30 then some g.toNat else none
    | none => none

/-- Nodes that must be bound with those of a list: members of the co-resident groups they name, and so on. -/
def Launch.together (l : Launch) : Nat → List Node → List Node
  | 0, ms => ms
  | k + 1, ms =>
    let gs := (ms.flatMap l.coGroups).eraseDups
    let ms' := l.nodes.filter fun n => ms.any (·.addr == n.addr) || gs.any fun g => n.inGroup g
    if ms'.length = ms.length then ms else l.together k ms'

/-- A node's seat is being saved. -/
def State.beingSaved (s : State) (n : Node) : Bool :=
  n.state == .bound && n.kind == 0 && (match s.seat n.unit with | some q => q.stopping.isSome | none => false)

/-- The nodes that are bound when a ready node is: itself, or every member of its co-resident groups that is not running or
done; `none` while a member is not released, waits for a page or is being saved (R39, R255). -/
def State.bindSet (s : State) (l : Launch) (n : Node) : Option (List Node) :=
  if (l.coGroups n).isEmpty then some [n]
  else
    let ms := l.together l.nodes.length [n]
    if ms.any fun m => m.state == .unreleased || m.state == .unreachable || m.blocked.isSome || s.beingSaved m then none
    else some ((ms.filter fun m => m.state == .ready && m.single) ++ ms.filter fun m => m.state == .ready && !m.single)

/-! ### Seats (R36 to R38) -/

/-- The 2 µs of a change of fusion (R37). -/
def fusionTicks : Nat := 200

/-- No change of a quad's fusion is under way (R37). -/
def State.fusionDone (s : State) (quad : Nat) : Bool :=
  match (s.quad quad).fusedAt with | some t => decide (t + fusionTicks ≤ s.devtime) | none => true

/-- A seat is free for a node of a SEAT and FUSE requirement (R36, R37). -/
def State.seatOpen (s : State) (single fuse : Bool) (key : Nat) : Bool :=
  let c := coreOf key
  (s.quad (quadOfCore c)).fused == fuse && s.fusionDone (quadOfCore c) && (s.seat key).isNone
    && (if (s.residents c).isEmpty then key % 2 == 0 else !single && (s.core c).res == .dual)

/-- A pre-emption that still waits to be followed by its binding. -/
def State.holdLive (s : State) (h : Hold) : Bool :=
  match s.launch h.ctx h.launch with
  | some l => l.state == .running && l.nodes.any fun n => h.nodes.contains n.addr && n.state == .ready
  | none => false

def Hold.isFor (h : Hold) (l : Launch) (n : Node) : Bool := h.ctx == l.ctx && h.launch == l.id && h.nodes.contains n.addr

/-- A node, or its group, has won a pre-emption: it takes no second victim (R40). -/
def State.heldFor (s : State) (l : Launch) (n : Node) : Bool := s.holds.any fun h => h.isFor l n && s.holdLive h

/-- A seat that a node may not take, for a co-resident group has pre-empted it, or counts on it, and is to be bound as a whole
(R39): that seat, with a node of SEAT = 1 its core, and its quad until the fusion is the group's. What a single node has
pre-empted goes to the first node of R34's order. -/
def State.heldBack (s : State) (l : Launch) (n : Node) (key : Nat) : Bool :=
  s.holds.any fun h =>
    let group := match s.launch h.ctx h.launch with
      | some l => l.nodes.any fun m => h.nodes.contains m.addr && !(l.coGroups m).isEmpty
      | none => false
    group && !h.isFor l n && s.holdLive h && h.seats.any fun x =>
      x.1 == key || ((x.2.1 || n.single) && coreOf x.1 == coreOf key)
        || ((s.quad (quadOfCore (coreOf x.1))).fused != x.2.2 && quadOfCore (coreOf x.1) == quadOfCore (coreOf key))

/-- The free seats for a node (R36, R37). -/
def State.openSeats (s : State) (l : Launch) (n : Node) : List Nat :=
  (List.range (2 * Config.cores)).filter fun k => s.seatOpen n.single n.fuse k && !s.heldBack l n k

/-- Quarter-bytes of a range that a die homes (R38 1), page by page. -/
def State.homeWeight (s : State) (ctx die : Nat) : Nat → Nat → Nat → Nat
  | 0, _, _ => 0
  | k + 1, a, e =>
    if e ≤ a then 0
    else
      match s.walk ctx a with
      | .ok l =>
        let stop := min e (l.va + l.size)
        let p := ptePlc l.word
        let w := if 1 ≤ p ∧ p ≤ 4 then (if p = 1 + die then 4 else 0) else 1
        (stop - a) * w + s.homeWeight ctx die k stop e
      | .error _ => s.homeWeight ctx die k ((a / 16384 + 1) * 16384) e

/-- Quarter-bytes of a node's declared operands that a die homes (R26, R38 1). -/
def State.operandWeight (s : State) (ctx : Nat) (n : Node) (die : Nat) : Nat :=
  (List.range 8).foldl (fun acc i =>
    let o := (n.opnds.getD i 0).toNat
    let a := (n.args.getD i 0).toNat
    if o / 2 ^ 30 = 0 then acc else acc + s.homeWeight ctx die 65538 a (a + o % 2 ^ 30)) 0

/-- Rule 1 of R38: the dies with a candidate that home the most. -/
def State.byOperands (s : State) (ctx : Nat) (n : Node) (cand : List Nat) : List Nat :=
  let w := fun (key : Nat) => s.operandWeight ctx n (dieOf key)
  let dies := (cand.map dieOf).eraseDups
  let best := (dies.map (s.operandWeight ctx n)).foldl max 0
  if dies.length ≤ 1 then cand else cand.filter fun key => w key == best

/-- The pair of a quad stays within the charge-balance window after a binding there (R38 3): by ballast beside a partner without
a seat, at nominal level or below (R271); else a free value, for the currents are no part of the state (assumption 32). -/
def State.staysLevel (s : State) (quad : Nat) : Bool :=
  (!s.quadBusy (partnerQuad quad) && (s.quad quad).lvl == 0) || Config.freeChoice (s.freeN + quad) % 2 == 1

/-- Rules 2 to 4 of R38. -/
def State.byHint (s : State) (n : Node) (cand : List Nat) : Option Nat :=
  let q := bits n.ctl.toNat 24 7
  let hinted := cand.filter fun key => quadOfCore (coreOf key) == q
  let cand := if n.ctl.getLsbD 31 && !hinted.isEmpty then hinted else cand
  let near := cand.filter fun key => s.staysLevel (quadOfCore (coreOf key))
  (if near.isEmpty then cand else near).head?

/-- The seat of R38 for a node. -/
def State.pickSeat (s : State) (l : Launch) (n : Node) : Option Nat := s.byHint n (s.byOperands l.ctx n (s.openSeats l n))

/-! ### Power on binding (R283, R284) -/

/-- A binding to a quad: within 1 µs of its hold it resumes issue after 0.5 µs; after that it is a wake for the in-rush
arbiter. -/
def State.wakeQuad (s : State) (quad : Nat) : State :=
  let x := s.quad quad
  let d := dieOfQuad quad
  match x.power with
  | .hold =>
    if s.devtime ≤ x.since + 100 then s.setQuad quad { x with power := .resuming, since := s.devtime }
    else s.setQuad quad { x with power := .lowering x.since true }
  | .lowering t _ => s.setQuad quad { x with power := .lowering t true }
  | .retention | .gated =>
    (s.setQuad quad { x with power := .waiting }).setDie d { s.die d with wakes := (s.die d).wakes ++ [quad] }
  | _ => s

/-! ### Starting and restoring (R41, R254) -/

/-- s1 to s8 are the arguments, s30 the node's address (R41). -/
def startRegs (n : Node) : Vector Word 32 :=
  Vector.ofFn fun i : Fin 32 =>
    if 1 ≤ i.val ∧ i.val ≤ 8 then n.args.getD (i.val - 1) 0 else if i.val = 30 then n.addr else 0

/-- A seat at the start of a COMPUTE node (R41, R56); `nr` is the number of the binding. -/
def startSeat (l : Launch) (n : Node) (c : Ctx) (prio nr : Nat) : Seat where
  ctx := l.ctx
  inc := c.inc
  vi := c.vi
  handle := c.handle
  node := n.addr
  launch := l.id
  single := n.single
  fuse := n.fuse
  boundAt := nr
  pc := n.entry
  s := startRegs n
  m := Vector.replicate 8 0
  v := Vector.replicate 63 none
  plane := []
  acc := []
  buf := Vector.replicate 2 none
  active := false
  status := { prv := c.firmware }
  sr := { gslot := n.gslots, prio := BitVec.ofNat 3 prio }
  tags := 0
  tagfault := 0
  rstack := []
  pend := []
  aside := []
  resume := 0
  chan := Vector.replicate 4 none
  gathers := []
  fork := none
  replay := none
  replaySaved := none
  byp := none
  bypSaved := none
  halted := false
  wait := none
  waitSaved := none
  park := none
  yielded := false
  noWatch := false
  noWatchSaved := false
  noWatchVp := none
  sampleCnt := 0
  samples := []
  tagsOut := []
  home := 0
  stopping := none
  stopSince := 0
  declared := false
  pendingTrap := none

/-- A saved seat in its new place (R254): everything but PRIO, and lane buffers that refill (R252). Vector accesses that had handed
their addresses over make their passes again. -/
def restoreSeat (im : Seat) (prio nr : Nat) : Seat :=
  { im with
    boundAt := nr
    pend := im.pend.map fun c => { c with handed := none }
    sr := { im.sr with prio := BitVec.ofNat 3 prio }
    fork := im.fork.map fun f =>
      { f with buffers := [], fetching := [], vps := f.vps.map fun x => (x.1, { x.2 with waiting := false }) }
    stopping := none, declared := false, park := none }

/-! ### Stops inside a command (R81, R83, R127, R251) -/

/-- Commands that a stop may leave part-way at an element group (R81); assumption 34 says why the others are completed. -/
def Cap.canStop (c : Cap) : Bool :=
  match c.cmd with
  | .vec _ | .vcmp _ _ | .perm | .compr | .expnd | .bcast | .ins | .slide | .dqnt | .pzero | .vload _ _ | .vstore _ _ | .append
  | .red .scan _ | .nmsel | .qnt | .had _ _ => true
  | _ => false

/-- The first element of cluster k behind g whole element groups, or N: the groups hold 32 × epc elements that it owns (R78). -/
def groupBound (t : Shape) (n k g : Nat) : Nat :=
  ((List.range n).filter fun i => t.cluster i == k).getD (32 * t.fmt.epc * g) n

/-- The bounds of a part of a command with N above 1024: how many element groups each cluster has performed (R81). -/
def Cap.groupLim (c : Cap) (v : List Nat) : Option Cap :=
  match c.owner with
  | none => none
  | some (t, n) =>
    if c.canStop && decide (1024 < n) && c.did.isEmpty then
      some { c with lim := some (Vector.ofFn fun k : Fin 8 => max (c.prog.getD k 0) (groupBound t n k (v.getD k 0))) }
    else none

/-- The rows of an MMT or an LDST. -/
def Cap.rowCount (c : Cap) : Nat :=
  match c.cmd with
  | .mmt _ => (c.a.map (·.h)).getD 0
  | .ldst _ mode _ fmt => (tileK mode fmt).getD 0
  | _ => 0

/-- An MMT or an LDST stops before a row (R121, R127), none that it has performed. -/
def Cap.rowBound (c : Cap) (m : Nat) : Option Cap :=
  if m < c.rowCount ∧ (if c.partial_ then c.row else 0) ≤ m then some { c with rowLim := some m } else none

/-- A part that performs nothing: the command stands where it stood (R81). -/
def Cap.isIdle (c : Cap) : Bool :=
  match c.rowLim with
  | some _ => (c.rows c.rowCount).isEmpty
  | none => match c.owner with | some (t, n) => !(List.range n).any (c.todo t) | none => false

/-- The oldest command of a queue performed as far as `f` bounds it, if nothing holds it back. -/
def State.performPart (s : State) (key : Nat) (qu : Queue) (f : Cap → Option Cap) : Option State :=
  match s.seat key with
  | none => none
  | some q =>
    match q.pend.zipIdx.find? fun x => x.1.queue == qu with
    | none => none
    | some (c, i) =>
      match s.freeAt q i, f c with
      | some _, some c' =>
        if c'.isIdle then some s
        else
          match s.perform key c' with
          | .part s c' => some (s.mapSeat key fun q => q.keepAt i c')
          | _ => none
      | _, _ => none

/-- What the engines have performed of a seat's commands when they stop (R81, Table 11.6). -/
def State.partway (s : State) (key : Nat) (p : Partway) : Option State :=
  (if p.v.isEmpty then some s else s.performPart key .v fun c => c.groupLim p.v).bind fun s =>
    match p.m with
    | some m => s.performPart key .m fun c => c.rowBound m
    | none => some s

/-- Some elements of a scatter have been performed ahead of others: the engine completes it before it stops (R81). -/
def Seat.midway (q : Seat) : Bool := q.pend.any fun c => !c.did.isEmpty

/-- A command that the engine completes before it stops (R81): such a scatter, and a resumed V-queue command with N of at most
1024. -/
def Cap.mustEnd (c : Cap) : Bool :=
  !c.did.isEmpty || (c.queue == .v && c.partial_ && match c.owner with | some (_, n) => decide (n ≤ 1024) | none => true)

/-- What a seat that is being stopped still performs (R81, R251). -/
def State.endPart (s : State) (key : Nat) (q : Seat) : Option (State × Bool) :=
  (q.pend.findIdx? Cap.mustEnd).bind fun i => s.performAt key i

/-- Transform routines at work for a seat, which run on to their next ECALL before the seat is pre-empted (R198). -/
def Seat.routines (q : Seat) : Bool :=
  q.chan.toList.any fun a => match a with
    | some a => (match a.routine with | some r => !r.stopped | none => false)
    | none => false

/-- Nothing is left that the seat's engines complete before they acknowledge a stop (R81, R198, Table 11.6). -/
def State.atBoundary (s : State) (key : Nat) (q : Seat) : Bool := !q.midway && (s.endPart key q).isNone && !q.routines

/-- Where each cluster goes on with a command that stands part-way. -/
def Cap.restarts (c : Cap) : Vector Nat 8 := Vector.ofFn fun k : Fin 8 => c.restartAt k.val (c.prog.getD k.val 0)

/-- RESTART0 to RESTART7 and ESHAPE after an asynchronous stop (R81): of the instruction left part-way, whether it is queued or,
in a handler, set aside; PART is 0 when there is none. -/
def Seat.markPart (q : Seat) : Seat :=
  match q.pend.find? fun c => c.queue == .v && c.partial_ with
  | some c =>
    { q with sr := { q.sr with
        restart := c.restarts.map (BitVec.ofNat 32)
        eshElem := BitVec.ofNat 32 (c.restarts.toList.foldl min (c.restarts.getD 0 0))
        eshPart := true, eshEnt := c.ent } }
  | none => { q with sr := { q.sr with eshPart := q.sr.eshPart && q.aside.any (·.partial_) } }

/-- A stop between the instructions of a bypass chain (R83): the resume point is the chain's first VHAD.c, in its replay where it
stood in one, and its stages are performed again with the rest. -/
def Seat.chainBack (q : Seat) : Seat :=
  match q.byp with
  | some ch =>
    let pend := match q.pend.getLast? with | some c => if c.isStage then q.pend.dropLast else q.pend | none => q.pend
    { q with pc := if ch.replay.isSome then q.pc else ch.pc, replay := ch.replay, byp := none, pend := pend }
  | none => q

/-! ### Traps of a stopped seat -/

/-- V-queue commands, an MMT or an LDST that stands part-way (R127, R128), and what depends on them stay for ERET when the seat is
stopped asynchronously (R81, R246). -/
def splitStopped : List Cap → List Cap → List Cap × List Cap
  | _, [] => ([], [])
  | held, c :: rest =>
    if c.queue == .v || (c.queue == .m && c.partial_) || held.any fun e => blocks e c then
      let (a, b) := splitStopped (held ++ [c]) rest
      (c :: a, b)
    else
      let (a, b) := splitStopped held rest
      (a, c :: b)

/-- The first VHAD.c of the bypass chain that an asynchronous stop falls into (R83): one that is open, or one that has been left
part-way. -/
def Seat.stoppedChain (q : Seat) : Option Word :=
  match q.byp with
  | some ch => some ch.pc
  | none => (q.pend.find? fun c => c.queue == .v && c.partial_).bind fun c => c.chain.map (·.pc)

/-- The trap after an asynchronous stop (R81, R83, R259). -/
def State.asyncTrap (s : State) (key : Nat) (t : Trap) : State :=
  match s.seat key with
  | none => s
  | some q =>
    let t := match q.stoppedChain with | some pc => { t with pc := pc } | none => t
    let q := q.chainBack.markPart
    let (held, keep) := splitStopped [] q.pend
    (s.setSeat key { q with pend := keep, aside := q.aside ++ held }).takeTrap key t true false

/-- The trap of a page that its host refused, or never answered for (R248): the one the fault would have raised. -/
def State.refusePark (s : State) (key : Nat) (p : Park) : State :=
  let t : Trap := ⟨codeXlate, 1, p.va, p.epc⟩
  match s.seat key with
  | none => s
  | some q =>
    let s := s.setSeat key { q with park := none }
    if p.late then
      match q.pend.zipIdx.find? fun x => x.1.pc == p.epc with
      | some (c, i) => s.lateTrap key i t c false
      | none => s.takeTrap key t true false
    else
      match p.lane with
      | none => s.preciseTrap key t
      | some l =>
        let q' := { q with park := none
                           fork := q.fork.map fun f => { f with vps := f.vps.map fun x =>
                             (x.1, if x.1 = l then { x.2 with trapped := true } else x.2) }
                           sr := { q.sr with eshElem := BitVec.ofNat 32 l, eshPart := false, eshEnt := 0 } }
        (s.setSeat key q').takeTrap key t false true

/-- A trap that was pending at the save is taken again at resume (R254). -/
def State.resumeTrap (s : State) (key : Nat) (park : Option Park) : State :=
  match s.seat key with
  | none => s
  | some q =>
    match q.pendingTrap with
    | none => s
    | some (c, d, v) =>
      let s := s.setSeat key { q with pendingTrap := none }
      -- the page's own trap, or another that was pending while the seat waited for a page
      match park with
      | some p =>
        if c = codeXlate ∧ d = 1 ∧ v = p.va then s.refusePark key p
        else { s with freeN := s.freeN + 1 }.asyncTrap key ⟨c, d, v, Config.freeWord s.freeN⟩
      | none => { s with freeN := s.freeN + 1 }.asyncTrap key ⟨c, d, v, Config.freeWord s.freeN⟩

/-- A node binds to a seat (R36, R41, R254): the seat starts a phase as an ACQ at device scope does (R31), or resumes with
the clean lines of its context invalidated (R213). -/
def State.bindSeat (s : State) (l : Launch) (n : Node) (key : Nat) : State :=
  match s.ctx l.ctx with
  | none => s
  | some c =>
    let pri := n.effPri s.devtime
    let core := coreOf key
    let q := match n.image with
      | some im => restoreSeat im pri s.binds
      | none => startSeat l n c pri s.binds
    let x := s.core core
    let s := if (s.residents core).isEmpty then
        s.setCore core { x with res := if n.single then .single else .dual, holder := key % 2, held := 0 } else s
    let s := s.setSeat key q
    let s := s.mapNode l.ctx l.id n.addr fun n =>
      { n with state := .bound, unit := key, boundPrio := pri, image := none }
    let s : State := { s with binds := s.binds + 1
                              holds := s.holds.filter fun h => !h.isFor l n && !h.seats.any (·.1 == key) }
    let s := (s.invalClean core q.cin).wakeQuad (quadOfCore core)
    s.resumeTrap key (n.image.bind (·.park))

/-! ### Transform and collective nodes (R35, R365) -/

/-- A node fails that holds no seat (R242, R365). -/
def State.failUnseated (s : State) (l : Launch) (n : Node) (f : AFault) (value : Word) : State :=
  let s := s.mapNode l.ctx l.id n.addr fun n => { n with state := .failed }
  { s.mapLaunch l.ctx l.id fun l =>
      { l with failures := l.failures ++ [⟨n.addr, f.detail ++ f.code, Config.freeWord s.freeN, value⟩] } with
    freeN := s.freeN + 1 }

/-- A TRANSFORM node binds to a transform core, with ARG0 to ARG7 in a0 to a7 (R41); one whose image is not registered fails, as
a CPXF would (R197). -/
def State.bindTransform (s : State) (l : Launch) (n : Node) (u : Nat) : State :=
  match (s.ctx l.ctx).bind fun c => s.routineImage l.vi c.handle n.entry with
  | some _ => s.mapNode l.ctx l.id n.addr fun n =>
    { n with state := .bound, unit := u, boundPrio := n.effPri s.devtime, regs := some n.args }
  | none => s.failUnseated l n xRtnImage n.entry

/-- A COLLECTIVE node binds to the fabric engine, which reads and checks its descriptor (R365). -/
def State.bindCollective (s : State) (l : Launch) (n : Node) : State :=
  if n.entry.toNat % 64 ≠ 0 then s.failUnseated l n aAlign n.entry
  else
    match s.engineGet (s.collWho l.ctx) 2 n.entry 64 with
    | .error f => s.failUnseated l n f.f f.va
    | .ok (b, _, s) =>
      let d := collDescOf b
      if collBad b d.nred d.nred || d.tag ≠ 0 then s.failUnseated l n ⟨codeIllop, 0⟩ n.entry
      else
        let part : CollPart := ⟨l.ctx, d, d.nred, l.id, none, [(n.addr, n.entry, d, d.nred)], false, 0, [], 0, none, 0⟩
        { s with colls := s.colls ++ [part] }.mapNode l.ctx l.id n.addr fun n =>
          { n with state := .bound, boundPrio := n.effPri s.devtime }

/-! ### Dispatch (R34 to R39) -/

/-- Members bound one after another, each to its seat of R38; `none` when one finds none. -/
def State.bindAll (s : State) (l : Launch) : List Node → Option State
  | [] => some s
  | n :: rest =>
    match s.pickSeat l n with
    | none => none
    | some key => ({ s.bindSeat l n key with freeN := s.freeN + Config.quads }).bindAll l rest

/-- A ready node, with its co-resident group, bound to the units that are free; `none` when they are not. -/
def State.tryBind (s : State) (l : Launch) (n : Node) : Option State :=
  match n.kind with
  | 0 => (s.bindSet l n).bind fun ms => s.bindAll l ms
  | 1 => (s.coreFree (List.range transformCores)).map fun u => s.bindTransform l n u
  | _ => some (s.bindCollective l n)

/-- The first ready node of R34's order that is eligible, bound. -/
def firstBind (s : State) : List (Launch × Node) → Option ((Launch × Node) × State)
  | [] => none
  | x :: rest =>
    match s.tryBind x.1 x.2 with
    | some s' => some (x, s')
    | none => firstBind s rest

def State.dispatch (s : State) : Option ((Launch × Node) × State) := firstBind s (inOrder s.devtime s.readyNodes)

/-- DISPATCH_BIND (R34 to R41, R254, R255). -/
def execDispatchBind (s : State) : Res :=
  match s.dispatch with
  | some (_, s) => .next s
  | none => .fault (.notEnabled "DISPATCH_BIND")

/-- RESTORE (R252, R254): the dispatcher binds a saved node, and that to the seat named. -/
def execRestore (ctx : Nat) (node : Word) (seat : Nat) (s : State) : Res :=
  match s.dispatch with
  | some (x, s') =>
    let here : Bool := match s'.seat seat with | some q => q.ctx == ctx && q.node == node | none => false
    if x.1.ctx = ctx ∧ x.2.addr = node ∧ x.2.image.isSome ∧ here then .next s' else .fault (.notEnabled "RESTORE")
  | none => .fault (.notEnabled "RESTORE")

/-- EFFECTIVE_PRIORITY_AGING (R34): a millisecond of waiting has passed; effpri, a function of device time, is one up. -/
def execEffectivePriorityAging (ctx : Nat) (node : Word) (s : State) : Res :=
  let up := s.readyNodes.any fun x =>
    let dt := s.devtime - x.2.readyAt
    x.1.ctx == ctx && x.2.addr == node && dt % msTicks == 0 && decide (0 < dt) && decide (x.2.prio + dt / msTicks ≤ 7)
  if up then .next s else .fault (.notEnabled "EFFECTIVE_PRIORITY_AGING")

/-! ### Fusion (R37) -/

def State.quadEmpty (s : State) (quad : Nat) : Bool := !s.quadBusy quad

/-- No wake of the quad is under way (R283). -/
def Quad.awake (x : Quad) : Bool :=
  match x.power with | .waiting | .ramping => false | .lowering _ w => !w | _ => true

/-- Every line of a core's L1 written back and invalidated. -/
def State.purge (s : State) (core : Nat) : State :=
  let s := (s.core core).l1.foldl (fun s l => s.flushLine (dieOfCore core) l) s
  s.setCore core { s.core core with l1 := [] }

/-- FUSION_CHANGE (R37): all four cores are empty. It takes 2 µs, and till then no seat of the quad is free. -/
def execFusionChange (quad : Nat) (s : State) : Res :=
  if quad < Config.quads ∧ s.quadEmpty quad ∧ (s.quad quad).awake ∧ s.fusionDone quad then
    let s := (List.range 4).foldl (fun s i => s.purge (4 * quad + i)) s
    .next (s.setQuad quad { s.quad quad with fused := !(s.quad quad).fused, fusedAt := some s.devtime })
  else .fault (.notEnabled "FUSION_CHANGE")

/-! ### Pre-emption (R39, R40, R251 to R255) -/

/-- A running COMPUTE node with its seat. -/
structure Runner where
  launch : Launch
  node : Node
  key : Nat
  at_ : Nat
  deriving DecidableEq, Repr

def State.runners (s : State) : List Runner :=
  s.launches.flatMap fun l => l.nodes.filterMap fun n =>
    if n.kind = 0 ∧ n.state = .bound then
      match s.seat n.unit with
      | some q => if q.stopping.isNone then some ⟨l, n, n.unit, q.boundAt⟩ else none
      | none => none
    else none

/-- The nodes that are pre-empted with a node: the running members of its co-resident groups (R255). -/
def State.withGroup (s : State) (r : Runner) : List Runner :=
  if (r.launch.coGroups r.node).isEmpty then [r]
  else
    let ms := r.launch.together r.launch.nodes.length [r.node]
    s.runners.filter fun x => x.launch.ctx == r.launch.ctx && x.launch.id == r.launch.id && ms.any (·.addr == x.node.addr)

/-- The seats without those of a list. -/
def State.without (s : State) (keys : List Nat) : State :=
  keys.foldl (fun s k =>
    let s := s.dropSeat k
    let c := coreOf k
    if (s.residents c).isEmpty then s.setCore c { s.core c with res := .empty } else s) s

/-- The victim of R40: the lowest priority, and among those the one bound most recently. Of a co-resident group, bound at one
moment, the member bound last in the order of `bindSet` counts as the most recent: DESIGN CHOICE (assumption 70). -/
def pickVictim : List Runner → Option Runner
  | [] => none
  | x :: rest =>
    match pickVictim rest with
    | none => some x
    | some y =>
      if y.node.boundPrio < x.node.boundPrio ∨ (y.node.boundPrio = x.node.boundPrio ∧ x.at_ < y.at_) then some y else some x

/-- The seats that a node can be bound to: the free ones, and those of a quad of some that has been emptied, whose fusion can
then change (R37). -/
def State.usableSeats (s : State) (quads : List Nat) (l : Launch) (n : Node) : List Nat :=
  (List.range (2 * Config.cores)).filter fun k =>
    let q := quadOfCore (coreOf k)
    (s.seatOpen n.single n.fuse k || (quads.contains q && s.quadEmpty q && k % 2 == 0)) && !s.heldBack l n k

/-- The quads of some seats. -/
def quadsOf (keys : List Nat) : List Nat := keys.map fun k => quadOfCore (coreOf k)

/-- The runners whose pre-emption alone frees a seat that a node can use (R40), of a co-resident group as a whole (R255). -/
def State.candidates (s : State) (l : Launch) (n : Node) : List Runner :=
  s.runners.filter fun r =>
    let keys := (s.withGroup r).map (·.key)
    !((s.without keys).usableSeats (quadsOf keys) l n).isEmpty

/-- The seats that a ready node outside co-resident groups pre-empts (R40, R255). A victim by R40 whose group may not be
pre-empted leaves the node waiting, and no other candidate is tried: DESIGN CHOICE (assumption 70). -/
def State.victimOf (s : State) (l : Launch) (n : Node) : List Nat :=
  match pickVictim (s.candidates l n) with
  | none => []
  | some v =>
    let g := s.withGroup v
    if g.all fun r => decide (r.node.boundPrio + 2 ≤ n.effPri s.devtime) then g.map (·.key) else []

/-- Members of a group seated in turn, in a copy of the state, on the seats that they can use: the state, the seats, and the
members left over. -/
def State.seatThem (s : State) (quads : List Nat) (l : Launch) : List Node → State × List (Nat × Bool × Bool) × List Node
  | [] => (s, [], [])
  | n :: rest =>
    match (s.usableSeats quads l n).head? with
    | some key =>
      let q := quadOfCore (coreOf key)
      let s := if s.quadEmpty q then s.setQuad q { s.quad q with fused := n.fuse } else s
      let (s, seats, left) := (s.bindSeat l n key).seatThem quads l rest
      (s, (key, n.single, n.fuse) :: seats, left)
    | none =>
      let (s, seats, left) := s.seatThem quads l rest
      (s, seats, n :: left)

/-- The victims of a whole co-resident group (R39): one after another in the order of R40, each exceeded by every member; with
the seats that the members get. -/
def State.groupVictims (l : Launch) (pri : Nat) :
    Nat → State → List Node → List (Nat × Bool × Bool) → List Nat → Option (List (Nat × Bool × Bool) × List Nat)
  | _, _, [], seats, taken => some (seats, taken)
  | 0, _, _, _, _ => none
  | k + 1, s, left, seats, taken =>
    let able := s.runners.filter fun r =>
      let g := s.withGroup r
      let keys := g.map (·.key)
      !taken.contains r.key && g.all (fun x => decide (x.node.boundPrio + 2 ≤ pri))
        && left.any fun n => !((s.without keys).usableSeats (quadsOf (taken ++ keys)) l n).isEmpty
    match pickVictim able with
    | none => none
    | some v =>
      let keys := (s.withGroup v).map (·.key)
      let (s, more, left) := (s.without keys).seatThem (quadsOf (taken ++ keys)) l left
      State.groupVictims l pri k s left (seats ++ more) (taken ++ keys)

/-- The pre-emption that a ready COMPUTE node which finds no seat free brings about: what it holds, and its victims. One that
has won a pre-emption takes no second. -/
def State.victimsFor (s : State) (x : Launch × Node) : Option (Hold × List Nat) :=
  if x.2.kind ≠ 0 || s.heldFor x.1 x.2 then none
  else if (x.1.coGroups x.2).isEmpty then
    if (s.openSeats x.1 x.2).isEmpty then
      match s.victimOf x.1 x.2 with
      | [] => none
      | v => some (⟨x.1.ctx, x.1.id, [x.2.addr], v.map fun k => (k, x.2.single, x.2.fuse)⟩, v)
    else none
  else
    match s.bindSet x.1 x.2 with
    | none => none
    | some ms =>
      let pri := (ms.map fun n => n.effPri s.devtime).foldl min 7
      let (s', seats, left) := s.seatThem [] x.1 ms
      if left.isEmpty then none
      else (State.groupVictims x.1 pri (2 * Config.cores) s' left seats []).map fun r =>
        (⟨x.1.ctx, x.1.id, ms.map (·.addr), r.1⟩, r.2)

/-- The first ready node of R34's order that pre-empts. -/
def State.preemption (s : State) : Option (Hold × List Nat) := (inOrder s.devtime s.readyNodes).findSome? s.victimsFor

/-- The collector stops issue in a seat (R251). -/
def State.stopSeat (s : State) (key : Nat) (c : StopCause) : State :=
  s.mapSeat key fun q => { q with stopping := some c, stopSince := s.devtime, declared := false }

/-- The dispatcher pre-empts its victims all together, for the node or the group that is to be bound (R39, R40, R255). -/
def State.preemptFor (s : State) (p : Hold × List Nat) : State :=
  { p.2.foldl (fun s k => s.stopSeat k .dispatcher) s with holds := s.holds.filter s.holdLive ++ [p.1] }

/-- PREEMPT_DECLARED (R81, R251): every engine has acknowledged, at the boundary named (Table 11.6). -/
def execPreemptDeclared (stop : EngineStop) (s : State) : Res :=
  match s.seat stop.seat with
  | none => .fault (.notEnabled "PREEMPT_DECLARED")
  | some q =>
    if q.stopping.isSome && !q.declared && s.atBoundary stop.seat q then
      enabled "PREEMPT_DECLARED" ((s.partway stop.seat stop.part).map fun s =>
        s.mapSeat stop.seat fun q => { q.chainBack.markPart.noteReplay with declared := true })
    else .fault (.notEnabled "PREEMPT_DECLARED")

/-- The page a saved node still waits for (R248). -/
def State.blockedOn (s : State) (q : Seat) : Option Word :=
  match q.park, s.ctx q.ctx with
  | some p, some c => if c.requests.any fun r => r.node == q.node && r.va == p.va then some p.va else none
  | _, _ => none

/-- SAVE_COMPLETE (R213, R253, R254): dirty bytes are written back, and the node is ready again, with its seat saved. -/
def execSaveComplete (seat : Nat) (s : State) : Res :=
  match s.seat seat with
  | none => .fault (.notEnabled "SAVE_COMPLETE")
  | some q =>
    if q.declared then
      let s := s.writeBack (coreOf seat) q.cin
      let im := { q with stopping := none, declared := false, home := seat }
      let blocked := s.blockedOn q
      .next ((s.mapNode q.ctx q.launch q.node fun n =>
        { n with state := .ready, readyAt := s.devtime, image := some im, blocked := blocked }).freeSeat seat)
    else .fault (.notEnabled "SAVE_COMPLETE")

/-! ### Finishing (R30) and completion (R33) -/

/-- The scheduler and firmware, for a context: they act for no seat, so the U bit does not bind them. -/
def State.schedWho (s : State) (ctx : Nat) : Accessor := { s.collWho ctx with user := false }

/-- A node whose PREDCNT could not be reached is never released (R29). -/
def Node.lose (n : Node) : Node := if n.state = .unreleased then { n with state := .unreachable } else n

/-- One AADD.w of −1 at a successor's PREDCNT; one that cannot be reached is skipped, and its node never released (R29, R30).
`none` while its page migrates (R162). -/
def State.decrement (s : State) (who : Accessor) (launch : Nat) (node : Word) : Option State :=
  let a := node + 4
  if a.toNat % 4 ≠ 0 then some s
  else
    match s.translate who .atomic a with
    | (.ok h, s) => some (s.atomicRel h .add false 4 (2 ^ 32 - 1) 0).2.2
    | (.fault _, s) => some (s.mapNode who.ctx launch node Node.lose)
    | (.wait, _) => none

/-- The entries of a successor list (R27), from number i on. An entry that can no longer be read ends the list: DESIGN CHOICE
(assumption 71). -/
def State.decrementAll (who : Accessor) (launch : Nat) (list : Word) : Nat → Nat → State → Option State
  | 0, _, s => some s
  | k + 1, i, s =>
    match s.engineGet who 2 (list + BitVec.ofNat 64 (8 + 8 * i)) 8 with
    | .error _ => some s
    | .ok (b, _, s) => (s.decrement who launch (BitVec.ofNat 64 (leNat b))).bind (State.decrementAll who launch list k (i + 1))

/-- A node finishes (R30): its stores are at their homes, then its successors' counts fall; meanwhile it is finishing, and its
launch is not complete (R33). `none` while a count's page migrates. -/
def State.finishNode (s : State) (l : Launch) (n : Node) : Option State :=
  let put := fun (st : NodeState) (s : State) => s.mapNode l.ctx l.id n.addr fun n => { n with state := st, image := none }
  let s := (put .finishing s).unwatch l.ctx l.id n.addr
  let who := s.schedWho l.ctx
  (if n.succ = 0 then some s
   else
    match s.engineGet who 2 n.succ 4 with
    | .error _ => some s
    | .ok (b, _, s) => State.decrementAll who l.id n.succ (min 4096 (leNat b)) 0 s).map (put .finished)

/-- A halted seat has drained (R30, R43), and the samples of what it completed are written (R293). -/
def State.drainedSeat (s : State) (q : Seat) : Bool :=
  q.halted && q.pend.isEmpty && q.aside.isEmpty && q.gathers.isEmpty && q.chan.toList.all (·.isNone) && !q.forked
    && q.park.isNone && q.stopping.isNone && q.samples.isEmpty && !s.inColl q.ctx q.launch q.node

/-- A node that can finish: a COMPUTE node whose seat has drained, a TRANSFORM node, and a COLLECTIVE node whose part has ended
while a count's page migrated. -/
def State.canFinish (s : State) (n : Node) : Bool :=
  match n.kind with
  | 0 => n.state == .bound && (match s.seat n.unit with | some q => s.drainedSeat q | none => false)
  | 1 => n.state == .bound
  | _ => n.state == .finishing

/-- NODE_FINISH (R30, R31, R36). -/
def execNodeFinish (ctx : Nat) (node : Word) (s : State) : Res :=
  match s.launches.find? fun l => l.ctx = ctx ∧ l.state = .running ∧ l.nodes.any fun n => n.addr = node ∧ s.canFinish n with
  | none => .fault (.notEnabled "NODE_FINISH")
  | some l =>
    match l.node node with
    | none => .fault (.notEnabled "NODE_FINISH")
    | some n =>
      let s := if n.kind = 0 then
          match s.seat n.unit with
          | some q => (s.writeBack (coreOf n.unit) q.cin).freeSeat n.unit
          | none => s
        else s
      enabled "NODE_FINISH" (s.finishNode l n)

/-- The launch record (R304). -/
def Launch.record (l : Launch) (status : Nat) : Out :=
  let never := (l.nodes.filter fun n => !n.released).length
  match l.failures with
  | f :: _ => .completion l.vi l.peer l.seq status (BitVec.ofNat 64 never) f.node f.cause f.epc f.eval
  | [] => .completion l.vi l.peer l.seq status (BitVec.ofNat 64 never) 0 0 0 0

/-- LAUNCH_COMPLETE (R33, R304). -/
def execLaunchComplete (ctx launch : Nat) (s : State) : Res :=
  match s.launch ctx launch with
  | none => .fault (.notEnabled "LAUNCH_COMPLETE")
  | some l =>
    if l.state = .running ∧ l.idle then
      let status := if l.failures.isEmpty then 0 else 8
      .next { s.mapLaunch ctx launch fun l => { l with state := .complete } with out := l.record status :: s.out }
    else .fault (.notEnabled "LAUNCH_COMPLETE")

/-- COLLECTIVE_PART_COMPLETE (R361 to R365). -/
def execCollectivePartComplete (ctx : Nat) (collid : Word) (s : State) : Res :=
  onColl s ctx collid "COLLECTIVE_PART_COMPLETE" s.finishColl

/-! ### Pages that seats wait for (R248) -/

/-- 50 µs, and 100 ms. -/
def parkTicks : Nat := 5000
def answerTicks : Nat := 10000000

/-- PAGE_PARK_TIMEOUT (R248): the parked seat is pre-empted, to be saved. -/
def execPageParkTimeout (seat : Nat) (s : State) : Res :=
  match s.seat seat with
  | none => .fault (.notEnabled "PAGE_PARK_TIMEOUT")
  | some q =>
    match q.park with
    | some p =>
      if p.since + parkTicks ≤ s.devtime ∧ q.stopping.isNone then .next (s.stopSeat seat .page)
      else .fault (.notEnabled "PAGE_PARK_TIMEOUT")
    | none => .fault (.notEnabled "PAGE_PARK_TIMEOUT")

/-- The page will not come: a parked seat takes its trap, a saved one when it resumes. -/
def State.pageDenied (s : State) (ctx : Nat) (node va : Word) : State :=
  let s : State := match s.ctx ctx with
    | some c => s.setCtx ctx { c with requests := c.requests.filter fun r => !(r.node == node && r.va == va) }
    | none => s
  let s : State := { s with launches := s.launches.map fun (l : Launch) =>
    if l.ctx = ctx then
      { l with nodes := l.nodes.map fun n =>
          if n.addr = node ∧ n.blocked = some va then
            { n with blocked := none, image := n.image.map fun q => { q with pendingTrap := some (codeXlate, 1, va) } }
          else n }
    else l }
  match s.seats.find? fun (x : Nat × Seat) => x.2.ctx = ctx ∧ x.2.node = node ∧ x.2.park.isSome with
  | some (key, q) =>
    match q.park with
    | some p =>
      if p.va ≠ va then s
      -- a seat that is being stopped takes the trap at resume
      else if q.stopping.isSome then s.setSeat key { q with pendingTrap := some (codeXlate, 1, va) }
      else s.refusePark key p
    | none => s
  | none => s

/-- PAGE_ANSWER_TIMEOUT (R248): 100 ms without an answer. -/
def execPageAnswerTimeout (ctx : Nat) (node : Word) (s : State) : Res :=
  match s.ctx ctx with
  | none => .fault (.notEnabled "PAGE_ANSWER_TIMEOUT")
  | some c =>
    match c.requests.find? fun r => r.node = node ∧ r.since + answerTicks ≤ s.devtime with
    | some r => .next (s.pageDenied ctx node r.va)
    | none => .fault (.notEnabled "PAGE_ANSWER_TIMEOUT")

end Sys2Proof.Machine
end

