-- ==== Sys2Proof/Machine/Frames.lean ====
section
/-!
DEFINITION. Sys2Proof/Machine/Frames.lean: what firmware does with frames and page tables when it maps a range (R434) or
installs a page (R248): the region a placement asks for, frames that are free, their contents, and writing a leaf.
Which free frame firmware takes is left to it: an argument of the event.
-/
namespace Sys2Proof.Machine

/-! ### Regions and frames -/

def allRegions : List Region :=
  [.interleaved, .local_ 0, .local_ 1, .local_ 2, .local_ 3, .fleeting 0, .fleeting 1, .fleeting 2, .fleeting 3,
   .window, .device]

/-- The regions that Table 6.1 assigns to a memory type and placement. -/
def regionsFor (mt plc : Nat) : List Region := allRegions.filter fun r => r.accepts mt plc

/-- First address and size of a region (Table 6.1). -/
def Region.span (lg : Nat) : Region → Nat × Nat
  | .interleaved => (0, 4 * (192 - lg) * gib)
  | .local_ d => (localBase d, lg * gib)
  | .fleeting d => (fleetBase d, 2 ^ 28)
  | .window => (windowBase, 2 ^ 48)
  | .device => (deviceBase, 2 ^ 48)
  | .hole => (0, 0)

/-- The command ring of a VI (R302). -/
def Vi.ring (v : Vi) : Nat × Nat := (v.prov.ringBase, 64 * v.prov.ringSize)

/-- Memory that is given out: frames, page tables and command rings. -/
def State.taken (s : State) : List (Nat × Nat) := s.frames ++ s.vis.map fun x => x.2.ring

def State.isFree (s : State) (a n : Nat) : Bool := s.taken.all fun f => decide (a + n ≤ f.1) || decide (f.1 + f.2 ≤ a)

/-- A frame lies, aligned, in one of the regions. -/
def frameFits (lg : Nat) (rs : List Region) (size a : Nat) : Bool :=
  decide (a % size = 0) && rs.any fun r => decide ((r.span lg).1 ≤ a) && decide (a + size ≤ (r.span lg).1 + (r.span lg).2)

/-- The frames that one leaf names: with PLC 5 the copies of all four dies (R434). -/
def copiesOf (plc a : Nat) : List Nat := if plc = 5 then (List.range 4).map fun e => a + e * 2 ^ 40 else [a]

/-- Firmware takes frames: `none` unless each is aligned, in its region and free. -/
def State.takeFrames (s : State) (rs : List Region) (plc size : Nat) : List Nat → Option State
  | [] => some s
  | a :: rest =>
    if frameFits s.pkg.lg rs size a && (copiesOf plc a).all fun x => s.isFree x size then
      { s with frames := s.frames ++ (copiesOf plc a).map fun x => (x, size) }.takeFrames rs plc size rest
    else none

/-- Aligned blocks of a size in the gaps between the listed ranges, which stand in rising order. -/
def gapBlocks (size hi : Nat) : Nat → List (Nat × Nat) → Nat
  | cur, [] => hi / size - (cur + size - 1) / size
  | cur, (b, n) :: rest => min b hi / size - (cur + size - 1) / size + gapBlocks size hi (max cur (b + n)) rest

/-- How many frames of a size are free for a placement. With PLC 5 a frame is free where all four copies are. -/
def State.freeFrames (s : State) (rs : List Region) (plc size : Nat) : Nat :=
  let used := s.taken.map fun f =>
    if plc = 5 ∧ localBase 0 ≤ f.1 ∧ f.1 < localBase 4 then (localBase 0 + (f.1 - localBase 0) % 2 ^ 40, f.2) else f
  let sorted := used.foldl (fun m f => mapInsert m f.1 (max f.2 (mapGet 0 m f.1))) []
  (rs.map fun r => gapBlocks size ((r.span s.pkg.lg).1 + (r.span s.pkg.lg).2) (r.span s.pkg.lg).1 sorted).foldl (· + ·) 0

/-- Zeros in a range of memory. -/
def State.zero (s : State) (a n : Nat) : State := { s with mem := s.mem.filter fun c => decide (c.1 < a) || decide (a + n ≤ c.1) }

/-- Every tile of the fleeting frames expires (R179). -/
def State.expireIn (s : State) (a n : Nat) : State :=
  let hit := s.tiles.filter fun x => decide (a ≤ tileBase x.1) && decide (tileBase x.1 < a + n)
  hit.foldl (fun s x => s.expire x.1) s

/-- The expanded lines of a range leave the LLC. -/
def State.dropExpanded (s : State) (a n : Nat) : State :=
  { s with llcExp := s.llcExp.filter fun x => !(decide (a ≤ x.1) && decide (x.1 < a + n)) }

/-- The contents firmware gives a frame (R434): zeros, the ZERO encoding in every tile slot, or expired tiles. -/
def State.prepare (s : State) (mt a n : Nat) : State :=
  match mt with
  | 0 => s.zero a n
  | 1 => s.expireIn a n
  | 2 =>
    (List.range (n / 256)).foldl (fun s t => s.homePut (a + t / 16 * 4096 + 160 * (t % 16)) [0, 2]) (s.dropExpanded a n)
  | _ => s

/-! ### Page tables -/

/-- A page table takes 16 KiB of device memory; firmware zeroes it before it is used (R140). -/
def State.takeTable (s : State) : List Nat → Option (Nat × List Nat × State)
  | [] => none
  | a :: rest =>
    (s.takeFrames (regionsFor 0 7) 0 16384 [a]).map fun s => (a, rest, s.zero a 16384)

/-- A leaf written for a page, with the tables on the way that do not exist yet (R140, R141); the table frames left over
come back. -/
def State.putLeaf (va size : Nat) (leaf : Word) : List (Nat × Nat) → Nat → List Nat → State → Option (List Nat × State)
  | [], _, _, _ => none
  | (sh, sz) :: rest, table, free, s =>
    let pte := table + 8 * bits va sh 11
    if sz = size then some (free, s.homePut pte (leBytes 8 leaf.toNat))
    else
      let cur : Word := BitVec.ofNat 64 (leNat (s.homeGet pte 8))
      if pteV cur then State.putLeaf va size leaf rest (ptePa cur) free s
      else
        match s.takeTable free with
        | none => none
        | some (a, free, s) =>
          State.putLeaf va size leaf rest a free (s.homePut pte (leBytes 8 (a + 1)))

/-- Pages of one size from an address on, each on the next frame of the list. -/
def State.putPages (root size : Nat) (attrs : Word) : Nat → List Nat → List Nat → State → Option (List Nat × State)
  | _, [], free, s => some (free, s)
  | va, a :: rest, free, s =>
    let s := (copiesOf (ptePlc attrs) a).foldl (fun s x => s.prepare (pteMt attrs) x size) s
    match State.putLeaf va size (attrs ||| BitVec.ofNat 64 (a + 1)) walkLevels root free s with
    | none => none
    | some (free, s) => State.putPages root size attrs (va + size) rest free s

/-- The bits of an argument A2 that a leaf takes (Table 15.3). -/
def leafBits : Word := 0xFC000000000000F0#64

/-- Firmware maps pages of one size on frames it chose; `none` when it could not have chosen so. -/
def State.mapPages (s : State) (root va size : Nat) (attrs : Word) (frames tables : List Nat) : Option State :=
  match s.takeFrames (regionsFor (pteMt attrs) (ptePlc attrs)) (ptePlc attrs) size frames with
  | none => none
  | some s =>
    match State.putPages root size attrs va frames tables s with
    | some ([], s) => some s
    | _ => none

/-- The page size of a MAP (R434): the largest to which the range is aligned and which fits inside its region. -/
def mapSize (lg va n : Nat) (attrs : Word) : Nat :=
  let fits := fun (z : Nat) => (regionsFor (pteMt attrs) (ptePlc attrs)).any fun r => decide (z ≤ (r.span lg).2)
  if ptePlc attrs = 7 then 16384
  else if va % 2 ^ 36 = 0 ∧ n % 2 ^ 36 = 0 ∧ fits (2 ^ 36) then 2 ^ 36
  else if va % 2 ^ 25 = 0 ∧ n % 2 ^ 25 = 0 ∧ fits (2 ^ 25) then 2 ^ 25
  else 16384

/-- A leaf of any size stands on the way to an address, be it one that a walk rejects (R142). -/
def leafOnWay (m : List Host.Cell) (va : Nat) : List (Nat × Nat) → Nat → Bool
  | [], _ => false
  | (sh, _) :: rest, table =>
    let w : Word := BitVec.ofNat 64 (leNat (memBytes m (table + 8 * bits va sh 11) 8))
    pteV w && (pteLeaf w || leafOnWay m va rest (ptePa w))

/-- A page of the range is mapped by a leaf (R434). -/
def State.mapped (s : State) (ctx va n : Nat) : Bool :=
  match s.ctx ctx with
  | some x => (List.range (n / 16384)).any fun i => leafOnWay s.mem (va + 16384 * i) walkLevels (ptePa x.ptroot)
  | none => false

end Sys2Proof.Machine
end

