-- ==== Sys2Proof/Machine/HostCmd.lean ====
section
/-!
DEFINITION. Sys2Proof/Machine/HostCmd.lean: the command queue of a VI (R302 to R304): the doorbell, and every command of
Table 15.3. An event names the VI; what it performs is the entry of that VI's ring whose turn it is.
-/
namespace Sys2Proof.Machine

/-- A command entry (Table 15.2). -/
structure HCmd where
  opc : Nat
  reserved : Nat
  seq : BitVec 32
  handle : Nat
  args : List Word
  deriving DecidableEq, Repr

/-- Entries of the ring that have not been started: the doorbell counter is 8 bytes, and wraps (R302). -/
def Vi.pending (v : Vi) : Nat := (v.doorbell - BitVec.ofNat 64 v.next).toNat

def HCmd.a (c : HCmd) (i : Nat) : Word := c.args.getD i 0

def hcmdOf (bs : List Byte) : HCmd :=
  let v := leNat bs
  ⟨bits v 0 16, bits v 16 16, BitVec.ofNat 32 (bits v 32 32), bits v 64 64,
    (List.range 6).map fun i => BitVec.ofNat 64 (bits v (128 + 64 * i) 64)⟩

/-- The entry whose turn it is; the device sees every write acknowledged before the doorbell (R302). -/
def State.hcmd (s : State) (v : Vi) : HCmd := hcmdOf (s.homeGet (v.prov.ringBase + 64 * (v.next % v.prov.ringSize)) 64)

/-- The commands of Table 15.3, and QUERY's three items. -/
def HCmd.listed (c : HCmd) : Bool := decide (1 ≤ c.opc) && decide (c.opc ≤ 11) && (c.opc != 5 || decide ((c.a 0).toNat ≤ 2))

/-- The status codes of Table 15.4. -/
def stOk : Nat := 0
def stNoCtx : Nat := 1
def stBadHandle : Nat := 2
def stGraphInvalid : Nat := 3
def stKilled : Nat := 4
def stKillBusy : Nat := 5
def stBadArg : Nat := 6
def stAuthFail : Nat := 7
def stStopped : Nat := 9

/-- How a command ends: the status, VALUE, the node it names, and the state with its effect. -/
structure Reply where
  status : Nat
  value : Word
  node : Word
  st : State
  deriving DecidableEq, Repr

/-- A reply that changes nothing. -/
def State.says (s : State) (status : Nat) : Option Reply := some ⟨status, 0, 0, s⟩

def State.mapVi (s : State) (vi : Nat) (f : Vi → Vi) : State :=
  { s with vis := s.vis.map fun x => (x.1, if x.1 = vi then f x.2 else x.2) }

/-- The endpoint to which the completion of a VI's next entry goes: the one whose write of the doorbell brought that entry
(R302, R304). -/
def Vi.peer (v : Vi) : Nat := match v.rings with | x :: _ => x.2 | [] => 0
def State.peerOf (s : State) (vi : Nat) : Nat := match mapFind s.vis vi with | some v => v.peer | none => 0

/-- An entry of the ring has been answered. -/
def spendRing : List (Nat × Nat) → List (Nat × Nat)
  | [] => []
  | (n, p) :: rest => if 1 < n then (n - 1, p) :: rest else rest

/-- The completion of a command (R304), and the turn of the next one. -/
def State.answer (s : State) (vi : Nat) (c : HCmd) (status : Nat) (value node : Word) : State :=
  { s.mapVi vi fun v => { v with next := v.next + 1, rings := spendRing v.rings } with
    out := .completion vi (s.peerOf vi) c.seq status value node 0 0 0 :: s.out }

/-- Entries at the head of the ring that Table 15.3 does not list complete at once, and every entry does after a device
stop. In recovery the controller serves nothing but the attestation (R306). -/
def State.settle (vi : Nat) : Nat → State → State
  | 0, s => s
  | k + 1, s =>
    match mapFind s.vis vi with
    | none => s
    | some v =>
      if v.pending = 0 || (s.pkg.recovery && !s.pkg.stopped) then s
      else
        let c := s.hcmd v
        if s.pkg.stopped then (s.answer vi c stStopped 0 0).settle vi k
        else if c.listed then s
        else (s.answer vi c stBadArg 0 0).settle vi k

def State.settled (s : State) (vi : Nat) : State :=
  match mapFind s.vis vi with
  | some v => s.settle vi v.pending
  | none => s

/-- Firmware takes commands: it has booted; in recovery the controller serves the attestation alone (R306). -/
def State.serves (s : State) (attest : Bool) : Bool := if s.pkg.recovery then attest else s.pkg.booted

/-- A command performs (R302, R303): the entry's turn has come and it is the command the event names. `f` gives its reply,
or `none` when it cannot perform yet, or not so. -/
def onCmd (s : State) (vi : Nat) (is : HCmd → Bool) (attest : Bool) (row : String) (f : Vi → HCmd → Option Reply) : Res :=
  match mapFind s.vis vi with
  | none => .fault (.notEnabled row)
  | some v =>
    let c := s.hcmd v
    if v.pending = 0 || !c.listed || !is c || !s.serves attest then .fault (.notEnabled row)
    else
      let r := if s.pkg.stopped then s.says stStopped
        else if c.reserved ≠ 0 then s.says stBadArg
        else f v c
      match r with
      | none => .fault (.notEnabled row)
      | some r => .next ((r.st.answer vi c r.status r.value r.node).settled vi)

def opcIs (n : Nat) (c : HCmd) : Bool := c.opc == n

/-- A command on a context that its handle names. -/
def onCtxCmd (s : State) (vi opc : Nat) (row : String) (f : Nat → Ctx → Vi → HCmd → Option Reply) : Res :=
  onCmd s vi (opcIs opc) false row fun v c =>
    match s.ctxOf vi c.handle with
    | none => s.says stBadHandle
    | some (k, x) => f k x v c

/-- DOORBELL (R302, R304): the host adds to D, from an endpoint of its own, which gets the completions of the entries this brings. -/
def State.ring (s : State) (vi : Nat) (r : RingWrite) : State :=
  (s.mapVi vi fun v => { v with
    doorbell := v.doorbell + BitVec.ofNat 64 r.count
    rings := if r.count = 0 then v.rings else v.rings ++ [(r.count, r.peer)] }).settled vi

def execDoorbell (vi : Nat) (ring : RingWrite) (s : State) : Res :=
  match mapFind s.vis vi with
  | some _ => if s.pkg.booted || s.pkg.recovery then .next (s.ring vi ring) else .fault (.notEnabled "DOORBELL")
  | none => .fault (.notEnabled "DOORBELL")

/-! ### Contexts -/

/-- The lowest number from `lo` below `hi` that a list does not hold. -/
def lowestFree (lo hi : Nat) (l : List Nat) : Option Nat := ((List.range (hi - lo)).map (lo + ·)).find? fun n => !l.contains n

/-- A new context (R22, R23, R436). -/
def freshCtx (vi handle root : Nat) : Ctx where
  vi := vi
  handle := handle
  inc := 0
  ptroot := BitVec.ofNat 64 root
  reclaim := none
  onDemand := []
  requests := []
  nextLaunch := 1
  localRq := Vector.replicate 4 0
  remoteRq := Vector.replicate 4 0
  firmware := false

/-- CREATE_CTX (R22, R23, R436); `root` is the frame of its level-0 table. -/
def execCreateCtx (vi root : Nat) (s : State) : Res :=
  onCmd s vi (opcIs 1) false "CREATE_CTX" fun _ c =>
    if c.handle ≠ 0 then s.says stBadArg
    else
      match lowestFree 0 Config.contexts (s.ctxs.map (·.1)),
          lowestFree 1 4097 ((s.ctxs.filter fun x => x.2.vi == vi).map fun x => x.2.handle) with
      | some k, some h =>
        (s.takeTable [root]).map fun x =>
          ⟨stOk, BitVec.ofNat 64 h, 0, x.2.2.setCtx k (freshCtx vi h root)⟩
      | _, _ => s.says stNoCtx

/-- The arguments of MAP that R434 refuses. -/
def State.mapBad (s : State) (ctx : Nat) (a0 a1 a2 a3 : Word) : Bool :=
  let mt := pteMt a2
  let plc := ptePlc a2
  decide (a1 = 0) || decide (a0.toNat % 16384 ≠ 0) || decide (a1.toNat % 16384 ≠ 0) || decide (2 ^ 58 < a0.toNat + a1.toNat)
    || decide (a2 &&& leafBits ≠ a2) || decide (a3 &&& 1 ≠ a3)
    || (regionsFor mt plc).isEmpty || (decide (plc = 5) && pteW a2) || (decide (plc = 7) && mt != 0 && mt != 2)
    || s.mapped ctx a0.toNat a1.toNat

/-- MAP (R434): an on-demand range is noted; otherwise every leaf is written, on frames that firmware chose. -/
def execMap (vi : Nat) (frames tables : List Nat) (s : State) : Res :=
  onCtxCmd s vi 2 "MAP" fun k x _ c =>
    let a0 := c.a 0; let a1 := c.a 1; let a2 := c.a 2
    if s.mapBad k a0 a1 a2 (c.a 3) then s.says stBadArg
    else if c.a 3 = 1 then
      some ⟨stOk, 0, 0, s.setCtx k { x with onDemand := x.onDemand ++ [⟨a0.toNat, a1.toNat, a2⟩] }⟩
    else
      let size := mapSize s.pkg.lg a0.toNat a1.toNat a2
      let n := a1.toNat / size
      if s.freeFrames (regionsFor (pteMt a2) (ptePlc a2)) (ptePlc a2) size < n then s.says stBadArg
      else if frames.length ≠ n then none
      else (s.mapPages (ptePa x.ptroot) a0.toNat size a2 frames tables).map fun s => ⟨stOk, 0, 0, s⟩

/-! ### Graphs (R24 to R28, R436) -/

/-- An address translates, as an MT 0 page with R = 1 and W = 1. -/
def State.plainPage (s : State) (ctx : Nat) (a : Nat) : Bool :=
  match s.walk ctx a with
  | .ok l => pteMt l.word == 0 && pteR l.word && pteW l.word && decide (a < 2 ^ 58)
  | .error _ => false

/-- A node as LOAD_GRAPH reads it, with what its reserved fields hold (Tables 2.1 and 2.2). -/
structure RawNode where
  node : Node
  reserved : Bool
  deriving DecidableEq, Repr

def rawNode (a : Word) (bs : List Byte) : RawNode :=
  let v := leNat bs
  let slot := fun (g : Nat) => bits v (192 + 16 * g) 16
  { node :=
      { addr := a, kind := bits v 0 2, ctl := BitVec.ofNat 32 (bits v 0 32), entry := BitVec.ofNat 64 (bits v 64 64),
        succ := BitVec.ofNat 64 (bits v 128 64)
        gslots := Vector.ofFn fun i : Fin 4 =>
          if 2 ^ 15 ≤ slot i.val then some (BitVec.ofNat 8 (slot i.val)) else none
        args := Vector.ofFn fun i : Fin 8 => BitVec.ofNat 64 (bits v (256 + 64 * i.val) 64)
        opnds := Vector.ofFn fun i : Fin 8 => BitVec.ofNat 32 (bits v (768 + 32 * i.val) 32)
        state := .unreleased, readyAt := 0, boundPrio := 0, unit := 0, released := false, regs := none, blocked := none, image := none }
    reserved := decide (bits v 7 17 ≠ 0) || (List.range 4).any fun g => decide (bits (slot g) 8 7 ≠ 0) }

/-- The successor list of a node (R27), or `none` when it does not translate or is too long. -/
def State.succList (s : State) (who : Accessor) (n : Node) : Option (List Word) :=
  if n.succ = 0 then some []
  else if n.succ.toNat % 8 ≠ 0 then none
  else
    match s.engineGet who 2 n.succ 4 with
    | .error _ => none
    | .ok (b, _, s) =>
      let k := leNat b
      if 4096 < k then none
      else
        match s.engineGet who (8 * k + 1) (n.succ + 8) (8 * k) with
        | .error _ => none
        | .ok (l, _, _) => some ((List.range k).map fun i => BitVec.ofNat 64 (leNat ((l.drop (8 * i)).take 8)))

/-- Node addresses that a path of successor links reaches from a set, in at most k more links. -/
def reach (links : List (Word × List Word)) : Nat → List Word → List Word
  | 0, r => r
  | k + 1, r =>
    let more := (links.filter fun x => r.contains x.1).flatMap (·.2)
    let r' := (r ++ more).eraseDups
    if r'.length = r.length then r else reach links k r'

/-- What makes one node offend (R28). `table` holds the group entries, each 16 bytes as a number. -/
def offends (raw : List RawNode) (links : List (Word × Option (List Word))) (table : List Nat) (i : Nat) (r : RawNode) : Bool :=
  let n := r.node
  let nodes := raw.map (·.node)
  let entry := fun (g : BitVec 8) => table.getD g.toNat 0
  let okLinks := links.map fun x => (x.1, (x.2.getD []).filter fun a => nodes.any (·.addr == a))
  let mine := (links.find? fun x => x.1 == n.addr).bind (·.2)
  let first := (mine.getD []).filter fun a => nodes.any (·.addr == a)
  let reached := reach okLinks nodes.length first.eraseDups
  let groups := n.gslots.toList.filterMap id
  n.kind == 3 || r.reserved
    || (n.ctl.getLsbD 31 && decide (71 < bits n.ctl.toNat 24 7))
    || n.opnds.toList.any (fun o => decide (o.toNat / 2 ^ 30 = 0) && decide (o.toNat % 2 ^ 30 ≠ 0))
    || (n.kind == 0 && decide (n.entry.toNat % 4 ≠ 0))
    || ((n.kind == 1 || n.kind == 2) && (n.single || n.fuse || !groups.isEmpty))
    || mine.isNone
    || (mine.getD []).any (fun a => !nodes.any (·.addr == a))
    || groups.any (fun g => decide (entry g / 2 ^ 31 % 2 = 0) || decide (entry g % 2 ^ 30 ≠ 0) || decide (2 ^ 32 ≤ entry g))
    || reached.any (fun a => a != n.addr && nodes.any fun m =>
        m.addr == a && m.gslots.toList.any fun g => match g with | some g => groups.contains g | none => false)
    || groups.any (fun g => decide (entry g / 2 ^ 30 % 2 = 1)
        && ((raw.take i).filter fun x => x.node.gslots.toList.contains (some g)).length == 576)

/-- The group table that A2 names (R52, R436); 0 gives 256 invalid entries. -/
def State.groupTable (s : State) (who : Accessor) (a2 : Word) : Option (List Nat) :=
  if a2 = 0 then some []
  else if a2.toNat % 16 ≠ 0 then none
  else
    match s.engineGet who 66 a2 4096 with
    | .error _ => none
    | .ok (l, _, _) => some ((List.range 256).map fun g => leNat ((l.drop (16 * g)).take 16))

/-- LOAD_GRAPH (R28, R436): the nodes as they are read now are those that LAUNCH starts. -/
def execLoadGraph (vi : Nat) (s : State) : Res :=
  onCtxCmd s vi 3 "LOAD_GRAPH" fun k x _ c =>
    let a0 := c.a 0
    let n := (c.a 1).toNat
    let who := s.schedWho k
    if a0.toNat % 128 ≠ 0 ∨ n = 0 ∨ 1048576 < n then s.says stBadArg
    else if (List.range n).any fun i => !s.plainPage k (a0.toNat + 128 * i) then s.says stBadArg
    else
      match s.groupTable who (c.a 2) with
      | none => s.says stBadArg
      | some table =>
        let raw := (List.range n).map fun i =>
          let a := a0 + BitVec.ofNat 64 (128 * i)
          match s.engineGet who 3 a 128 with
          | .ok (b, _, _) => rawNode a b
          | .error _ => rawNode a []
        let links := raw.map fun r => (r.node.addr, s.succList who r.node)
        match raw.zipIdx.find? fun r => offends raw links table r.2 r.1 with
        | some (r, _) => some ⟨stGraphInvalid, 0, r.node.addr, s⟩
        | none =>
          let l : Launch := ⟨k, x.nextLaunch, x.inc, vi, 0, 0, .loaded, raw.map (·.node),
            (List.range 256).map fun g => BitVec.ofNat 32 (table.getD g 0), [], none, [], []⟩
          some ⟨stOk, BitVec.ofNat 64 x.nextLaunch, 0,
            { s with launches := s.launches ++ [l] }.setCtx k { x with nextLaunch := x.nextLaunch + 1 }⟩

/-- The PREDCNT of a node, read at launch (R29): `none` when it cannot be reached. -/
def State.predcnt (s : State) (who : Accessor) (n : Node) : Option Nat :=
  match s.engineGet who 2 (n.addr + 4) 4 with
  | .ok (b, _, _) => some (leNat b)
  | .error _ => none

/-- A node at launch (R29): released where its PREDCNT is 0, and never where that cannot be reached. -/
def State.atLaunch (s : State) (who : Accessor) (n : Node) : Node :=
  match s.predcnt who n with
  | some 0 => { n with state := .ready, released := true, readyAt := s.devtime }
  | some _ => n
  | none => n.lose

/-- LAUNCH (R29, R304, R436): nodes whose PREDCNT is 0 are released. -/
def execLaunch (vi : Nat) (s : State) : Res :=
  onCtxCmd s vi 4 "LAUNCH" fun k x v c =>
    match s.launch k (c.a 0).toNat with
    | none => s.says stBadArg
    | some l =>
      if l.state ≠ .loaded ∨ l.inc ≠ x.inc then s.says stBadArg
      else
        let who := s.schedWho k
        some ⟨stOk, 0, 0, s.mapLaunch k l.id fun l =>
          { l with seq := c.seq, peer := v.peer, state := .running
                   nodes := l.nodes.map (s.atLaunch who) }⟩

/-! ### Queries (R308) -/

/-- QUERY of a context or a launch: the spec does not lay its result out. -/
def execQueryContext (vi : Nat) (info : List Byte) (s : State) : Res :=
  onCmd s vi (fun c => c.opc == 5 && c.a 0 == 0) false "QUERY_CONTEXT" fun _ c =>
    if c.handle ≠ 0 ∧ (s.ctxOf vi c.handle).isNone then s.says stBadHandle
    else some ⟨stOk, 0, 0, { s with out := .query vi (c.a 2) info :: s.out }⟩

def execQueryLaunch (vi : Nat) (info : List Byte) (s : State) : Res :=
  onCmd s vi (fun c => c.opc == 5 && c.a 0 == 1) false "QUERY_LAUNCH" fun _ c =>
    if (s.ctxOf vi c.handle).isNone then s.says stBadHandle
    else some ⟨stOk, 0, 0, { s with out := .query vi (c.a 2) info :: s.out }⟩

/-- A SHA-256 digest in bytes, the first of them the most significant. -/
def digestBytes (d : BitVec 256) : List Byte := (leBytes 32 d.toNat).reverse

/-- The telemetry summary (R308): LIFE and hottest junction temperature of each compute die, and the thermal row of each stack;
how 64 bytes hold them is left open (assumption 1). -/
def State.summary (s : State) : List Byte :=
  let dies := List.range Config.dies
  let lives := dies.map fun d => (s.die d).life
  let temps := dies.map fun d => (s.die d).readings.head?.map (·.2)
  let rows := (List.range Config.hbm).map fun k => (s.stack k).row
  (List.range 64).map (Config.telemetry lives temps rows)

/-- An attestation report for a VI (Table 15.6): it names no other VI's routines. In recovery the firmware measurement is zero
(R306). -/
def State.report (s : State) (v : Vi) (nonce signature : List Byte) : List Byte :=
  let fixed := fun (lo n : Nat) => (List.range n).map fun i => Config.identity (lo + i)
  leBytes 4 1 ++ fixed 0 32 ++ nonce ++ fixed 32 32
    ++ (if s.pkg.recovery then List.replicate 32 0 else fixed 64 32)
    ++ leBytes 4 Config.rollback ++ digestBytes (Config.sha256 (v.routines.flatMap fun r => digestBytes r.2.2.2)) ++ s.summary ++ signature

/-- What the management endpoint alone receives (R308): the corrected errors by unit (R258), by quad and by stack pair the
balancer's steps and the Gust locks, each stack's code and row (R280), and the frames of each VI that named no context or
stream (R232). Package power is no part of the state (assumption 75). -/
structure Telemetry where
  corrected : Sparse Nat
  steps : List (BitVec 48)
  locked : List Bool
  hbmRows : List (Int × Nat)
  unroutable : List (Nat × Nat)
  deriving DecidableEq, Repr

/-- The full telemetry, as the management endpoint reads it: reading it changes nothing. -/
def State.telemetry (s : State) : Telemetry :=
  ⟨s.pkg.corrected, (List.range Config.quads).map fun k => (s.quad k).steps,
    (List.range Config.pairs).map fun k => (s.pair k).locked,
    (List.range Config.hbm).map fun k => ((s.stack k).code, (s.stack k).row),
    s.vis.map fun x => (x.1, x.2.unroutable)⟩

/-- QUERY of the attestation (R306, R308): the nonce is what A1 names, the signature what the controller's key makes. -/
def execQueryAttestation (vi : Nat) (nonce signature : List Byte) (s : State) : Res :=
  onCmd s vi (fun c => c.opc == 5 && c.a 0 == 2) true "QUERY_ATTESTATION" fun v c =>
    if c.handle ≠ 0 ∧ (s.ctxOf vi c.handle).isNone then s.says stBadHandle
    else if nonce.length ≠ 32 ∨ signature.length ≠ 17088 then none
    else some ⟨stOk, 0, 0, { s with out := .query vi (c.a 2) (s.report v nonce signature) :: s.out }⟩

/-! ### Kill and reclaim (R260 to R263) -/

/-- The nodes of a killed launch that had not finished are discarded. -/
def Node.kill (n : Node) : Node :=
  { n with state := if n.state == .finished || n.state == .failed then n.state else .discarded, image := none, blocked := none }

/-- The record of a launch that is complete of itself (R33, R304). -/
def Launch.ownRecord (l : Launch) : Out := l.record (if l.failures.isEmpty then 0 else 8)

/-- The launches of the killed incarnation: a running one completes with KILLED, which counts the nodes still unreleased, but for
one that was complete before the kill (R33); one that has only been loaded is launched no more (R436). -/
def killLaunches (ctx now : Nat) : List Launch → List Launch × List Out
  | [] => ([], [])
  | l :: rest =>
    let (r, o) := killLaunches ctx now rest
    if l.ctx = ctx ∧ l.state = .running then
      ({ l with state := .complete, nodes := l.nodes.map Node.kill, killed := some now } :: r,
        o ++ [if l.idle then l.ownRecord else l.record stKilled])
    else if l.ctx = ctx ∧ l.state = .loaded then ({ l with state := .complete, killed := some now } :: r, o)
    else (l :: r, o)

/-- The context's streams are reset, at the kill (R237). -/
def State.resetStreams (s : State) (ctx : Nat) (x : Ctx) : State :=
  (s.streams.filter fun y => y.1 / 256 == ctx).foldl (fun s y => s.resetStream ctx (y.1 % 256) x y.2) s

/-- The kill of a context (R260): one step at the context manager, which updates every unit's copy of the incarnation table
with it (R261). What a unit still holds of the old incarnation is dropped, as it may be (assumption 72). -/
def State.kill (s : State) (ctx : Nat) (x : Ctx) : State :=
  let s := (s.saved.filter fun y => y.1 == ctx).foldl (fun s y => s.discard firstSaved y.2.2.2) s
  let s := (s.seats.filter fun y => y.2.ctx == ctx).foldl (fun s y => (s.discard y.1 y.2).freeSeat y.1) s
  let (ls, o) := killLaunches ctx s.devtime s.launches
  let s := { s with launches := ls, out := o ++ s.out, colls := s.colls.filter fun p => p.ctx != ctx }
  -- the reset is the new incarnation's first event on a stream, and no stale write (R237)
  let s := s.resetStreams ctx { x with inc := x.inc + 1 }
  s.setCtx ctx { x with inc := x.inc + 1, reclaim := some (x.inc, s.devtime), requests := [] }

/-- KILL (R260, R303): the host's command, or a kill that privileged firmware starts, of any context. -/
def execKill (by_ : Killer) (s : State) : Res :=
  match by_ with
  | .host vi => onCtxCmd s vi 6 "KILL" fun k x _ _ =>
    if x.reclaim.isSome then s.says stKillBusy else some ⟨stOk, 0, 0, s.kill k x⟩
  | .firmware ctx => enabled "KILL" ((s.ctx ctx).bind fun x => if x.reclaim.isSome then none else some (s.kill ctx x))

/-- PREEMPT (R39, R40, R248, R251, R255, R260): for a ready node or a co-resident group, the dispatcher's victims all together;
a seat that has waited too long for its page; or the seats of a context that privileged firmware kills. A halt for debugging
is DHALT's own stop, and an ECC error takes its trap. -/
def execPreempt (seat : Nat) (cause : StopCause) (s : State) : Res :=
  enabled "PREEMPT" (match cause, s.seat seat with
    | .dispatcher, _ => s.preemption.bind fun p => if p.2.contains seat then some (s.preemptFor p) else none
    | .page, some q =>
      (q.park.bind fun p => if p.since + parkTicks ≤ s.devtime ∧ q.stopping.isNone then some (s.stopSeat seat .page) else none)
    | .kill, some q => (s.ctx q.ctx).bind fun x => if x.reclaim.isSome then none else some (s.kill q.ctx x)
    | _, _ => none)

/-- RECLAIM (R263): completes when no reclaim of the context is in progress. -/
def execReclaim (vi : Nat) (s : State) : Res :=
  onCtxCmd s vi 7 "RECLAIM" fun _ x _ _ => if x.reclaim.isSome then none else s.says stOk

/-- RECLAIM_COMPLETE (R262): the old incarnation's lines and translations go, and its fleeting tiles expire. It waits until every
stream has been reset (R237). -/
def State.reclaimed (s : State) (ctx : Nat) (x : Ctx) (old : BitVec 6) : State :=
  let cin := cinOf ctx old
  let s : State := { s with cores := s.cores.map fun (y : Nat × Core) => (y.1, { y.2 with l1 := y.2.l1.filter fun l => l.cin != cin, il1 := y.2.il1.filter fun l => l.1 != cin }) }
  let s := s.tlbDrop fun e => e.cin == cin
  let s := (fleetFrames s.mem walkLevels (ptePa x.ptroot)).foldl (fun s f => s.expireIn f.1 f.2) s
  -- a write of the old incarnation that waits for a migration is stale, and never performed (R261)
  let s : State := { s with migs := s.migs.map fun g => { g with held := g.held.filter fun y => y.1 != cin } }
  s.setCtx ctx { x with reclaim := none }

/-- The reset of a stream of a context has not reached its object (R237). -/
def State.resetsHeld (s : State) (ctx : Nat) : Bool := s.streams.any fun y => y.1 / 256 == ctx && s.resetHeld ctx y.2

def execReclaimComplete (ctx : Nat) (s : State) : Res :=
  match s.ctx ctx with
  | none => .fault (.notEnabled "RECLAIM_COMPLETE")
  | some x =>
    match x.reclaim with
    | some (old, _) =>
      if s.resetsHeld ctx then .fault (.notEnabled "RECLAIM_COMPLETE") else .next (s.reclaimed ctx x old)
    | none => .fault (.notEnabled "RECLAIM_COMPLETE")

/-! ### Streams, routines, pages and halts -/

/-- What R435 refuses in the host fields of a stream object. -/
def SObj.bad (o : SObj) : Bool :=
  decide (o.reserved ≠ 0) || decide (o.cfg &&& 0xFD#32 ≠ o.cfg) || decide (o.inn = 0) || decide (o.egn = 0)
    || decide (o.tag = 63) || decide (o.egbase.toNat % 64 ≠ 0) || decide (o.inbase.toNat % 64 ≠ 0)
    || decide (o.ckbase.toNat % 64 ≠ 0) || decide (o.kvbase.toNat % 32 ≠ 0)

/-- STREAM_NEW (R225, R435). The engine-private bytes read as 0. While the object's page migrates, the engine's write waits
(R162). -/
def execStreamNew (vi : Nat) (s : State) : Res :=
  onCtxCmd s vi 8 "STREAM_NEW" fun k x _ c =>
    let a := (c.a 0).toNat
    let h := (c.a 1).toNat
    if 256 ≤ h ∨ (mapFind s.streams (streamKey k h)).isSome ∨ a % 512 ≠ 0 ∨ !s.plainPage k a then s.says stBadArg
    else
      match s.walk k a with
      | .error _ => s.says stBadArg
      | .ok l =>
        if pteMig l.word then none
        else
          let pa := ptePa l.word + a % l.size
          if (sobjOf (s.homeGet pa 96)).bad then s.says stBadArg
          else
            let st : Stream := ⟨c.a 0, pa, [], 0, 0, 0, 0, [], 0, none, []⟩
            let s := s.setStream (streamKey k h) st
            let s := s.initFields { streamWho k x with user := false } st
            some ⟨stOk, 0, 0, s.zero (pa + 96) 416⟩

/-- ROUTINE (R197, R307): the image's signature is verified, by Salest's key (signer 0) or one registered for the VI; then the
image is measured, and registered for the VI alone. `image` is what memory holds at A0, as far as the image goes, or `none`
where its signature does not verify. -/
def execRoutine (vi signer : Nat) (image : Option (List Byte)) (s : State) : Res :=
  onCtxCmd s vi 9 "ROUTINE" fun k _ v c =>
    match (if signer == 0 || v.prov.routineKeys.contains signer then image else none) with
    | none => s.says stAuthFail
    | some image =>
      match s.engineGet (s.schedWho k) (image.length + 1) (c.a 0) image.length with
      | .error _ => s.says stAuthFail
      | .ok (b, _, s) =>
        if b ≠ image then none
        else some ⟨stOk, 0, 0, s.mapVi vi fun v =>
          { v with routines := v.routines ++ [(c.handle, (c.a 0).toNat, image, Config.sha256 image)] }⟩

/-- The page of an address, in 16 KiB pages. -/
def pageOf (a : Word) : Nat := a.toNat / 16384

/-- The seats that wait for a page of a context resume, and saved nodes may be dispatched (R248). -/
def State.pageThere (s : State) (ctx : Nat) (page : Nat) : State :=
  let mine := fun (q : Seat) => match q.park with
    | some p => q.ctx == ctx && pageOf p.va == page
    | none => false
  { s with
    ctxs := s.ctxs.map fun x => (x.1, if x.1 = ctx then
      { x.2 with requests := x.2.requests.filter fun r => pageOf r.va != page } else x.2)
    seats := s.seats.map fun x => (x.1, if mine x.2 then { x.2 with park := none } else x.2)
    launches := s.launches.map fun l => if l.ctx = ctx then
      { l with nodes := l.nodes.map fun n => match n.blocked with
          | some a => if pageOf a = page then { n with blocked := none } else n
          | none => n } else l }

/-- PAGE (R248): the host's answer to a page request. An installed page gets a leaf of 16 KiB with the attributes of its
range, unless a MAP has given it one. -/
def execPage (vi : Nat) (frames tables : List Nat) (s : State) : Res :=
  onCtxCmd s vi 10 "PAGE" fun k x _ c =>
    let page := pageOf (c.a 0)
    match x.requests.filter (fun r => pageOf r.va == page), x.onDemand.find? fun r =>
        decide (r.va ≤ (c.a 0).toNat) && decide ((c.a 0).toNat < r.va + r.size) with
    | [], _ => s.says stBadArg
    | _, none => s.says stBadArg
    | rs, some r =>
      if c.a 1 = 1 then some ⟨stOk, 0, 0, rs.foldl (fun s r => s.pageDenied k r.node r.va) s⟩
      else if c.a 1 ≠ 0 then s.says stBadArg
      else if s.mapped k (16384 * page) 16384 then some ⟨stOk, 0, 0, s.pageThere k page⟩
      else if frames.length ≠ 1 then none
      else (s.mapPages (ptePa x.ptroot) (16384 * page) 16384 r.attrs frames tables).map fun s => ⟨stOk, 0, 0, s.pageThere k page⟩

/-- DHALT (R81, R251, R297): the node's seat is stopped and saved; a node that holds no seat is no node to halt. -/
def execDhalt (vi : Nat) (s : State) : Res :=
  onCtxCmd s vi 11 "DHALT" fun k _ _ c =>
    match s.seats.find? fun y => y.2.ctx == k && y.2.node == c.a 0 && y.2.stopping.isNone with
    | some (key, _) => some ⟨stOk, 0, 0, s.stopSeat key .debug⟩
    | none => s.says stBadArg

/-- The save area of a node that its host has halted, as the host reads it (R253, R297): reading it changes nothing. -/
def State.saveArea (s : State) (vi handle : Nat) (node : Word) : Option Seat :=
  (s.ctxOf vi handle).bind fun (k, _) => (s.saved.find? fun y => y.1 == k && y.2.2.1 == node).map (·.2.2.2)

end Sys2Proof.Machine
end

