-- ==== Sys2Proof/Machine/Errors.lean ====
section
/-!
DEFINITION. Sys2Proof/Machine/Errors.lean: watchdogs (R257), soft errors (R180, R258, R259) and the device stop (R259, R282).
-/
namespace Sys2Proof.Machine

/-! ### The device stop (R259) -/

/-- The units that an error report to every VI names (R21): a class of unit, never another VI's context or seat. -/
def unitCollector : Nat := 1
def unitReclaim : Nat := 2

/-- The device stops every seat and engine, reports the error to every VI, and every command that is pending completes with
STOPPED (R259, R304). -/
def State.deviceStop (s : State) (unit : Nat) : State :=
  let s : State :=
    { s with pkg := { s.pkg with stopped := true }, out := (s.vis.map fun (x : Nat × Vi) => Out.error x.1 unit).reverse ++ s.out }
  s.vis.foldl (fun s x => s.settled x.1) s

/-- DEVICE_STOP (R259): an uncorrectable error in shared state. -/
def execDeviceStop (unit : Nat) (s : State) : Res :=
  if s.pkg.stopped then .fault (.notEnabled "DEVICE_STOP") else .next (s.deviceStop unit)

/-! ### Watchdogs (R257) -/

/-- COLLECTOR_WATCHDOG (R257): an engine has not acknowledged for its budget and its floor of 20,000 ticks. -/
def execCollectorWatchdog (seat : Nat) (s : State) : Res :=
  match s.seat seat with
  | none => .fault (.notEnabled "COLLECTOR_WATCHDOG")
  | some q =>
    if q.stopping.isSome && !q.declared && decide (q.stopSince + 20000 ≤ s.devtime) then .next (s.deviceStop unitCollector)
    else .fault (.notEnabled "COLLECTOR_WATCHDOG")

/-- RECLAIM_WATCHDOG (R257): 50,000 ticks. -/
def execReclaimWatchdog (ctx : Nat) (s : State) : Res :=
  match s.ctx ctx with
  | none => .fault (.notEnabled "RECLAIM_WATCHDOG")
  | some c =>
    match c.reclaim with
    | some (_, t) =>
      if t + 50000 ≤ s.devtime then .next (s.deviceStop unitReclaim) else .fault (.notEnabled "RECLAIM_WATCHDOG")
    | none => .fault (.notEnabled "RECLAIM_WATCHDOG")

/-! ### Soft errors (R180, R258, R259) -/

/-- ECC_CORRECTED (R258): nothing that a program sees changes; the error is counted. -/
def execEccCorrected (unit : Nat) (s : State) : Res :=
  .next { s with pkg := { s.pkg with corrected := mapInsert s.pkg.corrected unit (mapGet 0 s.pkg.corrected unit + 1) } }

/-- What an uncorrectable error leaves in the datum it hit: a free value; a lost L1 line is gone. -/
def State.corrupt (s : State) (key : Nat) (q : Seat) (detail at_ : Nat) : State :=
  let x := Config.freeWord s.freeN
  let s := { s with freeN := s.freeN + 1 }
  match detail with
  | 1 => s.setSeat key { q with plane := mapSet 0 q.plane at_ (x.setWidth 32) }
  | 2 => s.setSeat key { q with acc := mapSet 0 q.acc at_ (x.setWidth 32) }
  | 3 =>
    let hit := fun (t : Option Tile) => t.map fun t => { t with codes := mapSet 0 t.codes at_ (x.setWidth 32) }
    s.setSeat key { q with buf := q.buf.map hit }
  | 4 => let c := coreOf key; s.setCore c { s.core c with l1 := dropAt (s.core c).l1 at_ }
  | _ => s.homePut at_ (leBytes 8 x.toNat)

/-- Where an address of a context lies, in HBM or in a fleeting array: its physical addresses, one in each copy. -/
def State.lies (s : State) (ctx : Nat) (va : Word) : List Nat :=
  match s.walk ctx va.toNat with
  | .ok l => copiesOf (ptePlc l.word) (ptePa l.word + va.toNat % l.size)
  | .error _ => []

/-- The datum belongs to the seat's context (R259), and EVAL says where it is (Table 11.3): the row and the column of a cell of its
rows, of its accumulators or of a tile it holds; the address of an L1 line with its CIN; or an address whose frame holds the
datum, in a fleeting array in a tile that is live (R180). -/
def State.eccOwn (s : State) (key : Nat) (q : Seat) (detail : Nat) (value : Word) (lost : Option Nat) : Bool :=
  let cell := fun (n : Nat) => decide (value.toNat < n) && (match lost with | some a => a == value.toNat | none => true)
  let held := fun (l : Line) => l.cin == q.cin && (s.lies q.ctx value).any fun pa => linePa pa == l.pa
  match detail with
  | 1 => cell (256 * q.rows)
  | 2 => cell (128 * q.rows)
  | 3 => q.buf.toList.any fun t => match t with | some t => cell (128 * t.k) | none => false
  | 4 => (match lost with
    | some i => (match (s.core (coreOf key)).l1[i]? with | some l => held l | none => false)
    | none => (s.slices (coreOf key)).any fun c => (s.core c).l1.any held)
  | 5 | 6 | 7 =>
    (s.lies q.ctx value).any fun pa =>
      (match lost with | some a => a == pa | none => true)
        && (match regionOf s.pkg.lg pa with
            | .fleeting _ => detail == 7 && s.liveAt pa
            | .interleaved | .local_ _ => detail != 7
            | _ => false)
  | _ => false

/-! ### Whose own read meets the error (R259) -/

/-- A command reads such a datum: the cell that EVAL names, accumulators, the active tile, or memory. -/
def Cap.readsDatum (c : Cap) (detail : Nat) (value : Word) : Bool :=
  match detail with
  | 1 => shapesMeet [⟨.rect, value.toNat / 256, value.toNat % 256, 1, 1, .fp32⟩] c.reads
  | 2 => (match c.cmd with | .mmr _ | .mmt _ | .accrd _ | .accwr true | .accsc => true | _ => false)
  | 3 => (match c.cmd with | .mmr _ | .mmt _ => true | _ => false)
  | _ => (match c.cmd with
    | .load _ _ _ | .atomic _ _ _ _ _ | .acq _ _ | .vload _ _ | .vstore _ _ | .append | .ldst _ _ _ _ => true
    | _ => c.queue == .s)

/-- VAPPEND reads its header before it reserves anything (R414). -/
def Cap.onHeader (c : Cap) (value : Word) : Bool :=
  (match c.cmd with | .append => true | _ => false) && c.slot.isNone && decide (c.x ≤ value) && decide (value.toNat < c.x.toNat + 16)

/-- Element e of a command that is performed whole, or none: what its stop leaves, and the command (R108, R128, R336). Where a
reduction's own read stops it, ELEM is the element and RESTARTk 0; VEXTR stops at the element it reads (assumption 36). -/
def Cap.wholeStop (c : Cap) (e : Nat) (q : Seat) : Option (Seat × Cap) :=
  let n := match c.a with | some t => t.count c.vl | none => 0
  match c.cmd with
  | .red _ _ => if e < n then some (q.stopIn e 0 c.dEnt, c.stoppedAt 0) else none
  | .extr _ => if c.x = BitVec.ofNat 64 e ∧ e < n then some (q.stopAt e c.aEnt, c.stoppedAt e) else none
  | .mmr _ => if e = 0 then some (q.mxStop 0 flagNone c.aEnt false, c) else none
  | .accwr _ => if e < n then some (q.accStop c.aEnt, c) else none
  | .accsc => if e < 128 * c.n then some (q.accStop 0, c) else none
  | .ldstp => if e < n then some (q, c) else none
  | _ => if e = 0 then some (q, c) else none

/-- Commands that stop at an element of their own (R79). -/
def Cap.stopsWithin (c : Cap) : Bool := c.canStop || (match c.cmd with | .accrd _ => true | _ => false)

/-- The gather of a CPIX ends below element e (R190). -/
def Gather.cut (g : Gather) (e : Nat) (detail : BitVec 8) : Gather :=
  { g with hits := g.hits.take e, count := e, fault := some (codeEcc, detail, e) }

/-- The command at a position stops at an element, or at a row of an MMT or an LDST, as for a fault: its own read meets the error
there (R259). The probe pass of a CPIX reports it through CPIXERR; what a copy channel's or the fabric engine's queue holds reads
nothing yet (R240). -/
def State.eccQueued (s : State) (key i e : Nat) (detail : BitVec 8) (value : Word) : Option State :=
  match (s.seat key).bind fun q => if q.stopping.isSome then none else s.freeAt q i with
  | none => none
  | some c =>
    let t : Trap := ⟨codeEcc, detail, value, match c.chain with | some ch => ch.pc | none => c.pc⟩
    let stop := fun (s : State) (c' : Cap) => (s.mapSeat key fun q => q.keepAt i c').lateTrap key i t c' false
    if !c.readsDatum detail.toNat value then none
    else
      match c.cmd with
      | .mmt _ | .ldst _ _ _ _ =>
        (c.rowBound e).bind fun cut =>
          match s.perform key cut with
          | .part s c' =>
            let at_ := fun (q : Seat) => match c.cmd with | .mmt _ => q.mxStop e flagNone c.aEnt true | _ => q
            some (stop (s.mapSeat key at_) c')
          | _ => none
      | .cpix _ _ =>
        match s.performAt key i with
        | some (s, _) => (s.seat key).bind fun q => q.gathers.getLast?.bind fun g =>
          if e < g.count then some (s.setSeat key { q with gathers := q.gathers.dropLast ++ [g.cut e detail] }) else none
        | none => none
      | .prefetch _ | .copy _ | .xform _ | .image _ | .coll _ _ _ _ => none
      | _ =>
        if c.onHeader value then
          if e = 0 then some (stop (s.mapSeat key (·.stopAt 0 c.ent)) (c.stoppedAt 0)) else none
        else if c.stopsWithin && c.did.isEmpty && c.prog.all fun p => decide (p ≤ e) then
          c.owner.bind fun (t, n) =>
            if n ≤ e then none
            else
              match s.perform key { c with lim := some (Vector.replicate 8 e) } with
              | .part s c' =>
                let r := c.resumeAt t e
                some (stop (s.mapSeat key (·.stopIn e r c.ent)) { c' with prog := Vector.replicate 8 r })
              | _ => none
        else (s.seat key).bind fun q => (c.wholeStop e q).map fun x => stop (s.setSeat key x.1) x.2

/-- The engine of an active transfer meets the error at an element or a tile, a routine's at its next chunk (R188, R197, R199): what
lies below is done, and the transfer ends with ECC on its tag. -/
def State.eccCopy (s : State) (key ch e : Nat) (f : EFault) : Option State :=
  s.onSeat key fun s q => (q.transfer ch).bind fun (a, x) =>
    let below := fun (cmd : Cmd) => if e < x.avl ∧ !a.ran then
        (s.moveData key { a with cap := { a.cap with cmd := cmd } }).bind fun (b, s) =>
          if b.err.isNone then
            some (s.mapSeat key (·.setTransfer ch { b with cap := a.cap, err := some (f.f.code, f.f.detail, f.va) }))
          else none
      else none
    match a.cap.cmd with
    | .copy x => below (.copy { x with avl := e })
    | .image x => below (.image { x with avl := e })
    | .xform x => if a.taken < x.avl then s.endRoutine key ch a x f else none
    | _ => none

/-- The background gather of a CPIX meets the error (R190). -/
def State.eccGather (s : State) (key tag e : Nat) (detail : BitVec 8) : Option State :=
  s.onSeat key fun s q => (q.gathers.find? fun g => g.tag == tag && decide (e < g.count)).map fun g =>
    s.setSeat key { q with gathers := q.gathers.map fun h => if h = g then g.cut e detail else h }

/-- Where a virtual processor's instruction reads memory: the address, and how many bytes. -/
def Seat.laneRead (q : Seat) (l : Nat) (i : Instr) : Option (Word × Nat) :=
  let ld := fun (a : Reg) (imm : BitVec 16) (n : Nat) => some (q.lanePair l a + sext imm, n)
  let at_ := fun (a : Reg) (w : Bit) => some (q.lanePair l a, if w = 1 then 8 else 4)
  match i with
  | .ldB _ a imm | .ldBu _ a imm => ld a imm 1
  | .ldH _ a imm | .ldHu _ a imm => ld a imm 2
  | .ldW _ a imm | .ldWu _ a imm => ld a imm 4
  | .ldD _ a imm => ld a imm 8
  | .aadd _ a _ _ w | .aand _ a _ _ w | .aor _ a _ _ w | .axchg _ a _ _ w | .acas _ a _ _ w => at_ a w
  | .amin _ a _ _ _ w | .amax _ a _ _ _ w => at_ a w
  | _ => none

/-- A virtual processor's own read meets the error (R259): of its lane registers, or of the memory its instruction reads. It traps at
that instruction (R50). -/
def State.eccLane (s : State) (key l : Nat) (detail : BitVec 8) (value : Word) : Option State :=
  (s.seat key).bind fun q => (q.vp l).bind fun v =>
    if v.waiting || v.trapped || q.status.lane || q.park.isSome || q.stopping.isSome || q.vpHeld then none
    else
      let reads := if detail = 1 then
          decide (value.toNat % 256 = l) && decide (q.sr.lrow0 ≤ value.toNat / 256) && decide (value.toNat / 256 < q.sr.lrow0 + 32)
        else
          match s.fetchVp key q l v with
          | .word w _ => (match (decodeWord w).bind (q.laneRead l) with
            | some (a, n) => decide (4 ≤ detail.toNat) && decide (a ≤ value) && decide (value.toNat < a.toNat + n)
            | none => false)
          | _ => false
      if reads then some (s.vpTrap key l ⟨codeEcc, detail, value, v.pc⟩) else none

/-- A read of the seat's own, or of an engine that works for it, meets the error. -/
def State.eccMeets (s : State) (key : Nat) (r : EccReader) (detail : BitVec 8) (value : Word) : Option State :=
  match r with
  | .queued i e => s.eccQueued key i e detail value
  | .copy ch e => s.eccCopy key ch e ⟨⟨codeEcc, detail⟩, value⟩
  | .gather tag e => s.eccGather key tag e detail
  | .lane l => s.eccLane key l detail value

/-- A seat, or the image of a saved one, whose engines go on (R252). -/
def State.seatOrImage (s : State) (key : Nat) : Option Seat :=
  if key < firstSaved then s.seat key else s.saved[key - firstSaved]?.map (·.2.2.2)

/-- ECC_UNCORRECTABLE in data of one context (R180, R259). An instruction or an engine whose own read meets the error stops at that
element or row; any other discovery makes an asynchronous stop of the seat, at the boundary named, which then takes the trap, or
has it pending while it is being saved (R254). -/
def execEccUncorrectable (seat detail : Nat) (value : Word) (site : EccSite) (s : State) : Res :=
  match s.seatOrImage seat with
  | none => .fault (.notEnabled "ECC_UNCORRECTABLE")
  | some q =>
    if s.eccOwn seat q detail value site.lost && (decide (seat < firstSaved) || decide (4 < detail)) then
      let s := match site.lost with | some a => s.corrupt seat q detail a | none => s
      let pc := Config.freeWord s.freeN
      let code := BitVec.ofNat 8 detail
      enabled "ECC_UNCORRECTABLE" (match site.meets with
        | some r => s.eccMeets seat r code value
        | none =>
          if firstSaved ≤ seat then none
          else if q.stopping.isSome then some (s.mapSeat seat fun q => { q with pendingTrap := some (codeEcc, code, value) })
          else if !s.atBoundary seat q then none
          else ({ s with freeN := s.freeN + 1 }.partway seat site.part).map fun (s : State) => s.asyncTrap seat ⟨codeEcc, code, value, pc⟩)
    else .fault (.notEnabled "ECC_UNCORRECTABLE")

end Sys2Proof.Machine
end

