-- ==== Sys2Proof/Machine/HostRma.lean ====
section
/-!
DEFINITION. Sys2Proof/Machine/HostRma.lean: what reaches the package through its ports: connections (R299), packets (R300,
R301), RMA and atomics of a host (R437), the provisioning of a VI (R301, R302), and requests and responses between units
(R261).
-/
namespace Sys2Proof.Machine

/-! ### RMA (R437) -/

/-- How a host's access ends that is not performed: it waits for a migration (R162), or it is refused. -/
inductive Rma where
  | waits | refused
  deriving DecidableEq, Repr

/-- The translation of a host's access: a valid leaf, whatever its R, W, X and U bits; the walker sets A and D. -/
def State.rmaLeaf (s : State) (ctx : Nat) (va : Word) (write : Bool) : Except Rma (Hit × State) :=
  if va.toNat / 2 ^ 58 ≠ 0 then .error .refused
  else
    match s.walk ctx va.toNat with
    | .error _ => .error .refused
    | .ok l =>
      let mt := pteMt l.word
      if mt = 4 ∨ (write ∧ (mt = 2 ∨ mt = 3)) then .error .refused
      else if write && pteMig l.word then .error .waits
      else
        let (s, l) := s.setAD l write
        .ok (⟨ptePa l.word + va.toNat % l.size, mt, ptePlc l.word, ptePa l.word⟩, s)

/-- A read, line by line; a replicated page is read in die 0's copy. -/
def State.rmaRead (ctx : Nat) : Nat → Word → Nat → State → Except Rma (List Byte × State)
  | 0, _, _, s => .ok ([], s)
  | k + 1, va, n, s =>
    if n = 0 then .ok ([], s)
    else
      let m := min n (64 - va.toNat % 64)
      match s.rmaLeaf ctx va false with
      | .error e => .error e
      | .ok (h, s) =>
        match s.homeRead h m with
        | .error _ => .error .refused
        | .ok r =>
          match State.rmaRead ctx k (va + BitVec.ofNat 64 m) (n - m) r.st with
          | .error e => .error e
          | .ok (l, s) => .ok (r.bytes ++ l, s)

/-- A write, line by line; one to a replicated page is performed on all four copies. -/
def State.rmaWrite (ctx : Nat) : Nat → Word → List Byte → State → Except Rma State
  | 0, _, _, s => .ok s
  | k + 1, va, bs, s =>
    if bs.isEmpty then .ok s
    else
      let m := min bs.length (64 - va.toNat % 64)
      match s.rmaLeaf ctx va true with
      | .error e => .error e
      | .ok (h, s) =>
        let s := (copiesOf h.plc h.pa).foldl (fun s a => s.homePut a (bs.take m)) s
        State.rmaWrite ctx k (va + BitVec.ofNat 64 m) (bs.drop m) s

/-- The answer to a host: a refused access has no effect, one that waits has not been performed. -/
def State.rmaEnd (s : State) (vi : Nat) (va : Word) (row : String) (r : Except Rma State) : Res :=
  match r with
  | .ok s => .next s
  | .error .refused => .next { s with out := .rmaError vi va :: s.out }
  | .error .waits => .fault (.notEnabled row)

/-- An access of n bytes to a context of a VI; a handle that names none reaches no memory. Handle 0, which names no context,
stands for the VI's own command ring, with the byte offset in it for an address: DESIGN CHOICE (assumption 73). `ring` is the
access to the ring, at its physical address. -/
def State.rmaOn (s : State) (vi handle : Nat) (va : Word) (n : Nat) (row : String) (ring : Nat → Except Rma State)
    (f : Nat → Except Rma State) : Res :=
  match mapFind s.vis vi with
  | none => .fault (.notEnabled row)
  | some v =>
    if handle = 0 then
      if !s.pkg.booted && !s.pkg.recovery then .fault (.notEnabled row)
      else if 64 * v.prov.ringSize < va.toNat + n then s.rmaEnd vi va row (.error .refused)
      else s.rmaEnd vi va row (ring (v.prov.ringBase + va.toNat))
    else if !s.pkg.booted || s.pkg.stopped then .fault (.notEnabled row)
    else
      match s.ctxOf vi handle with
      | none => s.rmaEnd vi va row (.error .refused)
      | some (k, _) => s.rmaEnd vi va row (f k)

/-- HOST_RMA_READ (R302, R437). -/
def execHostRmaRead (vi handle : Nat) (va : Word) (len : Nat) (s : State) : Res :=
  s.rmaOn vi handle va len "HOST_RMA_READ" (fun a => .ok { s with out := .rmaData vi va (s.homeGet a len) :: s.out }) fun k =>
    match State.rmaRead k (len + 1) va len s with
    | .error e => .error e
    | .ok (b, s) => .ok { s with out := .rmaData vi va b :: s.out }

/-- HOST_RMA_WRITE (R302, R437). -/
def execHostRmaWrite (vi handle : Nat) (va : Word) (bytes : List Byte) (s : State) : Res :=
  s.rmaOn vi handle va bytes.length "HOST_RMA_WRITE"
      (fun a => .ok { s.homePut a bytes with out := .rmaAck vi va :: s.out }) fun k =>
    match State.rmaWrite k (bytes.length + 1) va bytes s with
    | .error e => .error e
    | .ok s => .ok { s with out := .rmaAck vi va :: s.out }

/-- HOST_ATOMIC (R29, R214, R299, R437): on an aligned word of 4 or 8 bytes; its answer is the old value. The atomic that advances a
doorbell counter is DOORBELL. -/
def execHostAtomic (vi handle : Nat) (va : Word) (fn : AtomFn) (wide uns : Bool) (op cmp : Word) (s : State) : Res :=
  let n := if wide then 8 else 4
  s.rmaOn vi handle va n "HOST_ATOMIC" (fun _ => .error .refused) fun k =>
    if va.toNat % n ≠ 0 then .error .refused
    else
      match s.rmaLeaf k va true with
      | .error e => .error e
      | .ok (h, s) =>
        if h.plc = 5 then .error .refused
        else
          let (old, _, s) := s.atomicRel h fn uns n op.toNat cmp.toNat
          .ok { s with out := .rmaData vi va (leBytes n old) :: s.out }

/-! ### Ports (R299 to R301) -/

/-- What Table 15.1 supports. -/
def connOk (o : ConnOpts) : Bool :=
  o.portSpeed800 && !o.rudi && !o.uudForData && !o.rccc && !o.deferrable && !o.rendezvous && o.encrypted && !o.inNetworkReduction

/-- CONNECTION_SETUP (R299): a peer that asks for an unsupported option is refused. -/
def execConnectionSetup (port : Nat) (opts : ConnOpts) (s : State) : Res :=
  if 28 ≤ port ∨ s.pkg.stopped then .fault (.notEnabled "CONNECTION_SETUP")
  else if connOk opts then
    .next { s with pkg := { s.pkg with conns := (port, opts.peer) :: s.pkg.conns.filter fun c => c != (port, opts.peer) } }
  else .next { s with out := .refusedConnection port opts.peer :: s.out
                      pkg := { s.pkg with conns := s.pkg.conns.filter fun c => c != (port, opts.peer) } }

/-- A dropped packet. -/
def State.dropPacket (s : State) : State := { s with pkg := { s.pkg with dropped := s.pkg.dropped + 1 } }

/-- PACKET_INGRESS (R299 to R301): a packet of no connection, one from outside the domain on a scale-up port, and one whose
keys no VI holds are dropped; another does what it asks of its VI. -/
def execPacketIngress (port peer keySet : Nat) (foreign : Bool) (payload : Packet) (s : State) : Res :=
  if 28 ≤ port then .fault (.notEnabled "PACKET_INGRESS")
  else if !s.pkg.conns.contains (port, peer) || (foreign && decide (port < 24)) then .next s.dropPacket
  else
    match s.vis.find? fun x => x.2.prov.keySet = keySet with
    | none => .next s.dropPacket
    | some (vi, _) =>
      match payload with
      | .rmaRead h va n => execHostRmaRead vi h va n s
      | .rmaWrite h va b => execHostRmaWrite vi h va b s
      | .doorbell n => execDoorbell vi ⟨peer, n⟩ s
      | .atomic h va fn wide uns op cmp => execHostAtomic vi h va fn wide uns op cmp s
      | .frame h st media pl len barge => execFrameArrival vi h st media pl len barge s
      | .other => .next s

/-- VI_PROVISIONING (R301, R302): the operator gives a VI its address, keys and ring. Address and keys are the VI's own, and a
ring lies in device memory that is not given out. -/
def execViProvisioning (vi : Nat) (prov : ViProvision) (s : State) : Res :=
  let keysFree := s.vis.all fun x => x.2.prov.keySet != prov.keySet && x.2.prov.fabricAddr != prov.fabricAddr
  let ringIn := (regionsFor 0 7).any fun r =>
    decide ((r.span s.pkg.lg).1 ≤ prov.ringBase)
      && decide (prov.ringBase + 64 * prov.ringSize ≤ (r.span s.pkg.lg).1 + (r.span s.pkg.lg).2)
  if vi < Config.vis ∧ (mapFind s.vis vi).isNone ∧ 16 ≤ prov.ringSize ∧ prov.ringSize ≤ 4096 ∧ prov.domain < 144
      ∧ keysFree ∧ ringIn ∧ s.isFree prov.ringBase (64 * prov.ringSize) then
    .next { s with vis := mapInsert s.vis vi ⟨prov, 0, 0, [], [], [], 0⟩, pkg := { s.pkg with domain := prov.domain } }
  else .fault (.notEnabled "VI_PROVISIONING")

/-! ### Requests and responses (R261) -/

/-- A CIN is the current one of its context. -/
def State.current (s : State) (cin : BitVec 18) : Bool :=
  match s.ctx (ctxOfCin cin) with
  | some x => cinOf (ctxOfCin cin) x.inc == cin
  | none => false

/-- A unit performs a request that is not stale (R14, R214, R155, R143): `none` where nothing of the kind lies at the address `pa`, for a walk a virtual one. -/
def State.serve (s : State) (ctx pa : Nat) : UnitRequest → Option State
  | .write bytes =>
    match regionOf s.pkg.lg pa with
    | .interleaved | .local_ _ | .fleeting _ => if pa % 64 + bytes.length ≤ 64 then some (s.homePut pa bytes) else none
    | _ => none
  | .read kind =>
    match s.homeLine kind pa with
    | .ok (_, s) => some s
    | .error _ => some s
  | .atomic fn wide uns op cmp =>
    let n := if wide then 8 else 4
    match regionOf s.pkg.lg pa with
    | .interleaved | .local_ _ =>
      if pa % n = 0 then some (s.atomicRel ⟨pa, 0, 0, pa⟩ fn uns n op.toNat cmp.toNat).2.2 else none
    | .fleeting _ => if pa % n = 0 then some (s.atomicRel ⟨pa, 1, 0, pa⟩ fn uns n op.toNat cmp.toNat).2.2 else none
    | _ => none
  | .walk store =>
    match s.walk ctx pa with
    | .ok l => some (s.setAD l store).1
    | .error _ => some s

/-- UNIT_REQUEST_ARRIVAL (R14, R261): a stale request is dropped without effect; another is performed. Every unit's copy of the
incarnation table is the master's between two steps: the kill, one step, updates them all (assumption 72). -/
def execUnitRequestArrival (cin : BitVec 18) (addr : Nat) (req : UnitRequest) (s : State) : Res :=
  if !s.current cin then .next s else enabled "UNIT_REQUEST_ARRIVAL" (s.serve (ctxOfCin cin) addr req)

/-- The seat of a key, resident or saved. -/
def State.seatAt (s : State) (key : Nat) : Option Seat :=
  if key < firstSaved then s.seat key else s.saved[key - firstSaved]?.map (·.2.2.2)

/-- The CIN of a requester's current occupant (R261): `owner` is the key of its seat, of a stream its context. -/
def State.occupant (s : State) (owner : Nat) : Requester → Option (BitVec 18)
  | .seat _ => (s.seatAt owner).map (·.cin)
  | .channel ch => (s.seatAt owner).bind fun q => (q.transfer ch).map fun _ => q.cin
  | .stream handle => (mapFind s.streams (streamKey owner handle)).bind fun _ => (s.ctx owner).map fun x => cinOf owner x.inc

/-- What a response brings about: it ends the command that it answers, of a saved seat the stream command that its engine holds;
on a channel the data of a COPY or a CPIMG is there; the event of a stream takes it in one step. -/
def State.respond (s : State) (key : Nat) : Requester → Option State
  | .seat pos => s.onSeat key fun s q =>
    if firstSaved ≤ key then s.performStream key else if q.stopping.isNone then (s.performAt key pos).map (·.1) else none
  | .channel ch => s.onSeat key fun s q => match q.transfer ch with
    | some (a, _) => (s.moveData key a).map fun (a, s) => s.mapSeat key (·.setTransfer ch a)
    | none => none
  | .stream _ => some s

/-- RESPONSE_ARRIVAL (R252, R261): a response for an incarnation that the requester no longer holds, or for one that is gone, is
discarded. -/
def execResponseArrival (owner : Nat) (cin : BitVec 18) (dest : Requester) (s : State) : Res :=
  if s.occupant owner dest = some cin then enabled "RESPONSE_ARRIVAL" (s.respond owner dest) else .next s

end Sys2Proof.Machine
end

