-- ==== Sys2Proof/Machine/Power.lean ====
section
/-!
DEFINITION. Sys2Proof/Machine/Power.lean: the management of power and heat: the charge balancer (R269, R270), Gust intervals
(R272 to R276), chaining (R279), the readings of the temperatures (R165, R280, R282) and power gating (R283, R284).
-/
namespace Sys2Proof.Machine

/-! ### The charge balancer (R269, R270) and chaining (R279) -/

/-- The clamps of a pair after a sample: outside the window the heavier quad's rises, within 5 percent both fall. -/
def Quad.clampUp (x : Quad) : Quad :=
  { x with clamp := min 8 (x.clamp + 1), steps := x.steps + 1, calm := false }
def Quad.clampDown (x : Quad) : Quad := { x with clamp := x.clamp - 1 }

/-- A quad without a seat, or one whose wake is under way, is carried by the ballast of its partner, which is at nominal level or
below (R271, R284). -/
def State.ballasted (s : State) (quad : Nat) : Bool := !s.busyQuad quad && (s.quad (partnerQuad quad)).lvl == 0

/-- The interval of the balancer and of the power managers: 0.5 µs. -/
def sampleTicks : Nat := 50

/-- BALANCER_SAMPLE (R269 to R271): once in every 0.5 µs, with the currents of the lower and the upper quad. Where the ballast
draws the current of the busy partner the pair is inside the window. -/
def execBalancerSample (pair lower upper : Nat) (s : State) : Res :=
  let again : Bool := match (s.pair pair).lastSample with | some t => decide (s.devtime < t + sampleTicks) | none => false
  let diff := max lower upper - min lower upper
  let outside := decide (max lower upper < 10 * diff)
  if Config.pairs ≤ pair ∨ s.devtime % sampleTicks ≠ 0 ∨ again
      ∨ ((s.ballasted (2 * pair) ∨ s.ballasted (2 * pair + 1)) ∧ outside) then .fault (.notEnabled "BALANCER_SAMPLE")
  else
    let lo := 2 * pair
    let hi := 2 * pair + 1
    let s := s.setPair pair { s.pair pair with lastSample := some s.devtime }
    if outside then
      let k := if upper ≤ lower then lo else hi
      .next (s.setQuad k (s.quad k).clampUp)
    else if 20 * diff ≤ max lower upper then
      .next ((s.setQuad lo (s.quad lo).clampDown).setQuad hi (s.quad hi).clampDown)
    else .next s

/-- GUST_INTERVAL (R272 to R275, R279): the boundary of an interval, once. -/
def execGustInterval (pair : Nat) (s : State) : Res :=
  if pair < Config.pairs ∧ s.devtime % gustTicks = 0 ∧ (s.pair pair).lastInterval ≠ some s.devtime then
    .next (s.gustAt pair s.devtime)
  else .fault (.notEnabled "GUST_INTERVAL")

/-- CHAIN_WITHDRAW (R279): one more pair in every 0.5 µs, while the clamp is above 0 or the current exceeded its allowance. -/
def execChainWithdraw (quad : Nat) (excess : Bool) (s : State) : Res :=
  let x := { s.quad quad with lastWithdraw := some s.devtime }
  let again : Bool := match (s.quad quad).lastWithdraw with | some t => decide (s.devtime < t + sampleTicks) | none => false
  if quad < Config.quads ∧ s.devtime % sampleTicks = 0 ∧ !again ∧ (0 < x.clamp ∨ excess) then
    match chainOrder.find? fun i => x.chainperm.getLsbD i with
    | some i => .next (s.setQuad quad { x with chainperm := x.chainperm &&& ~~~(1#6 <<< i), calm := false })
    | none => .next (s.setQuad quad { x with calm := false })
  else .fault (.notEnabled "CHAIN_WITHDRAW")

/-! ### Temperature (R165, R280, R282) -/

/-- JUNCTION_READING (R165): once a millisecond. -/
def execJunctionReading (die : Nat) (temp : Int) (s : State) : Res :=
  if die < Config.dies ∧ s.pkg.booted ∧ readingDue ((s.die die).readings.head?.map (·.1)) s.devtime then
    .next (s.junction die temp)
  else .fault (.notEnabled "JUNCTION_READING")

/-- A stack's reading; at 120 °C the device stops (R282). -/
def State.thermal (s : State) (stack : Nat) (temp : Int) : State :=
  let s := s.setStack stack ((s.stack stack).read temp s.devtime)
  if 120 ≤ temp ∧ !s.pkg.stopped then s.deviceStop stack else s

/-- HBM_THERMAL_READING (R280, R282): once a millisecond. -/
def execHbmThermalReading (stack : Nat) (temp : Int) (s : State) : Res :=
  if stack < Config.hbm ∧ s.pkg.booted ∧ readingDue (s.stack stack).readAt s.devtime then .next (s.thermal stack temp)
  else .fault (.notEnabled "HBM_THERMAL_READING")

/-! ### Power gating (R283, R284) -/

/-- 1 µs, 20 µs and the ramp's 4 µs. -/
def holdTicks : Nat := 100
def gateTicks : Nat := 2000
def rampTicks : Nat := 400

/-- HOLD_RETENTION (R283): after the first microsecond of its hold the quad lowers its voltage. -/
def execHoldRetention (quad : Nat) (s : State) : Res :=
  let x := s.quad quad
  if x.power = .hold ∧ x.since + holdTicks ≤ s.devtime then
    .next (s.setQuad quad { x with power := .lowering s.devtime false })
  else .fault (.notEnabled "HOLD_RETENTION")

/-- A wake goes to the in-rush arbiter of the die (R284). -/
def State.queueWake (s : State) (quad : Nat) : State :=
  let d := dieOfQuad quad
  (s.setQuad quad { s.quad quad with power := .waiting }).setDie d { s.die d with wakes := (s.die d).wakes ++ [quad] }

/-- RETENTION_LOWERING_COMPLETE (R283): a wake that came during it goes to the arbiter now. -/
def execRetentionLoweringComplete (quad : Nat) (s : State) : Res :=
  match (s.quad quad).power with
  | .lowering _ wake =>
    if wake then .next (s.queueWake quad) else .next (s.setQuad quad { s.quad quad with power := .retention })
  | _ => .fault (.notEnabled "RETENTION_LOWERING_COMPLETE")

/-- HOLD_GATE (R283). -/
def execHoldGate (quad : Nat) (s : State) : Res :=
  let x := s.quad quad
  if x.power = .retention ∧ x.since + gateTicks ≤ s.devtime then .next (s.setQuad quad { x with power := .gated })
  else .fault (.notEnabled "HOLD_GATE")

/-- Quads of a die that ramp. -/
def State.rampingOn (s : State) (d : Nat) : Nat :=
  ((List.range 18).filter fun i => (s.quad (18 * d + i)).power == .ramping).length

/-- WAKE_RAMP_START (R284): at most two quads of a die ramp at once; first come, first served. -/
def execWakeRampStart (die : Nat) (s : State) : Res :=
  match (s.die die).wakes with
  | quad :: rest =>
    if s.rampingOn die < 2 then
      let s := s.setDie die { s.die die with wakes := rest }
      if (s.quad quad).power = .waiting then
        .next (s.setQuad quad { s.quad quad with power := .ramping, since := s.devtime })
      else .next s
    else .fault (.notEnabled "WAKE_RAMP_START")
  | [] => .fault (.notEnabled "WAKE_RAMP_START")

/-- WAKE_RAMP_COMPLETE (R284): a ramp takes 4 µs. -/
def execWakeRampComplete (quad : Nat) (s : State) : Res :=
  let x := s.quad quad
  if x.power = .ramping ∧ x.since + rampTicks ≤ s.devtime then .next (s.setQuad quad { x with power := .on })
  else .fault (.notEnabled "WAKE_RAMP_COMPLETE")

end Sys2Proof.Machine
end

