-- ==== Sys2Proof/Machine/Firm.lean ====
section
/-!
DEFINITION. Sys2Proof/Machine/Firm.lean: steps of the memory system that no instruction asks for (R147, R152, R155, R166,
R178), placement and migration (R160 to R162), samples and the Barograph (R293, R298), and boot (R139, R306).
-/
namespace Sys2Proof.Machine

/-! ### Walkers, caches and arrays -/

/-- PAGE_WALK (R143, R152): a walker fills a quad's second-level TLB; one that meets a fault fills nothing. -/
def execPageWalk (quad ctx : Nat) (va : Word) (store : Bool) (s : State) : Res :=
  match s.ctx ctx with
  | none => .fault (.notEnabled "PAGE_WALK")
  | some x =>
    if Config.quads ≤ quad ∨ 2 ^ 58 ≤ va.toNat then .fault (.notEnabled "PAGE_WALK")
    else
      match s.walk ctx va.toNat with
      | .error _ => .next s
      | .ok l =>
        let (s, l) := s.setAD l store
        let q := s.quad quad
        .next (s.setQuad quad
          { q with tlb := tlbFill Config.tlb2 q.tlb ⟨cinOf ctx x.inc, l.va, l.size, l.word, l.pte⟩ })

/-- L1_EVICTION (R147): a line leaves, written back if it is dirty. -/
def execL1Eviction (core line : Nat) (s : State) : Res :=
  match (s.core core).l1[line]? with
  | none => .fault (.notEnabled "L1_EVICTION")
  | some l =>
    let s := s.flushLine (dieOfCore core) l
    .next (s.setCore core { s.core core with l1 := (s.core core).l1.eraseIdx line })

/-- COMPRESSED_TILE_FILL (R155, R156): a line of a tile misses in the LLC; a bad encoding fills no line. -/
def execCompressedTileFill (pa : Nat) (s : State) : Res :=
  if (mapFind s.llcExp (linePa pa)).isSome then .fault (.notEnabled "COMPRESSED_TILE_FILL")
  else
    match regionOf s.pkg.lg pa with
    | .interleaved | .local_ _ =>
      match s.expandAt pa with
      | .ok s => .next s
      | .error _ => .next s
    | _ => .fault (.notEnabled "COMPRESSED_TILE_FILL")

/-- TILE_EXPIRY (R166): the first tick at which a tile is not live. -/
def execTileExpiry (tile : Nat) (s : State) : Res :=
  let x := s.tile tile
  if x.expd || x.live (s.die (tileDie tile)).life s.ftick then .fault (.notEnabled "TILE_EXPIRY") else .next (s.expire tile)

/-- FLEET_SWEEP (R178). -/
def execFleetSweep (die : Nat) (s : State) : Res :=
  if die < Config.dies then .next (s.sweep die 0) else .fault (.notEnabled "FLEET_SWEEP")

/-! ### Placement and migration (R160 to R162) -/

/-- PLACEMENT_EPOCH (R160): the end of an epoch of 1 ms, which `State.lapse` brings about too. -/
def execPlacementEpoch (s : State) : Res :=
  if s.devtime % msTicks = 0 then .next s.endEpoch
  else .fault (.notEnabled "PLACEMENT_EPOCH")

/-- A page's migration. -/
def Mig.is (g : Mig) (ctx : Nat) (va : Word) : Bool := g.ctx == ctx && pageOf g.va == pageOf va

/-- Requests with a translation of a frame are still to be performed: a shootdown is not complete before (R162). -/
def State.requestsOn (s : State) (frame : Nat) : Bool :=
  let on := fun (pa : Nat) => decide (frame ≤ pa) && decide (pa < frame + 16384)
  s.everySeat.any fun q =>
    (q.pend ++ q.aside).any (fun c =>
        (match c.pa with | some x => on x.1 | none => false) || (c.handed.getD []).any fun x => on x.pa)
      || q.gathers.any fun g => g.hits.any fun x => on x.1

/-- A shootdown (R162): the page leaves every TLB of the context, and its dirty L1 lines are written back and
invalidated. -/
def State.shootdown (s : State) (ctx : Nat) (va frame : Nat) : State :=
  let s := s.tlbDrop fun e => ctxOfCin e.cin == ctx && decide (e.va ≤ va) && decide (va < e.va + e.size)
  let hit := fun (l : Line) => decide (frame ≤ l.pa) && decide (l.pa < frame + 16384) && !l.dirty.isEmpty
  s.cores.foldl (fun s x =>
    let s := (x.2.l1.filter hit).foldl (fun s l => s.flushLine (dieOfCore x.1) l) s
    s.setCore x.1 { s.core x.1 with l1 := (s.core x.1).l1.filter fun l => !hit l }) s

/-- The leaf of a page written. -/
def State.setPte (s : State) (l : Leaf) (w : Word) : State := s.homePut l.pte (leBytes 8 w.toNat)

/-- MIGRATION_MARK (R162): for a queued page, onto a free frame of the die's local region, once every request that was
translated before has been performed on the old frame. -/
def execMigrationMark (ctx : Nat) (va : Word) (frame : Nat) (s : State) : Res :=
  match s.migs.find? fun g => g.is ctx va, s.walk ctx va.toNat with
  | some g, .ok l =>
    match g.die with
    | none => .fault (.notEnabled "MIGRATION_MARK")
    | some d =>
      match (if s.requestsOn (ptePa l.word) then none else s.takeFrames [.local_ d] 0 16384 [frame]) with
      | none => .fault (.notEnabled "MIGRATION_MARK")
      | some s =>
        let s := s.setPte l (l.word ||| (1#64 <<< 57))
        let s := s.shootdown ctx l.va (ptePa l.word)
        .next { s with migs := s.migs.map fun g => if g.is ctx va then { g with die := none, frame := frame } else g }
  | _, _ => .fault (.notEnabled "MIGRATION_MARK")

/-- A range of memory copied. -/
def State.copyMem (s : State) (src dst n : Nat) : State :=
  let from_ := s.mem.filter fun c => decide (src ≤ c.1) && decide (c.1 < src + n)
  let s := s.zero dst n
  { s with mem := from_.foldl (fun m c => memSet m (c.1 - src + dst) c.2) s.mem }

/-- A compressed frame moves as an image (R157): each slot, as far as its encoding's length. -/
def State.copySlots (s : State) (src dst : Nat) : State :=
  (List.range 64).foldl (fun s t =>
    let enc := s.tileEncoding (src + 256 * t)
    s.homePut (slotOf (dst + 256 * t)) (enc.take (nth 0 enc 1).toNat)) s

/-- MIGRATION_COPY (R157, R161, R162). -/
def execMigrationCopy (ctx : Nat) (va : Word) (s : State) : Res :=
  match s.migs.find? fun g => g.is ctx va, s.walk ctx va.toNat with
  | some g, .ok l =>
    if g.die.isSome || g.copied then .fault (.notEnabled "MIGRATION_COPY")
    else
      let src := ptePa l.word
      let s := s.dropExpanded g.frame 16384
      let s := if pteMt l.word = 2 then s.copySlots src g.frame else s.copyMem src g.frame 16384
      .next { s with migs := s.migs.map fun g => if g.is ctx va then { g with copied := true } else g }
  | _, _ => .fault (.notEnabled "MIGRATION_COPY")

/-- What engines wrote for seats that are gone while the page migrated, performed on the new frame (R162, R187): a write of an
incarnation that is no longer the context's is stale (R261). -/
def Mig.perform (g : Mig) (s : State) : State :=
  g.held.foldl (fun s x => if s.current x.1 then s.homePut (g.frame + x.2.1) x.2.2 else s) s

/-- MIGRATION_SWITCH (R162): the new frame, MIG cleared, a second shootdown, and the old frame is free. -/
def execMigrationSwitch (ctx : Nat) (va : Word) (s : State) : Res :=
  match s.migs.find? fun g => g.is ctx va, s.walk ctx va.toNat with
  | some g, .ok l =>
    let old := ptePa l.word
    if !g.copied || s.requestsOn old then .fault (.notEnabled "MIGRATION_SWITCH")
    else
      let w := (l.word &&& ~~~(BitVec.ofNat 64 (2 ^ 52 - 2 ^ 14) ||| (1#64 <<< 57))) ||| BitVec.ofNat 64 g.frame
      let s := g.perform (((s.setPte l w).shootdown ctx l.va old).dropExpanded old 16384)
      .next { s with migs := s.migs.filter fun g => !g.is ctx va, frames := s.frames.filter fun f => f.1 != old }
  | _, _ => .fault (.notEnabled "MIGRATION_SWITCH")

/-! ### Samples and the Barograph (R293, R298) -/

/-- The bytes of a VSAMPLE record (Table 14.3). `counts` gives STARTUP, CHAINW and MEMW of each cluster, in this order. -/
def sampleRecord (x : Sample) (counts : List (BitVec 16)) (total : BitVec 32) : List Byte :=
  let cluster := fun (k : Nat) =>
    let n := fun (i : Nat) => leBytes 2 (counts.getD (3 * k + i) 0).toNat
    n 2 ++ n 1 ++ leBytes 2 (x.elems.getD k 0) ++ n 0
  recordBytes 2 96 (leBytes 2 x.ent.toNat ++ leBytes 4 x.vl ++ leBytes 8 x.pc.toNat ++ leBytes 8 x.time
    ++ leBytes 8 total.toNat ++ (List.range 8).flatMap cluster)

/-- The sample of the oldest completed sampled instruction is written (R287, R293); its cycle counts are what the clusters saw.
`none` while a page of the buffer migrates. -/
def State.sampleOut (s : State) (seat : Nat) (counts : List (BitVec 16)) (total : BitVec 32) : Option State :=
  match s.seat seat with
  | none => none
  | some q =>
    match q.samples with
    | [] => none
    | x :: rest => (s.setSeat seat { q with samples := rest }).writeRecord seat (sampleRecord x counts total)

/-- VSAMPLE_WRITE (R293). -/
def execVsampleWrite (seat : Nat) (counts : List (BitVec 16)) (total : BitVec 32) (s : State) : Res :=
  match s.sampleOut seat counts total with
  | some s => .next s
  | none => .fault (.notEnabled "VSAMPLE_WRITE")

/-- Triggers that R298 gives for the start and for the stop. -/
def startTrigger : BaroTrigger → Bool | .immediate | .pc _ | .tmark _ => true | .anyTrap | .hostCommand => false
def stopTrigger : BaroTrigger → Bool | .pc _ | .tmark _ | .anyTrap | .hostCommand => true | .immediate => false

/-- BAROGRAPH_ARM (R298): for one core of the die, at a VI's request. -/
def execBarographArm (die core vi : Nat) (start stop : BaroTrigger) (post : Nat) (s : State) : Res :=
  if die < Config.dies ∧ core < Config.cores ∧ dieOfCore core = die ∧ (mapFind s.vis vi).isSome ∧ post ≤ 65535
      ∧ startTrigger start ∧ stopTrigger stop then
    let b : Baro := ⟨core, vi, start, stop, post, start == .immediate, none, false, 0, 0, false, []⟩
    .next (s.setDie die { s.die die with baro := some b })
  else .fault (.notEnabled "BAROGRAPH_ARM")

/-- BAROGRAPH_STOP_COMMAND (R298): a host command is the stop trigger. -/
def execBarographStopCommand (die : Nat) (s : State) : Res :=
  match (s.die die).baro with
  | some b =>
    if b.running && b.stopAt.isNone && !b.frozen && b.stop == .hostCommand then
      .next (s.setDie die { s.die die with baro := some { b with stopAt := some b.written } })
    else .fault (.notEnabled "BAROGRAPH_STOP_COMMAND")
  | none => .fault (.notEnabled "BAROGRAPH_STOP_COMMAND")

/-- BAROGRAPH_FREEZE (R298): P cycles after the stop trigger. -/
def execBarographFreeze (die : Nat) (s : State) : Res :=
  match (s.die die).baro with
  | some b =>
    if !b.frozen && b.stopAt == some (b.written - b.post) && decide (b.post ≤ b.written) then
      .next (s.setDie die { s.die die with baro := some { b with frozen := true } })
    else .fault (.notEnabled "BAROGRAPH_FREEZE")
  | none => .fault (.notEnabled "BAROGRAPH_FREEZE")

/-- A frozen Barograph as the host of its VI reads it, the oldest entry first (R298): reading it changes nothing. -/
def State.barograph (s : State) (vi die : Nat) : Option (List (BitVec 128)) :=
  match (s.die die).baro with
  | some b =>
    let n := min b.written 65536
    if b.vi = vi ∧ b.frozen then
      some ((List.range n).map fun i => mapGet 0#128 b.ring ((b.written - n + i) % 65536))
    else none
  | none => none

/-! ### Boot (R139, R165, R306) -/

/-- LG at boot (R139). -/
def bootLg (r : Option Nat) : Nat := match r with | some n => if n ≤ 192 then n else 0 | none => 0

/-- BOOT (R165, R280, R306): the image verifies (`version` is its version, `none` where it does not) and its version is not below
the fused rollback counter, and firmware takes the first reading of every sensor; otherwise the controller stays in recovery. -/
def execBoot (version : Option Nat) (junctions hbm : List Int) (s : State) : Res :=
  if s.pkg.booted || s.pkg.recovery then .fault (.notEnabled "BOOT")
  else if !version.any fun n => decide (Config.rollback ≤ n) then .next { s with pkg := { s.pkg with recovery := true } }
  else if junctions.length = Config.dies ∧ hbm.length = Config.hbm then
    let s := { s with pkg := { s.pkg with booted := true, lg := bootLg s.pkg.lgRecord } }
    let s := junctions.zipIdx.foldl (fun s x => s.junction x.2 x.1) s
    .next (hbm.zipIdx.foldl (fun s x => s.thermal x.2 x.1) s)
  else .fault (.notEnabled "BOOT")

/-- PROVISIONING_RECORD_WRITE (R139): a new LG takes effect at the next reset. -/
def execProvisioningRecordWrite (lg : Option Nat) (s : State) : Res :=
  .next { s with pkg := { s.pkg with lgRecord := lg } }

end Sys2Proof.Machine
end

