-- ==== Sys2Proof/Machine/Matrix.lean ====
section
/-!
DEFINITION. Sys2Proof/Machine/Matrix.lean: issuing the MX group (R119 to R131, R334 to R337, R371, R372, R379, R404): its
checks at issue and what each command captures.
-/
namespace Sys2Proof.Machine

/-- An M-queue command, once a fork has ended (R51), if its checks pass. -/
def matrixOp (i : Instr) (s : State) (regs : List Reg) (check : Seat → Option Bad) (mk : Seat → Cap) : Res :=
  ctl i s fun key q => joinFirst s key q <| waitOn s key (regs.any q.busy)
    (match check q with
     | some b => .next (s.bad key q i b)
     | none => s.issueCmd key q (mk q))

/-- An M-queue command with the entries it names. -/
def Seat.mx (q : Seat) (i : Instr) (cmd : Cmd) (d a : Option Ent) (acc : BitVec 9) (n : Nat) : Cap :=
  { q.vec i cmd d a none 0 0 with queue := .m, acc := acc.toNat, n := n }

/-! ### The tile that row-steps will read (R132, R379) -/

/-- What the seat's buffers hold once the queued M commands have been performed: mode, format and K of each, and which
is active. -/
structure MxView where
  buf : Vector (Option (TileMode × Fmt × Nat)) 2
  active : Bool
  deriving DecidableEq, Repr

def Seat.mxNow (q : Seat) : MxView := ⟨q.buf.map fun t => t.map fun t => (t.mode, t.fmt, t.k), q.active⟩

def MxView.after (single : Bool) (v : MxView) (c : Cap) : MxView :=
  let sh : Fin 2 := if single && !v.active then 1 else 0
  match c.cmd with
  | .ldst _ m _ f => { v with buf := v.buf.set sh (some (m, f, (tileK m f).getD 0)) }
  | .ldstp =>
    match c.a with
    | some t => { v with buf := v.buf.set sh (some (.dense, t.fmt, (tileK .dense t.fmt).getD 0)) }
    | none => v
  | .swst => if single then { v with active := !v.active } else v
  | _ => v

/-- The active tile that the latest earlier LDST, LDSTP and SWST of the seat leave. -/
def Seat.tileAhead (q : Seat) : Option (TileMode × Fmt × Nat) :=
  let v := q.pend.foldl (MxView.after q.single) q.mxNow
  v.buf[(if q.single && v.active then 1 else 0 : Fin 2)]

/-! ### Row-steps (R379) -/

def badWindow (q : Seat) (acc : BitVec 9) (h : Nat) : Option Bad := badIf (decide (q.rows < acc.toNat + h)) (.shape 0)

/-- The checks of R379, in its order. -/
def mxChecks (q : Seat) (a : Ent) (acc : BitVec 9) (mmt : Bool) : Option Bad :=
  match q.entry a with
  | none => some (.shape a)
  | some t =>
    if t.kind ≠ (if mmt then .rect else .row) then some (.shape a)
    else
      let h := if mmt then t.h else 1
      firstOf [badWindow q acc h,
        match q.tileAhead with
        | none => some .illop
        | some (m, f, k) =>
          if !pairs t.fmt m f then some .illop
          else if mmt && decide (k < t.w) then some (.shape a)
          else if t.fmt ≠ .mxfp4 then none
          else
            match q.entry q.sr.mxsa with
            | some sh => badIf (!(sh.fmt == .e8m0 && decide (h * (k / 32) ≤ sh.cap))) (.shape q.sr.mxsa)
            | none => some (.shape q.sr.mxsa)]

/-- The control field of Table 5.1. -/
def accCtlOf (c : BitVec 2) : AccCtl := if c = 0 then .zero else if c = 1 then .acc else if c = 2 then .decay else .sub

def execMmr (a : Ent) (p : BitVec 9) (c : BitVec 2) (x : Bit) (s : State) : Res :=
  matrixOp (.mmr a p c x) s [] (fun q => mxChecks q a p false)
    (fun q => { q.mx (.mmr a p c x) (.mmr (accCtlOf c)) none (some a) p 0 with mxsa := q.entry q.sr.mxsa })

def execMmt (a : Ent) (p : BitVec 9) (c : BitVec 2) (x : Bit) (s : State) : Res :=
  matrixOp (.mmt a p c x) s [] (fun q => mxChecks q a p true)
    (fun q => { q.mx (.mmt a p c x) (.mmt (accCtlOf c)) none (some a) p 0 with mxsa := q.entry q.sr.mxsa })

/-! ### Accumulator moves -/

/-- The format, a RECT of at most 128 columns, and rows that fit the window from acc on (R129, R130, R334, R337). -/
def moveChecks (q : Seat) (e : Ent) (acc : BitVec 9) (fmt : Fmt → Bool) : Option Bad :=
  match q.entry e with
  | none => some (.shape e)
  | some t =>
    firstOf [badIf (!fmt t.fmt) .illop, badIf (!(t.kind == .rect && decide (t.w ≤ 128))) (.shape e), badWindow q acc t.h]

def notSpecial (f : Fmt) : Bool := f.cls != .special
def accwrFmt (f : Fmt) : Bool := f == .fp32 || f == .bf16 || f == .fp16 || f == .e4m3 || f == .e5m2

def execAccrdRm (d : Ent) (p : BitVec 9) (r : BitVec 3) (s : State) : Res :=
  matrixOp (.accrdRm d p r) s [] (fun q => moveChecks q d p notSpecial)
    (fun q => q.mx (.accrdRm d p r) (.accrd (some (rmOfSuffix r))) (some d) none p 0)

def execAccrd (d : Ent) (p : BitVec 9) (s : State) : Res :=
  matrixOp (.accrd d p) s [] (fun q => moveChecks q d p notSpecial)
    (fun q => q.mx (.accrd d p) (.accrd none) (some d) none p 0)

def execAccwr (a : Ent) (p : BitVec 9) (x : Bit) (s : State) : Res :=
  matrixOp (.accwr a p x) s [] (fun q => moveChecks q a p accwrFmt)
    (fun q => q.mx (.accwr a p x) (.accwr false) none (some a) p 0)

def execAccwrA (a : Ent) (p : BitVec 9) (x : Bit) (s : State) : Res :=
  matrixOp (.accwrA a p x) s [] (fun q => moveChecks q a p accwrFmt)
    (fun q => q.mx (.accwrA a p x) (.accwr true) none (some a) p 0)

/-- The field holds n − 1 (Table 5.1). -/
def execAccsc (n : BitVec 6) (p : BitVec 9) (s : State) : Res :=
  matrixOp (.accsc n p) s [] (fun q => badWindow q p (n.toNat + 1))
    (fun q => q.mx (.accsc n p) .accsc none none p (n.toNat + 1))

def execAccz (n : BitVec 6) (p : BitVec 9) (s : State) : Res :=
  matrixOp (.accz n p) s [] (fun q => badWindow q p (n.toNat + 1))
    (fun q => q.mx (.accz n p) .accz none none p (n.toNat + 1))

/-! ### Stationary tiles -/

/-- The mode of LDST (Table 5.1). -/
def tileModeOf (g : BitVec 2) : TileMode :=
  if g = 0 then .dense else if g = 1 then .grouped else if g = 2 then .grouped2 else .diagonal

def pow2 (n : Nat) : Bool := decide (n ≠ 0) && decide (2 ^ n.log2 = n)

/-- The parameters of a diagonal tile (R137). -/
def diagOk (bigK : Nat) (y : Word) : Bool :=
  let k := bits y.toNat 0 11
  let q := bits y.toNat 11 8 + 1
  decide (1 ≤ k) && decide (k ≤ bigK) && pow2 q && decide (q ≤ 128) && decide (diagG bigK k q ≠ 0) && decide (y.toNat < 2 ^ 19)

/-- The checks of R371 in its order: mode, format and sb; alignment; diagonal parameters. -/
def ldstChecks (q : Seat) (a b : Reg) (g : BitVec 2) (t : BitVec 4) : Option Bad :=
  let mode := tileModeOf g
  match Fmt.ofCode t.toNat with
  | none => some .illop
  | some f =>
    match tileK mode f with
    | none => some .illop
    | some k =>
      let scaled := mode == .grouped || mode == .grouped2 || f == .mxfp4
      firstOf [badIf (mode == .dense && f != .mxfp4 && b != 0) .illop,
        badIf (decide ((q.reg a).toNat % 64 ≠ 0)) (.align (q.reg a)),
        badIf (scaled && decide ((q.reg b).toNat % 64 ≠ 0)) (.align (q.reg b)),
        badIf (mode == .diagonal && !diagOk k (q.reg b)) .illop]

/-- LDST (R120, R371). -/
def execLdst (a b : Reg) (f : Bit) (g : BitVec 2) (t : BitVec 4) (s : State) : Res :=
  matrixOp (.ldst a b f g t) s [a, b] (fun q => ldstChecks q a b g t)
    (fun q =>
      { q.mx (.ldst a b f g t)
          (.ldst (f == 1) (tileModeOf g) (blockSize q.sr.qblk) ((Fmt.ofCode t.toNat).getD .bf16)) none none 0 0 with
        x := q.reg a, y := q.reg b })

/-- SWST (R123, R404). -/
def execSwst (s : State) : Res := matrixOp .swst s [] (fun _ => none) (fun q => q.mx .swst .swst none none 0 0)

/-- LDSTP (R122, R372): a RECT that no dense tile's format could hold is too large before its format is looked at. -/
def ldstpChecks (q : Seat) (a : Ent) : Option Bad :=
  match q.entry a with
  | none => some (.shape a)
  | some t =>
    if t.kind ≠ .rect ∨ 128 < t.w then some (.shape a)
    else
      match (if t.fmt = .mxfp4 then none else tileK .dense t.fmt) with
      | none => some .illop
      | some k => badIf (decide (k < t.h)) (.shape a)

def execLdstp (a : Ent) (x : Bit) (s : State) : Res :=
  matrixOp (.ldstp a x) s [] (fun q => ldstpChecks q a) (fun q => q.mx (.ldstp a x) .ldstp none (some a) 0 0)

end Sys2Proof.Machine
end

