-- ==== Sys2Proof/Machine/Scalar.lean ====
section
/-!
DEFINITION. Sys2Proof/Machine/Scalar.lean: the SALU group and its immediate forms (R313, R314, Table 16.3), in 64 bits for
the control thread and in 32 bits for a virtual processor (Table 2.6).
-/
namespace Sys2Proof.Machine

/-! ### The functions of Table 16.3 that differ from Lean's own -/

/-- The upper half of the signed product (R380). -/
def mulHi {n : Nat} (a b : BitVec n) : BitVec n := BitVec.ofInt n (a.toInt * b.toInt / (2 ^ n : Nat))
/-- The upper half of the unsigned product (R380). -/
def mulHiU {n : Nat} (a b : BitVec n) : BitVec n := BitVec.ofNat n (a.toNat * b.toNat / 2 ^ n)
/-- Quotients: all ones where the divisor is 0 (R352). -/
def divS {n : Nat} (a b : BitVec n) : BitVec n := if b = 0 then BitVec.allOnes n else a.sdiv b
def divU {n : Nat} (a b : BitVec n) : BitVec n := if b = 0 then BitVec.allOnes n else a / b
/-- Remainders: the dividend where the divisor is 0 (R390). -/
def remS {n : Nat} (a b : BitVec n) : BitVec n := if b = 0 then a else a.srem b
def remU {n : Nat} (a b : BitVec n) : BitVec n := if b = 0 then a else a % b
/-- Shift amounts are b[5:0] in 64 bits and b[4:0] in 32 (R398, Table 2.6). -/
def shlBy {n : Nat} (a : BitVec n) (k : Nat) : BitVec n := a <<< (k % n)
def shrBy {n : Nat} (a : BitVec n) (k : Nat) : BitVec n := a >>> (k % n)
def sraBy {n : Nat} (a : BitVec n) (k : Nat) : BitVec n := a.sshiftRight (k % n)
/-- 1 where the relation holds (R400). -/
def setIf {n : Nat} (c : Bool) : BitVec n := if c then 1 else 0
def minS {n : Nat} (a b : BitVec n) : BitVec n := if a.slt b then a else b
def minU {n : Nat} (a b : BitVec n) : BitVec n := if a.ult b then a else b
def maxS {n : Nat} (a b : BitVec n) : BitVec n := if a.slt b then b else a
def maxU {n : Nat} (a b : BitVec n) : BitVec n := if a.ult b then b else a
def clzW {n : Nat} (a : BitVec n) : BitVec n := BitVec.ofNat n (clzOf n a.toNat)
def popcW {n : Nat} (a : BitVec n) : BitVec n := BitVec.ofNat n (popOf n a.toNat)

/-- A register form: one function at both widths. -/
def salu (i : Instr) (s : State) (d a b : Reg) (f : {n : Nat} → BitVec n → BitVec n → BitVec n) : Res :=
  scalar i s d [a, b] (fun q => f (q.reg a) (q.reg b)) (fun l => f (l a) (l b))

/-- An immediate form: imm16 extended as the form says, and by its sign in a virtual processor (R314, Table 2.6). -/
def saluImm (i : Instr) (s : State) (d a : Reg) (imm : BitVec 16) (signed : Bool)
    (f : {n : Nat} → BitVec n → BitVec n → BitVec n) : Res :=
  scalar i s d [a] (fun q => f (q.reg a) (if signed then imm.signExtend 64 else imm.setWidth 64))
    (fun l => f (l a) (imm.signExtend 32))

/-- A shift by an immediate amount {h, k}; a virtual processor takes k (Table 2.6). -/
def saluShift (i : Instr) (s : State) (d a : Reg) (k : BitVec 5) (h : Bit)
    (f : {n : Nat} → BitVec n → Nat → BitVec n) : Res :=
  scalar i s d [a] (fun q => f (q.reg a) (32 * h.toNat + k.toNat)) (fun l => f (l a) k.toNat)

/-! ### The instructions -/

def execAdd (d a b : Reg) (s : State) : Res := salu (.add d a b) s d a b fun x y => x + y
def execAddImm (d a : Reg) (i : BitVec 16) (s : State) : Res := saluImm (.addImm d a i) s d a i true fun x y => x + y
def execSub (d a b : Reg) (s : State) : Res := salu (.sub d a b) s d a b fun x y => x - y
def execMul (d a b : Reg) (s : State) : Res := salu (.mul d a b) s d a b fun x y => x * y
def execMulh (d a b : Reg) (s : State) : Res := salu (.mulh d a b) s d a b fun x y => mulHi x y
def execMulhU (d a b : Reg) (s : State) : Res := salu (.mulhU d a b) s d a b fun x y => mulHiU x y
def execDiv (d a b : Reg) (s : State) : Res := salu (.div d a b) s d a b fun x y => divS x y
def execDivU (d a b : Reg) (s : State) : Res := salu (.divU d a b) s d a b fun x y => divU x y
def execRem (d a b : Reg) (s : State) : Res := salu (.rem d a b) s d a b fun x y => remS x y
def execRemU (d a b : Reg) (s : State) : Res := salu (.remU d a b) s d a b fun x y => remU x y
def execAnd (d a b : Reg) (s : State) : Res := salu (.and d a b) s d a b fun x y => x &&& y
def execAndImm (d a : Reg) (i : BitVec 16) (s : State) : Res := saluImm (.andImm d a i) s d a i false fun x y => x &&& y
def execOr (d a b : Reg) (s : State) : Res := salu (.or d a b) s d a b fun x y => x ||| y
def execOrImm (d a : Reg) (i : BitVec 16) (s : State) : Res := saluImm (.orImm d a i) s d a i false fun x y => x ||| y
def execXor (d a b : Reg) (s : State) : Res := salu (.xor d a b) s d a b fun x y => x ^^^ y
def execXorImm (d a : Reg) (i : BitVec 16) (s : State) : Res := saluImm (.xorImm d a i) s d a i true fun x y => x ^^^ y
def execShl (d a b : Reg) (s : State) : Res := salu (.shl d a b) s d a b fun x y => shlBy x y.toNat
def execShr (d a b : Reg) (s : State) : Res := salu (.shr d a b) s d a b fun x y => shrBy x y.toNat
def execSra (d a b : Reg) (s : State) : Res := salu (.sra d a b) s d a b fun x y => sraBy x y.toNat
def execShlI (d a : Reg) (k : BitVec 5) (h : Bit) (s : State) : Res := saluShift (.shlI d a k h) s d a k h shlBy
def execShrI (d a : Reg) (k : BitVec 5) (h : Bit) (s : State) : Res := saluShift (.shrI d a k h) s d a k h shrBy
def execSraI (d a : Reg) (k : BitVec 5) (h : Bit) (s : State) : Res := saluShift (.sraI d a k h) s d a k h sraBy
def execSlt (d a b : Reg) (s : State) : Res := salu (.slt d a b) s d a b fun x y => setIf (x.slt y)
def execSltU (d a b : Reg) (s : State) : Res := salu (.sltU d a b) s d a b fun x y => setIf (x.ult y)
def execSltImm (d a : Reg) (i : BitVec 16) (s : State) : Res :=
  saluImm (.sltImm d a i) s d a i true fun x y => setIf (x.slt y)
def execSltUImm (d a : Reg) (i : BitVec 16) (s : State) : Res :=
  saluImm (.sltUImm d a i) s d a i true fun x y => setIf (x.ult y)
def execMin (d a b : Reg) (s : State) : Res := salu (.min d a b) s d a b fun x y => minS x y
def execMinU (d a b : Reg) (s : State) : Res := salu (.minU d a b) s d a b fun x y => minU x y
def execMax (d a b : Reg) (s : State) : Res := salu (.max d a b) s d a b fun x y => maxS x y
def execMaxU (d a b : Reg) (s : State) : Res := salu (.maxU d a b) s d a b fun x y => maxU x y
def execClz (d a : Reg) (s : State) : Res := scalar (.clz d a) s d [a] (fun q => clzW (q.reg a)) (fun l => clzW (l a))
def execPopc (d a : Reg) (s : State) : Res := scalar (.popc d a) s d [a] (fun q => popcW (q.reg a)) (fun l => popcW (l a))

/-- SEL reads the old sd (Table 16.3). -/
def execSel (d a b : Reg) (s : State) : Res :=
  scalar (.sel d a b) s d [a, b] (fun q => if q.reg d ≠ 0 then q.reg a else q.reg b)
    (fun l => if l d ≠ 0 then l a else l b)

def execLui (d : Reg) (i : BitVec 16) (s : State) : Res :=
  scalar (.lui d i) s d [] (fun _ => i.signExtend 64 <<< 16) (fun _ => i.setWidth 32 <<< 16)

end Sys2Proof.Machine
end

