-- ==== Sys2Proof/Machine/Dispatch.lean ====
section
/-!
DEFINITION. Sys2Proof/Machine/Dispatch.lean: one arm per constructor of Instr; each arm is one direct call of that
instruction's meaning.
-/
namespace Sys2Proof.Machine

def exec (i : Instr) (s : State) : Host.Outcome State Fault Refusal :=
  match i with
  | .add d a b => Sys2Proof.Machine.execAdd d a b s
  | .addImm d a n => Sys2Proof.Machine.execAddImm d a n s
  | .sub d a b => Sys2Proof.Machine.execSub d a b s
  | .mul d a b => Sys2Proof.Machine.execMul d a b s
  | .mulh d a b => Sys2Proof.Machine.execMulh d a b s
  | .mulhU d a b => Sys2Proof.Machine.execMulhU d a b s
  | .div d a b => Sys2Proof.Machine.execDiv d a b s
  | .divU d a b => Sys2Proof.Machine.execDivU d a b s
  | .rem d a b => Sys2Proof.Machine.execRem d a b s
  | .remU d a b => Sys2Proof.Machine.execRemU d a b s
  | .and d a b => Sys2Proof.Machine.execAnd d a b s
  | .andImm d a n => Sys2Proof.Machine.execAndImm d a n s
  | .or d a b => Sys2Proof.Machine.execOr d a b s
  | .orImm d a n => Sys2Proof.Machine.execOrImm d a n s
  | .xor d a b => Sys2Proof.Machine.execXor d a b s
  | .xorImm d a n => Sys2Proof.Machine.execXorImm d a n s
  | .shl d a b => Sys2Proof.Machine.execShl d a b s
  | .shr d a b => Sys2Proof.Machine.execShr d a b s
  | .sra d a b => Sys2Proof.Machine.execSra d a b s
  | .shlI d a k h => Sys2Proof.Machine.execShlI d a k h s
  | .shrI d a k h => Sys2Proof.Machine.execShrI d a k h s
  | .sraI d a k h => Sys2Proof.Machine.execSraI d a k h s
  | .slt d a b => Sys2Proof.Machine.execSlt d a b s
  | .sltU d a b => Sys2Proof.Machine.execSltU d a b s
  | .sltImm d a n => Sys2Proof.Machine.execSltImm d a n s
  | .sltUImm d a n => Sys2Proof.Machine.execSltUImm d a n s
  | .min d a b => Sys2Proof.Machine.execMin d a b s
  | .minU d a b => Sys2Proof.Machine.execMinU d a b s
  | .max d a b => Sys2Proof.Machine.execMax d a b s
  | .maxU d a b => Sys2Proof.Machine.execMaxU d a b s
  | .clz d a => Sys2Proof.Machine.execClz d a s
  | .popc d a => Sys2Proof.Machine.execPopc d a s
  | .sel d a b => Sys2Proof.Machine.execSel d a b s
  | .lui d n => Sys2Proof.Machine.execLui d n s
  | .ldB d a n => Sys2Proof.Machine.execLdB d a n s
  | .ldBu d a n => Sys2Proof.Machine.execLdBu d a n s
  | .ldH d a n => Sys2Proof.Machine.execLdH d a n s
  | .ldHu d a n => Sys2Proof.Machine.execLdHu d a n s
  | .ldW d a n => Sys2Proof.Machine.execLdW d a n s
  | .ldWu d a n => Sys2Proof.Machine.execLdWu d a n s
  | .ldD d a n => Sys2Proof.Machine.execLdD d a n s
  | .stB d a n => Sys2Proof.Machine.execStB d a n s
  | .stH d a n => Sys2Proof.Machine.execStH d a n s
  | .stW d a n => Sys2Proof.Machine.execStW d a n s
  | .stD d a n => Sys2Proof.Machine.execStD d a n s
  | .beq a b o => Sys2Proof.Machine.execBeq a b o s
  | .bne a b o => Sys2Proof.Machine.execBne a b o s
  | .blt a b o => Sys2Proof.Machine.execBlt a b o s
  | .bge a b o => Sys2Proof.Machine.execBge a b o s
  | .bltU a b o => Sys2Proof.Machine.execBltU a b o s
  | .bgeU a b o => Sys2Proof.Machine.execBgeU a b o s
  | .jmp o => Sys2Proof.Machine.execJmp o s
  | .jal o => Sys2Proof.Machine.execJal o s
  | .strip a p o => Sys2Proof.Machine.execStrip a p o s
  | .btag a c o => Sys2Proof.Machine.execBtag a c o s
  | .bmask m c o => Sys2Proof.Machine.execBmask m c o s
  | .aadd d a b sx w => Sys2Proof.Machine.execAadd d a b sx w s
  | .amin d a b sx u w => Sys2Proof.Machine.execAmin d a b sx u w s
  | .amax d a b sx u w => Sys2Proof.Machine.execAmax d a b sx u w s
  | .aand d a b sx w => Sys2Proof.Machine.execAand d a b sx w s
  | .aor d a b sx w => Sys2Proof.Machine.execAor d a b sx w s
  | .axchg d a b sx w => Sys2Proof.Machine.execAxchg d a b sx w s
  | .acas d a b sx w => Sys2Proof.Machine.execAcas d a b sx w s
  | .phase g => Sys2Proof.Machine.execPhase g s
  | .pub a b c => Sys2Proof.Machine.execPub a b c s
  | .acq d a c => Sys2Proof.Machine.execAcq d a c s
  | .fence k => Sys2Proof.Machine.execFence k s
  | .qfence a => Sys2Proof.Machine.execQfence a s
  | .gbar g => Sys2Proof.Machine.execGbar g s
  | .rclm a => Sys2Proof.Machine.execRclm a s
  | .vadd d a b x y m => Sys2Proof.Machine.execVadd d a b x y m s
  | .vsub d a b x y m => Sys2Proof.Machine.execVsub d a b x y m s
  | .vmul d a b x y m => Sys2Proof.Machine.execVmul d a b x y m s
  | .vdiv d a b x y m => Sys2Proof.Machine.execVdiv d a b x y m s
  | .vmin d a b x y m => Sys2Proof.Machine.execVmin d a b x y m s
  | .vmax d a b x y m => Sys2Proof.Machine.execVmax d a b x y m s
  | .vabs d a x m => Sys2Proof.Machine.execVabs d a x m s
  | .vneg d a x m => Sys2Proof.Machine.execVneg d a x m s
  | .vfma d a b x y m => Sys2Proof.Machine.execVfma d a b x y m s
  | .vfms d a b x y m => Sys2Proof.Machine.execVfms d a b x y m s
  | .vsqrt d a x m => Sys2Proof.Machine.execVsqrt d a x m s
  | .vrcp d a x m => Sys2Proof.Machine.execVrcp d a x m s
  | .vrsqrt d a x m => Sys2Proof.Machine.execVrsqrt d a x m s
  | .vexp2 d a x m => Sys2Proof.Machine.execVexp2 d a x m s
  | .vand d a b x y m => Sys2Proof.Machine.execVand d a b x y m s
  | .vor d a b x y m => Sys2Proof.Machine.execVor d a b x y m s
  | .vxor d a b x y m => Sys2Proof.Machine.execVxor d a b x y m s
  | .vnot d a x m => Sys2Proof.Machine.execVnot d a x m s
  | .vshl d a b x y m => Sys2Proof.Machine.execVshl d a b x y m s
  | .vshr d a b x y m => Sys2Proof.Machine.execVshr d a b x y m s
  | .vsra d a b x y m => Sys2Proof.Machine.execVsra d a b x y m s
  | .vcmpEq d a b x y m => Sys2Proof.Machine.execVcmpEq d a b x y m s
  | .vcmpNe d a b x y m => Sys2Proof.Machine.execVcmpNe d a b x y m s
  | .vcmpLt d a b x y m => Sys2Proof.Machine.execVcmpLt d a b x y m s
  | .vcmpLe d a b x y m => Sys2Proof.Machine.execVcmpLe d a b x y m s
  | .vcmpUn d a b x y m => Sys2Proof.Machine.execVcmpUn d a b x y m s
  | .vsel d a b x y m => Sys2Proof.Machine.execVsel d a b x y m s
  | .vmov d a x m => Sys2Proof.Machine.execVmov d a x m s
  | .vidx d m => Sys2Proof.Machine.execVidx d m s
  | .vcvtRm d a x m r => Sys2Proof.Machine.execVcvtRm d a x m r s
  | .vcvt d a x m => Sys2Proof.Machine.execVcvt d a x m s
  | .vrsum d a x m => Sys2Proof.Machine.execVrsum d a x m s
  | .vrmax d a x m => Sys2Proof.Machine.execVrmax d a x m s
  | .vrmin d a x m => Sys2Proof.Machine.execVrmin d a x m s
  | .vscan d a x m => Sys2Proof.Machine.execVscan d a x m s
  | .vrsumSeg d a x m => Sys2Proof.Machine.execVrsumSeg d a x m s
  | .vrmaxSeg d a x m => Sys2Proof.Machine.execVrmaxSeg d a x m s
  | .vrminSeg d a x m => Sys2Proof.Machine.execVrminSeg d a x m s
  | .vscanSeg d a x m => Sys2Proof.Machine.execVscanSeg d a x m s
  | .vperm d a b x y m => Sys2Proof.Machine.execVperm d a b x y m s
  | .vcompr d a x m => Sys2Proof.Machine.execVcompr d a x m s
  | .vexpnd d a x m => Sys2Proof.Machine.execVexpnd d a x m s
  | .vnmsel d a b x => Sys2Proof.Machine.execVnmsel d a b x s
  | .vqnt d a b x => Sys2Proof.Machine.execVqnt d a b x s
  | .vdqnt d a b x y => Sys2Proof.Machine.execVdqnt d a b x y s
  | .vhad d a k x => Sys2Proof.Machine.execVhad d a k x s
  | .vhadC a k x => Sys2Proof.Machine.execVhadC a k x s
  | .cpix d a b m t => Sys2Proof.Machine.execCpix d a b m t s
  | .vaddSat d a b x y m => Sys2Proof.Machine.execVaddSat d a b x y m s
  | .vsubSat d a b x y m => Sys2Proof.Machine.execVsubSat d a b x y m s
  | .vmulSat d a b x y m => Sys2Proof.Machine.execVmulSat d a b x y m s
  | .vshlSat d a b x y m => Sys2Proof.Machine.execVshlSat d a b x y m s
  | .vaddS d a b x m => Sys2Proof.Machine.execVaddS d a b x m s
  | .vsubS d a b x m => Sys2Proof.Machine.execVsubS d a b x m s
  | .vmulS d a b x m => Sys2Proof.Machine.execVmulS d a b x m s
  | .vminS d a b x m => Sys2Proof.Machine.execVminS d a b x m s
  | .vmaxS d a b x m => Sys2Proof.Machine.execVmaxS d a b x m s
  | .vfmaS d a b x m => Sys2Proof.Machine.execVfmaS d a b x m s
  | .vshlS d a b x m => Sys2Proof.Machine.execVshlS d a b x m s
  | .vshrS d a b x m => Sys2Proof.Machine.execVshrS d a b x m s
  | .vbcast d b m => Sys2Proof.Machine.execVbcast d b m s
  | .vextr d a b x => Sys2Proof.Machine.execVextr d a b x s
  | .vins d a b x m => Sys2Proof.Machine.execVins d a b x m s
  | .vslide d a b x m => Sys2Proof.Machine.execVslide d a b x m s
  | .vappend a b x m => Sys2Proof.Machine.execVappend a b x m s
  | .vsraS d a b x m => Sys2Proof.Machine.execVsraS d a b x m s
  | .vld v b m => Sys2Proof.Machine.execVld v b m s
  | .vlds v b sx m => Sys2Proof.Machine.execVlds v b sx m s
  | .vldf v b m => Sys2Proof.Machine.execVldf v b m s
  | .vst v b m => Sys2Proof.Machine.execVst v b m s
  | .vsts v b sx m => Sys2Proof.Machine.execVsts v b sx m s
  | .vldx v b n c o m => Sys2Proof.Machine.execVldx v b n c o m s
  | .vstxO v b n c o m => Sys2Proof.Machine.execVstxO v b n c o m s
  | .vstxU v b n c o m => Sys2Proof.Machine.execVstxU v b n c o m s
  | .vld2 v b sx m => Sys2Proof.Machine.execVld2 v b sx m s
  | .vst2 v b sx m => Sys2Proof.Machine.execVst2 v b sx m s
  | .mmr a p c x => Sys2Proof.Machine.execMmr a p c x s
  | .mmt a p c x => Sys2Proof.Machine.execMmt a p c x s
  | .accrdRm d p r => Sys2Proof.Machine.execAccrdRm d p r s
  | .accrd d p => Sys2Proof.Machine.execAccrd d p s
  | .accwr a p x => Sys2Proof.Machine.execAccwr a p x s
  | .accwrA a p x => Sys2Proof.Machine.execAccwrA a p x s
  | .accsc n p => Sys2Proof.Machine.execAccsc n p s
  | .accz n p => Sys2Proof.Machine.execAccz n p s
  | .ldst a b f g t => Sys2Proof.Machine.execLdst a b f g t s
  | .swst => Sys2Proof.Machine.execSwst s
  | .ldstp a x => Sys2Proof.Machine.execLdstp a x s
  | .defr d a b => Sys2Proof.Machine.execDefr d a b s
  | .shrd a g f => Sys2Proof.Machine.execShrd a g f s
  | .layout n f => Sys2Proof.Machine.execLayout n f s
  | .setvl d a => Sys2Proof.Machine.execSetvl d a s
  | .pzero d => Sys2Proof.Machine.execPzero d s
  | .repf v n k c => Sys2Proof.Machine.execRepf v n k c s
  | .mand d a b => Sys2Proof.Machine.execMand d a b s
  | .mor d a b => Sys2Proof.Machine.execMor d a b s
  | .mxor d a b => Sys2Proof.Machine.execMxor d a b s
  | .mandn d a b => Sys2Proof.Machine.execMandn d a b s
  | .mnot d a => Sys2Proof.Machine.execMnot d a s
  | .mpop d a => Sys2Proof.Machine.execMpop d a s
  | .mfirst d a => Sys2Proof.Machine.execMfirst d a s
  | .msetn d a => Sys2Proof.Machine.execMsetn d a s
  | .frnw d a => Sys2Proof.Machine.execFrnw d a s
  | .flife d a => Sys2Proof.Machine.execFlife d a s
  | .finit a b => Sys2Proof.Machine.execFinit a b s
  | .cpcfg a b c => Sys2Proof.Machine.execCpcfg a b c s
  | .cpdrn c => Sys2Proof.Machine.execCpdrn c s
  | .cpxf a b c => Sys2Proof.Machine.execCpxf a b c s
  | .cpimg a b c => Sys2Proof.Machine.execCpimg a b c s
  | .twall a => Sys2Proof.Machine.execTwall a s
  | .twany d a => Sys2Proof.Machine.execTwany d a s
  | .tffr d a => Sys2Proof.Machine.execTffr d a s
  | .tclr a => Sys2Proof.Machine.execTclr a s
  | .sapp d a b => Sys2Proof.Machine.execSapp d a b s
  | .sckp d a b => Sys2Proof.Machine.execSckp d a b s
  | .scur d a c => Sys2Proof.Machine.execScur d a c s
  | .scurArm d a => Sys2Proof.Machine.execScurArm d a s
  | .srecv d a b => Sys2Proof.Machine.execSrecv d a b s
  | .strunc d a => Sys2Proof.Machine.execStrunc d a s
  | .gcast a g => Sys2Proof.Machine.execGcast a g s
  | .gred a g => Sys2Proof.Machine.execGred a g s
  | .vfork a m => Sys2Proof.Machine.execVfork a m s
  | .vjoin d => Sys2Proof.Machine.execVjoin d s
  | .lfetch a => Sys2Proof.Machine.execLfetch a s
  | .lexit => Sys2Proof.Machine.execLexit s
  | .trap a => Sys2Proof.Machine.execTrap a s
  | .eret => Sys2Proof.Machine.execEret s
  | .mfsr d h l => Sys2Proof.Machine.execMfsr d h l s
  | .mtsr a h l => Sys2Proof.Machine.execMtsr a h l s
  | .halt => Sys2Proof.Machine.execHalt s
  | .brk => Sys2Proof.Machine.execBrk s
  | .tmark a => Sys2Proof.Machine.execTmark a s
  | .tlbi a f => Sys2Proof.Machine.execTlbi a f s
  | .jr a => Sys2Proof.Machine.execJr a s
  | .ret => Sys2Proof.Machine.execRet s
  | .yield => Sys2Proof.Machine.execYield s
  | .waite a => Sys2Proof.Machine.execWaite a s
  | .barrierEpisodeComplete ctx launch group gbar => Sys2Proof.Machine.execBarrierEpisodeComplete ctx launch group gbar s
  | .cpixGatherComplete seat tag => Sys2Proof.Machine.execCpixGatherComplete seat tag s
  | .copyTransferComplete seat ch => Sys2Proof.Machine.execCopyTransferComplete seat ch s
  | .operandsConsumed seat ch => Sys2Proof.Machine.execOperandsConsumed seat ch s
  | .prefetchComplete seat ch => Sys2Proof.Machine.execPrefetchComplete seat ch s
  | .imageComplete seat ch => Sys2Proof.Machine.execImageComplete seat ch s
  | .routineYield seat ch bytes => Sys2Proof.Machine.execRoutineYield seat ch bytes s
  | .routineDone seat ch bytes => Sys2Proof.Machine.execRoutineDone seat ch bytes s
  | .routineFail seat ch code => Sys2Proof.Machine.execRoutineFail seat ch code s
  | .routineIllegalAccess seat ch illegal => Sys2Proof.Machine.execRoutineIllegalAccess seat ch illegal s
  | .collectivePartStart ctx collid => Sys2Proof.Machine.execCollectivePartStart ctx collid s
  | .multicastChunkArrival ctx collid rank offset bytes => Sys2Proof.Machine.execMulticastChunkArrival ctx collid rank offset bytes s
  | .collectivePartComplete ctx collid => Sys2Proof.Machine.execCollectivePartComplete ctx collid s
  | .laneBlockFetchDone seat cluster block => Sys2Proof.Machine.execLaneBlockFetchDone seat cluster block s
  | .waiteDeadline seat => Sys2Proof.Machine.execWaiteDeadline seat s
  | .mtsrPtroot a => Sys2Proof.Machine.execMtsrPtroot a s
  | .mtsrCvtdat a => Sys2Proof.Machine.execMtsrCvtdat a s
  | .mtsrCtxlk a => Sys2Proof.Machine.execMtsrCtxlk a s
  | .mfsrCtxlk d => Sys2Proof.Machine.execMfsrCtxlk d s
  | .mtsrVl a => Sys2Proof.Machine.execMtsrVl a s
  | .mtsrSrdptr a => Sys2Proof.Machine.execMtsrSrdptr a s
  | .mtsrGustlvl a => Sys2Proof.Machine.execMtsrGustlvl a s
  | .mtsrStatus a => Sys2Proof.Machine.execMtsrStatus a s
  | .mtsrExcflags a => Sys2Proof.Machine.execMtsrExcflags a s
  | .seatSwitch core => Sys2Proof.Machine.execSeatSwitch core s
  | .issueShareSpent core => Sys2Proof.Machine.execIssueShareSpent core s
  | .trapEntry seat pos => Sys2Proof.Machine.execTrapEntry seat pos s
  | .pageParkTimeout seat => Sys2Proof.Machine.execPageParkTimeout seat s
  | .pageAnswerTimeout ctx node => Sys2Proof.Machine.execPageAnswerTimeout ctx node s
  | .dispatchBind => Sys2Proof.Machine.execDispatchBind s
  | .preempt seat cause => Sys2Proof.Machine.execPreempt seat cause s
  | .preemptDeclared stop => Sys2Proof.Machine.execPreemptDeclared stop s
  | .saveComplete seat => Sys2Proof.Machine.execSaveComplete seat s
  | .restore ctx node seat => Sys2Proof.Machine.execRestore ctx node seat s
  | .fusionChange quad => Sys2Proof.Machine.execFusionChange quad s
  | .nodeFinish ctx node => Sys2Proof.Machine.execNodeFinish ctx node s
  | .launchComplete ctx launch => Sys2Proof.Machine.execLaunchComplete ctx launch s
  | .doorbell vi ring => Sys2Proof.Machine.execDoorbell vi ring s
  | .createCtx vi root => Sys2Proof.Machine.execCreateCtx vi root s
  | .map vi frames tables => Sys2Proof.Machine.execMap vi frames tables s
  | .loadGraph vi => Sys2Proof.Machine.execLoadGraph vi s
  | .launch vi => Sys2Proof.Machine.execLaunch vi s
  | .queryContext vi info => Sys2Proof.Machine.execQueryContext vi info s
  | .queryLaunch vi info => Sys2Proof.Machine.execQueryLaunch vi info s
  | .queryAttestation vi nonce signature => Sys2Proof.Machine.execQueryAttestation vi nonce signature s
  | .kill by_ => Sys2Proof.Machine.execKill by_ s
  | .reclaim vi => Sys2Proof.Machine.execReclaim vi s
  | .reclaimComplete ctx => Sys2Proof.Machine.execReclaimComplete ctx s
  | .streamNew vi => Sys2Proof.Machine.execStreamNew vi s
  | .routine vi signer image => Sys2Proof.Machine.execRoutine vi signer image s
  | .page vi frames tables => Sys2Proof.Machine.execPage vi frames tables s
  | .dhalt vi => Sys2Proof.Machine.execDhalt vi s
  | .hostRmaRead vi handle va len => Sys2Proof.Machine.execHostRmaRead vi handle va len s
  | .hostRmaWrite vi handle va bytes => Sys2Proof.Machine.execHostRmaWrite vi handle va bytes s
  | .hostAtomic vi handle va fn wide uns op cmp => Sys2Proof.Machine.execHostAtomic vi handle va fn wide uns op cmp s
  | .connectionSetup port opts => Sys2Proof.Machine.execConnectionSetup port opts s
  | .packetIngress port peer keySet foreign payload => Sys2Proof.Machine.execPacketIngress port peer keySet foreign payload s
  | .frameArrival vi handle stream media payload len barge => Sys2Proof.Machine.execFrameArrival vi handle stream media payload len barge s
  | .playbackAck ctx stream q => Sys2Proof.Machine.execPlaybackAck ctx stream q s
  | .egressSend ctx stream => Sys2Proof.Machine.execEgressSend ctx stream s
  | .unitRequestArrival cin addr req => Sys2Proof.Machine.execUnitRequestArrival cin addr req s
  | .responseArrival owner cin dest => Sys2Proof.Machine.execResponseArrival owner cin dest s
  | .pageWalk quad ctx va store => Sys2Proof.Machine.execPageWalk quad ctx va store s
  | .l1Eviction core line => Sys2Proof.Machine.execL1Eviction core line s
  | .compressedTileFill pa => Sys2Proof.Machine.execCompressedTileFill pa s
  | .tileExpiry tile => Sys2Proof.Machine.execTileExpiry tile s
  | .fleetSweep die => Sys2Proof.Machine.execFleetSweep die s
  | .junctionReading die temp => Sys2Proof.Machine.execJunctionReading die temp s
  | .balancerSample pair lower upper => Sys2Proof.Machine.execBalancerSample pair lower upper s
  | .gustInterval pair => Sys2Proof.Machine.execGustInterval pair s
  | .chainWithdraw quad excess => Sys2Proof.Machine.execChainWithdraw quad excess s
  | .hbmThermalReading stack temp => Sys2Proof.Machine.execHbmThermalReading stack temp s
  | .holdRetention quad => Sys2Proof.Machine.execHoldRetention quad s
  | .holdGate quad => Sys2Proof.Machine.execHoldGate quad s
  | .wakeRampStart die => Sys2Proof.Machine.execWakeRampStart die s
  | .wakeRampComplete quad => Sys2Proof.Machine.execWakeRampComplete quad s
  | .placementEpoch => Sys2Proof.Machine.execPlacementEpoch s
  | .migrationMark ctx va frame => Sys2Proof.Machine.execMigrationMark ctx va frame s
  | .migrationCopy ctx va => Sys2Proof.Machine.execMigrationCopy ctx va s
  | .migrationSwitch ctx va => Sys2Proof.Machine.execMigrationSwitch ctx va s
  | .routineWatchdog seat ch => Sys2Proof.Machine.execRoutineWatchdog seat ch s
  | .collectorWatchdog seat => Sys2Proof.Machine.execCollectorWatchdog seat s
  | .reclaimWatchdog ctx => Sys2Proof.Machine.execReclaimWatchdog ctx s
  | .eccCorrected unit => Sys2Proof.Machine.execEccCorrected unit s
  | .eccUncorrectable seat detail value site => Sys2Proof.Machine.execEccUncorrectable seat detail value site s
  | .deviceStop unit => Sys2Proof.Machine.execDeviceStop unit s
  | .vsampleWrite seat counts total => Sys2Proof.Machine.execVsampleWrite seat counts total s
  | .barographArm die core vi start stop post => Sys2Proof.Machine.execBarographArm die core vi start stop post s
  | .barographFreeze die => Sys2Proof.Machine.execBarographFreeze die s
  | .boot version junctions hbm => Sys2Proof.Machine.execBoot version junctions hbm s
  | .effectivePriorityAging ctx node => Sys2Proof.Machine.execEffectivePriorityAging ctx node s
  | .wordNamingNoInstruction w => Sys2Proof.Machine.execWordNamingNoInstruction w s
  | .instructionFetchFault => Sys2Proof.Machine.execInstructionFetchFault s
  | .peerAcknowledgement ctx collid => Sys2Proof.Machine.execPeerAcknowledgement ctx collid s
  | .viProvisioning vi prov => Sys2Proof.Machine.execViProvisioning vi prov s
  | .provisioningRecordWrite lg => Sys2Proof.Machine.execProvisioningRecordWrite lg s
  | .barographStopCommand die => Sys2Proof.Machine.execBarographStopCommand die s
  | .retentionLoweringComplete quad => Sys2Proof.Machine.execRetentionLoweringComplete quad s

end Sys2Proof.Machine
end

