-- ==== Sys2Proof/Machine/Run.lean ====
section
/-!
DEFINITION. Sys2Proof/Machine/Run.lean: what one step of the package is (assumption 2). The agenda names the next moves
where the spec leaves their order open; with no agenda the thread whose turn it is issues its next instruction, and between
the rounds of the threads whatever the state itself brings about takes place, one event to a step.
-/
namespace Sys2Proof.Machine

/-! ### Whose turn it is (R42, R47) -/

/-- An L1 that a core reaches holds more lines than it has room for: lines leave it first (R1, R147). -/
def State.l1Full (s : State) (core : Nat) : Bool := (s.slices core).any fun c => decide (Config.l1Lines < (s.core c).l1.length)

/-- The control thread of a seat can issue: it is ready, its quad runs, and its core's issue is its own, no seat switch under
way (R42, R283). -/
def State.canIssueCtl (s : State) (key : Nat) : Bool :=
  s.ready key && s.quadOn (quadOfCore (coreOf key)) && !s.l1Full (coreOf key) && (s.core (coreOf key)).switching == 0
    && ((s.core (coreOf key)).res != .dual || (s.core (coreOf key)).holder == seatOf key)

/-- A virtual processor is ready: it waits for no block, and no trap has stopped it (R49, R50). -/
def Vp.ready (v : Vp) : Bool := !v.waiting && !v.trapped

/-- The lane whose turn it is in a lane cluster: the first ready one from the cluster's turn on, round robin (R49). -/
def Fork.next (f : Fork) (cluster : Nat) : Option Nat :=
  let ready := f.vps.filterMap fun x => if clusterOf x.1 = cluster ∧ x.2.ready then some x.1 else none
  match ready.find? fun l => decide (mapGet 0 f.turn cluster ≤ l) with
  | some l => some l
  | none => ready.head?

/-- A virtual processor can issue: it is ready, and its lane's turn has come (R47, R49, R50). -/
def State.canIssueVp (s : State) (key lane : Nat) : Bool :=
  match s.seat key with
  | none => false
  | some q =>
    match q.fork with
    | none => false
    | some f =>
      f.next (clusterOf lane) == some lane && !q.status.lane && q.park.isNone && q.stopping.isNone
        && s.quadOn (quadOfCore (coreOf key)) && !s.l1Full (coreOf key)

/-- A virtual processor has issued: the turn of its cluster is with the next lane (R49). -/
def Seat.vpIssued (q : Seat) (lane : Nat) : Seat :=
  { q with fork := q.fork.map fun f => { f with turn := mapInsert f.turn (clusterOf lane) (lane + 1) } }

def State.canIssue (s : State) (t : Thread) : Bool :=
  match t.lane with
  | none => s.canIssueCtl t.key
  | some l => s.canIssueVp t.key l

/-- The threads of a seat: its control thread, and the virtual processors of its fork. -/
def threadsOf (key : Nat) (q : Seat) : List Thread :=
  ⟨key, none⟩ :: (match q.fork with | some f => f.vps.map fun x => ⟨key, some x.1⟩ | none => [])

def State.threads (s : State) : List Thread := s.seats.flatMap fun x => threadsOf x.1 x.2

/-- The order of the threads in a round. -/
def Thread.rank (t : Thread) : Nat := 512 * t.key + (match t.lane with | none => 0 | some l => l + 1)

/-- The next thread of the round that can issue; `none` at the end of the round. -/
def State.after (s : State) (t : Thread) : Option Thread :=
  s.threads.find? fun u => decide (t.rank < u.rank) && s.canIssue u

/-! ### One instruction -/

/-- The Barograph of a core sees it issue (R298). -/
def State.baroIssue (s : State) (core : Nat) : State :=
  match (s.die (dieOfCore core)).baro with
  | some b => if b.core = core then s.setDie (dieOfCore core) { s.die (dieOfCore core) with baro := some { b with issued := true } } else s
  | none => s

/-- The control thread issues: a Barograph's PC trigger may be met (R298), and a seat that waits at YIELD sees the other
issue (R433). A virtual processor issues: its cluster's turn passes on (R49). -/
def State.noteIssue (s : State) (t : Thread) : State :=
  let s : State := match t.lane, s.seat t.key with
    | none, some q => (s.baroNote (coreOf t.key) (· == BaroTrigger.pc q.curPc)).baroIssue (coreOf t.key)
    | some l, some q => s.setSeat t.key (q.vpIssued l)
    | _, none => s
  match s.seat (otherSeat t.key) with
  | some o => if o.wait = some Wait.yield then s.setSeat (otherSeat t.key) { o with yielded := true } else s
  | none => s

/-- The next word of the thread in `thr` is fetched, decoded and executed. -/
def State.issueOne (s : State) (t : Thread) : Res :=
  match s.fetch t with
  | none => .fault .noThread
  | some (.waits s) => .next s
  | some (.trap _ _) => execInstructionFetchFault s
  | some (.shape e) =>
    match s.seat t.key with
    | none => .fault .noThread
    | some q => .next (s.bad t.key q .swst (.shape e))
  | some (.word w s) =>
    match decodeWord w with
    | some i => exec i s
    | none => execWordNamingNoInstruction w s

/-- What becomes of the state that an outcome holds. -/
def onNext (r : Res) (f : State → State) : Res :=
  match r with
  | .next s => .next (f s)
  | .fault e => .fault e
  | .refused e => .refused e

/-- The turn goes to the next thread of the round. -/
def State.passOn (t : Thread) (s : State) : State := { s with thr := s.after t }

/-- One instruction of a thread, and the turn passes on. -/
def State.turn (s : State) (t : Thread) : Res := onNext ({ s.noteIssue t with thr := some t }.issueOne t) (State.passOn t)

/-! ### What the state itself brings about -/

/-- The rows of the table that are part of an instruction of a thread: no event of the package. -/
def Instr.ofThread (i : Instr) : Bool :=
  match i with
  | .mtsrPtroot _ | .mtsrCvtdat _ | .mtsrCtxlk _ | .mfsrCtxlk _ | .mtsrVl _ | .mtsrSrdptr _ | .mtsrGustlvl _
  | .mtsrStatus _ | .mtsrExcflags _ | .wordNamingNoInstruction _ | .instructionFetchFault => true
  | i => (encode i).isSome

/-- What the state may bring about, as meanings of the rows of the table. -/
def engineEvents (key : Nat) (q : Seat) : List (State → Res) :=
  q.gathers.map (fun g => execCpixGatherComplete key g.tag)
    ++ (List.range 4).flatMap fun ch =>
      [execOperandsConsumed key ch, execCopyTransferComplete key ch, execImageComplete key ch, execPrefetchComplete key ch]

def seatEvents (key : Nat) (q : Seat) : List (State → Res) :=
  engineEvents key q ++ (List.range 4).map (resumeRoutine key)
    ++ (match q.fork with | some f => f.fetching.map fun x => execLaneBlockFetchDone key x.1 x.2 | none => [])
    ++ [execPreemptDeclared ⟨key, [], none⟩, execSaveComplete key, execPageParkTimeout key]

/-- What the engines go on with for a saved seat (R252): its copies and gathers, and its stream commands. -/
def savedEvents (i : Nat) (q : Seat) : List (State → Res) :=
  engineEvents (firstSaved + i) q ++ [fun s => enabled "RESPONSE_ARRIVAL" (s.onSeat (firstSaved + i) fun s _ =>
    s.performStream (firstSaved + i))]

def launchEvents (l : Launch) : List (State → Res) :=
  if l.state = .running then
    l.nodes.flatMap (fun n => n.gslots.toList.flatMap fun g => match g with
      | some g => [execBarrierEpisodeComplete l.ctx l.id g.toNat false, execBarrierEpisodeComplete l.ctx l.id g.toNat true]
      | none => [])
      ++ l.nodes.map (fun n => execNodeFinish l.ctx n.addr) ++ [execLaunchComplete l.ctx l.id]
  else []

def ctxEvents (k : Nat) (x : Ctx) : List (State → Res) :=
  (if x.reclaim.isSome then [execReclaimComplete k] else []) ++ x.requests.map fun r => execPageAnswerTimeout k r.node

def streamEvents (k : Nat) (st : Stream) : List (State → Res) :=
  if st.cancels.isEmpty && st.egress.all (·.sent) then [] else [execEgressSend (k / 256) (k % 256)]

def quadEvents (k : Nat) (x : Quad) : List (State → Res) :=
  (match x.power with | .lowering _ _ => [execRetentionLoweringComplete k] | _ => [])
    ++ [execWakeRampComplete k, execHoldRetention k, execHoldGate k]

/-- The quads whose fusion has to change before a ready node, with its co-resident group, finds its seats (R37): empty ones, for
each member its lowest seat. None where a seat is free for every member already, or where even such changes leave one without. -/
def State.fusionFor (s : State) (x : Launch × Node) : List Nat :=
  match (if x.2.kind = 0 then s.bindSet x.1 x.2 else none) with
  | none => []
  | some ms =>
    let (_, seats, left) := s.seatThem ((List.range Config.quads).filter s.quadEmpty) x.1 ms
    if left.isEmpty then
      (seats.map fun y => (quadOfCore (coreOf y.1), y.2.2)).filterMap fun y => if (s.quad y.1).fused = y.2 then none else some y.1
    else []

/-- The changes of fusion that ready nodes wait for. Which empty quad the dispatcher changes, the lowest, and when, only where no
binding and no pre-emption is possible, is DESIGN CHOICE (assumption 74). -/
def State.fusionWanted (s : State) : List (State → Res) :=
  ((inOrder s.devtime s.readyNodes).flatMap s.fusionFor).map execFusionChange

/-- The events that may be due, in the order in which a step looks for one that takes place. -/
def State.events (s : State) : List (State → Res) :=
  s.seats.flatMap (fun x => seatEvents x.1 x.2)
    ++ s.saved.zipIdx.flatMap (fun x => savedEvents x.2 x.1.2.2.2)
    ++ s.cores.flatMap (fun x => [execSeatSwitch x.1, execIssueShareSpent x.1])
    ++ s.launches.flatMap launchEvents
    ++ s.colls.flatMap (fun p => [execCollectivePartStart p.ctx p.desc.collid,
        (fun s => enabled "COLLECTIVE_PART_START" (s.castStep p)), execCollectivePartComplete p.ctx p.desc.collid])
    ++ s.ctxs.flatMap (fun x => ctxEvents x.1 x.2)
    ++ s.streams.flatMap (fun x => streamEvents x.1 x.2)
    ++ s.quads.flatMap (fun x => quadEvents x.1 x.2)
    ++ s.dies.flatMap (fun x => [execWakeRampStart x.1, execBarographFreeze x.1])
    ++ [execDispatchBind] ++ s.preemption.toList.flatMap (fun p => p.2.map fun k => execPreempt k .dispatcher) ++ s.fusionWanted

/-- The first event of a list that takes place. -/
def State.firstEvent (s : State) : List (State → Res) → Option State
  | [] => none
  | f :: rest =>
    match f s with
    | .next s' => some s'
    | _ => s.firstEvent rest

/-- What a seat's queues perform next. One that is being stopped performs none, but for what its engines complete first (R81,
R251). -/
def State.performNext (s : State) (key : Nat) (q : Seat) : Option (State × Bool) :=
  if q.stopping.isNone then s.performOne key else s.endPart key q

/-- A seat's command may be performed as the agenda says: not while the seat is being stopped or has been (R251, R267). -/
def State.mayPerform (s : State) (key : Nat) : Bool := match s.seat key with | some q => q.stopping.isNone | none => false

/-- The first seat whose queues can perform a command. -/
def State.anyPerform (s : State) : List (Nat × Seat) → Option State
  | [] => none
  | (key, q) :: rest =>
    match s.performNext key q with
    | some (s', _) => some s'
    | none => s.anyPerform rest

/-- The first sample that waits to be written; its counts are free values. -/
def State.anySample (s : State) : List (Nat × Seat) → Option State
  | [] => none
  | (key, _) :: rest =>
    let w := fun (k : Nat) => Config.freeWord (s.freeN + k)
    match { s with freeN := s.freeN + 25 }.sampleOut key ((List.range 24).map fun i => (w i).setWidth 16) ((w 24).setWidth 32) with
    | some s' => some s'
    | none => s.anySample rest

/-- A line leaves an L1 that has no room for it: the one that was put there first (R1, assumption 6). -/
def State.makeRoom (s : State) : Option State :=
  match s.cores.find? fun x => decide (Config.l1Lines < x.2.l1.length) with
  | some x => s.firstEvent [execL1Eviction x.1 (x.2.l1.length - 1)]
  | none => none

/-- What the state brings about without an instruction, or `none`. -/
def State.background (s : State) : Option State :=
  match s.makeRoom with
  | some s' => some s'
  | none =>
    match s.anyPerform s.seats with
    | some s' => some s'
    | none =>
      match s.anySample s.seats with
      | some s' => some s'
      | none => s.firstEvent s.events

/-- The device times at which something that the state holds falls due (R34, R37, R42, R248, R283, R284, R431). -/
def State.dueTimes (s : State) : List Nat :=
  s.seats.flatMap (fun x =>
    (match x.2.wait with | some (Wait.deadline t) => [t.toNat] | _ => [])
      ++ (match x.2.park with | some p => [p.since + parkTicks] | none => []))
    ++ s.ctxs.flatMap (fun x => x.2.requests.map fun r => r.since + answerTicks)
    ++ s.cores.flatMap (fun x => if x.2.switching = 0 then [] else [s.devtime + 1])
    ++ s.readyNodes.map (fun x => x.2.readyAt + ((s.devtime - x.2.readyAt) / msTicks + 1) * msTicks)
    ++ s.quads.flatMap (fun x => (match x.2.fusedAt with | some t => [t + fusionTicks] | none => []) ++ match x.2.power with
      | .hold => [x.2.since + holdTicks]
      | .retention => [x.2.since + gateTicks]
      | .ramping => [x.2.since + rampTicks]
      | .resuming => [x.2.since + resumeTicks]
      | _ => [])

/-- How long nothing happens: until the first of them, or one tick. -/
def State.restTicks (s : State) : Nat :=
  match (s.dueTimes.filter fun t => decide (s.devtime < t)).map (· - s.devtime) with
  | [] => 1
  | t :: rest => rest.foldl min t

/-- How much time passes between two rounds of the threads: one tick where a thread can issue, and else until something falls
due. That a round takes one tick is DESIGN CHOICE (assumption 2). -/
def State.roundTicks (s : State) : Nat := if s.threads.any s.canIssue then 1 else s.restTicks

/-- Between the rounds: an event, or else time passes, and the first thread that can issue has its turn. -/
def State.idle (s : State) : Res :=
  match s.background with
  | some s' => .next { s' with thr := s'.threads.find? s'.canIssue }
  | none =>
    let s := s.lapse s.roundTicks
    match s.threads.find? s.canIssue with
    | some t => s.turn t
    | none => .next s

/-! ### Moves -/

/-- A TLB drops what it holds for an address (R152). -/
def State.forget (s : State) (core va : Nat) : State :=
  let keep := fun (e : TlbEntry) => !(decide (e.va ≤ va) && decide (va < e.va + e.size))
  let q := quadOfCore core
  (s.setCore core { s.core core with tlb := (s.core core).tlb.filter keep }).setQuad q
    { s.quad q with tlb := (s.quad q).tlb.filter keep }

/-- One move of the agenda. -/
def State.move (s : State) (m : Move) : Res :=
  match m with
  | .issue key lane => if s.canIssue ⟨key, lane⟩ then s.turn ⟨key, lane⟩ else .fault (.notEnabled "issue")
  | .issueHold key =>
    if s.canIssue ⟨key, none⟩ then onNext ({ s with hold := true }.turn ⟨key, none⟩) fun s => { s with hold := false }
    else .fault (.notEnabled "issue")
  | .perform key pos =>
    match (if s.mayPerform key then s.performAt key pos else none) with
    | some (s, _) => .next s
    | none => .fault (.notEnabled "perform")
  | .performSome key pos els =>
    match (if s.mayPerform key then s.performSome key pos els else none) with
    | some (s, _) => .next s
    | none => .fault (.notEnabled "perform")
  | .hand key pos =>
    match (if s.mayPerform key then s.hand key pos else none) with
    | some s => .next s
    | none => .fault (.notEnabled "perform")
  | .chunk ctx collid =>
    match (s.colls.filter fun p => p.ctx == ctx && p.desc.collid == collid).findSome? s.castStep with
    | some s => .next s
    | none => .fault (.notEnabled "perform")
  | .event i => if Instr.ofThread i then .fault (.notEnabled "event") else exec i s
  | .lapse n => .next (s.lapse n)
  | .forget core va => .next (s.forget core va)

/-- What a packet asks of a package that is stopped or in recovery: it reaches the command rings. -/
def ringPacket (p : Packet) : Bool :=
  match p with
  | .rmaRead _ _ _ | .rmaWrite _ _ _ | .doorbell _ => true
  | _ => false

/-- What a package does that is stopped (R259) or in recovery (R306): it takes commands from the rings and answers them, in recovery
those of the host ports alone. -/
def State.answering (s : State) : Res :=
  match s.agenda with
  | .event i :: rest =>
    match i with
    | .doorbell _ _ | .createCtx _ _ | .map _ _ _ | .loadGraph _ | .launch _ | .queryContext _ _ | .queryLaunch _ _
    | .queryAttestation _ _ _ | .kill _ | .reclaim _ | .streamNew _ | .routine _ _ _ | .page _ _ _ | .dhalt _
    | .connectionSetup _ _ | .hostRmaRead _ _ _ _ | .hostRmaWrite _ _ _ _ =>
      exec i { s with agenda := rest }
    | .packetIngress port _ _ _ p =>
      if ringPacket p && (decide (24 ≤ port) || !s.pkg.recovery) then exec i { s with agenda := rest } else .fault .deviceStopped
    | _ => .fault .deviceStopped
  | _ => .fault .deviceStopped

/-- With nothing on the agenda: the thread whose turn it is, if it can issue. -/
def State.go (s : State) : Res :=
  match s.thr with
  | some t => if s.canIssue t then s.turn t else s.idle
  | none => s.idle

/-- One step of the package. -/
def State.oneStep (s : State) : Res :=
  if s.pkg.stopped || s.pkg.recovery then s.answering
  else
    match s.agenda with
    | m :: rest => { s with agenda := rest }.move m
    | [] => s.go

/-! ### Placing an instruction -/

/-- Where the thread whose turn it is fetches its next word, when that is a plain word of memory. -/
def State.fetchSpot (s : State) : Option Nat :=
  match s.agenda, s.thr with
  | [], some ⟨key, none⟩ =>
    match s.seat key with
    | some q =>
      if !s.pkg.stopped && !s.pkg.recovery && s.canIssueCtl key && q.replay.isNone then
        match s.translate (q.who key) .fetch q.pc with
        | (.ok h, _) => if h.mt = 0 ∧ h.pa % 64 ≤ 60 then some h.pa else none
        | _ => none
      else none
    | none => none
  | _, _ => none

/-- The node, the launch and the context of a program that is placed: the first 64 GiB of memory under their own addresses,
and the program at address 0x10000. -/
def placedNode : Node where
  addr := 0x20000
  kind := 0
  ctl := 0x20
  entry := 0x10000
  succ := 0
  gslots := Vector.replicate 4 none
  args := Vector.replicate 8 0
  opnds := Vector.replicate 8 0
  state := .bound
  readyAt := 0
  boundPrio := 0
  unit := 0
  released := true
  regs := none
  blocked := none
  image := none

def placedLaunch : Launch := ⟨0, 1, 0, 0, 0, 0, .running, [placedNode], List.replicate 256 0, [], none, [], []⟩

/-- A level-0 table at 0, a level-1 table at 0x4000, and in it a leaf of 64 GiB that grants everything (R140, R141). -/
def placedTables (m : List Host.Cell) : List Host.Cell := memPut (memPut m 0 (leBytes 8 0x4001)) 0x4000 (leBytes 8 0x3F1)

/-- The package with a program placed: booted, its one context and node set up, its seat bound to core 0 and its turn. -/
def State.place (s : State) : State :=
  let c := freshCtx 0 1 0
  let q := startSeat placedLaunch placedNode c 0 s.binds
  let s := s.tlbDrop fun e => ctxOfCin e.cin == 0
  { s with
    mem := placedTables s.mem
    pkg := { s.pkg with booted := true, recovery := false, stopped := false, lg := 0 }
    ctxs := mapInsert s.ctxs 0 { c with nextLaunch := 2 }
    launches := placedLaunch :: s.launches.filter fun l => l.ctx ≠ 0
    seats := mapInsert (mapErase s.seats 1) 0 q
    cores := mapSet {} s.cores 0 { s.core 0 with res := .single, holder := 0, held := 0, switching := 0, l1 := [] }
    quads := mapSet {} s.quads 0 { s.quad 0 with power := .on, fused := false }
    thr := some ⟨0, none⟩
    hold := false
    agenda := [] }

/-- An instruction's word stored where the next step fetches it. -/
def State.placeWord (s : State) (w : Nat) : State :=
  match s.fetchSpot with
  | some pa => s.homePut pa (leBytes 4 w)
  | none => s.place.homePut 0x10000 (leBytes 4 w)

end Sys2Proof.Machine
end

