-- ==== Sys2Proof/Machine/Step.lean ====
section
/-!
DEFINITION. Sys2Proof/Machine/Step.lean: one step of the package, and an instruction placed where the next step fetches.
-/
namespace Sys2Proof.Machine

/-- One step: a move of the agenda, an instruction of the thread whose turn it is, or what the state brings about. -/
def step (s : State) : Host.Outcome State Fault Refusal := s.oneStep

/-- Every instruction is one word of 32 bits (R309): `nbits` is 32. -/
def State.withFetchWord (s : State) (_nbits w : Nat) : State := s.placeWord w

end Sys2Proof.Machine
end

