-- ==== Sys2Proof/Safety.lean ====
section
/-!
DEFINITION. Sys2Proof/Safety.lean: what the statements mean by a run, and by a fact that every step keeps.
-/
namespace Sys2Proof

/-- A state answers a next state. -/
def Machine.State.moves (s s' : Machine.State) : Prop := Machine.step s = .next s'

/-- States that steps lead to from a state. -/
inductive Reaches : Machine.State → Machine.State → Prop where
  | refl (s : Machine.State) : Reaches s s
  | step {s t u : Machine.State} : Reaches s t → t.moves u → Reaches s u

/-- A property that every step keeps, from every state that has it. -/
def Kept (p : Machine.State → Prop) : Prop := ∀ s s', p s → Machine.step s = .next s' → p s'

/-- A kept property holds of every state that a state with it reaches. -/
theorem Kept.reaches {p : Machine.State → Prop} (h : Kept p) {s t : Machine.State} (r : Reaches s t) (hs : p s) : p t := by
  induction r with
  | refl => exact hs
  | step _ m ih => exact h _ _ ih m

namespace Machine

/-- Nothing stands beside the command a seat issues: no queued command, no fork, no gather in the background, no page awaited,
and room in the operand log (R202, R244). -/
structure Seat.Idle (q : Seat) : Prop where
  pend : q.pend = []
  fork : q.fork = none
  gathers : q.gathers = []
  park : q.park = none
  room : q.logHeld < 15

end Machine
end Sys2Proof
end

