-- ==== Sys2Proof/Certificates/Slice0/Obligations.lean ====
section
/-!
DEFINITION. Sys2Proof/Certificates/Slice0/Obligations.lean: the statements about the machine. `Claims` holds the words they
share: whose instruction it is, what an instruction leaves unchanged, and results in whole numbers.
-/
namespace Sys2Proof.Claims
open Sys2Proof.Machine

/-! ### Whose instruction -/

/-- The control thread of seat `key` is the thread whose instruction is executed. -/
structure Ctl (s : State) (key : Nat) (q : Seat) : Prop where
  thr : s.thr = some ⟨key, none⟩
  seat : s.seat key = some q

/-- A virtual processor of seat `key` is. -/
structure Lane (s : State) (key lane : Nat) (q : Seat) (v : Vp) : Prop where
  thr : s.thr = some ⟨key, some lane⟩
  seat : s.seat key = some q
  vp : q.vp lane = some v

/-- No queued command is still to write one of the registers (R209, R228, R376). -/
def Settled (q : Seat) (l : List Reg) : Prop := ∀ r ∈ l, q.busy r = false

/-! ### Frames of one seat -/

/-- The instruction writes `w` to register `d`, moves to the next position, and changes nothing else of the package. -/
def Sets (s : State) (key : Nat) (q : Seat) (i : Instr) (d : Reg) (w : Word) : Prop :=
  ∃ q', exec i s = .next (s.setSeat key q') ∧ q' = { q.advance with s := q'.s } ∧
    ∀ r, q'.reg r = if r = d ∧ r ≠ 0 then w else q.reg r

/-- The control thread goes on at `a`, and nothing else of the package changes: a wait is over, and the last command is no
chain for the next instruction (R42, R72). -/
def Goes (s : State) (key : Nat) (q : Seat) (i : Instr) (a : Word) : Prop :=
  exec i s = .next (s.setSeat key { q with pc := a, byp := none, noWatch := false, wait := none })

/-- The control thread moves to the next position, and nothing else of the package changes. -/
def Passes (s : State) (key : Nat) (q : Seat) (i : Instr) : Prop := exec i s = .next (s.setSeat key q.advance)

/-- A lane register of every virtual processor. -/
def lanes (q : Seat) : Nat → Reg → BitVec 32 := fun l r => q.laneReg l r

/-- The instruction that ERET resumed after WATCH in a virtual processor is past once that processor moves on (R296). -/
def past (q : Seat) (lane : Nat) : Option Nat := if q.noWatchVp = some lane then none else q.noWatchVp

/-- Of an outstanding fork the virtual processor of one lane becomes `v`, and nothing else of it changes. -/
def OnlyVp (q q' : Seat) (lane : Nat) (v : Vp) : Prop :=
  (∃ vps, q'.fork = q.fork.map fun f => { f with vps := vps }) ∧ q'.vp lane = some v ∧ ∀ l, l ≠ lane → q'.vp l = q.vp l

/-- Every cell of the plane keeps its bits, but for those of the lane registers that `p` names; l0 has none to write (R46). -/
def OnlyLanes (q q' : Seat) (lane : Nat) (p : Reg → Prop) : Prop :=
  ∀ k, (∀ r, p r → r ≠ 0 → k ≠ q.laneCell lane r) → mapGet 0#32 q'.plane k = mapGet 0#32 q.plane k

/-- The virtual processor writes `w` to lane register `d` and moves on; every other cell of the plane, every other virtual
processor and the rest of the fork stay, and so does everything else of the seat and of the package. -/
def SetsLane (s : State) (key lane : Nat) (q : Seat) (v : Vp) (i : Instr) (d : Reg) (w : BitVec 32) : Prop :=
  ∃ q', exec i s = .next (s.setSeat key q') ∧ q' = { q with plane := q'.plane, fork := q'.fork, noWatchVp := past q lane } ∧
    OnlyVp q q' lane { v with pc := v.pc + 4 } ∧ OnlyLanes q q' lane (· = d) ∧
    ∀ l r, l < 256 → q'.laneReg l r = if l = lane ∧ r = d ∧ r ≠ 0 then w else q.laneReg l r

/-- The virtual processor goes on at `a`; nothing else changes. -/
def GoesLane (s : State) (key lane : Nat) (q : Seat) (v : Vp) (i : Instr) (a : Word) : Prop :=
  ∃ q', exec i s = .next (s.setSeat key q') ∧ q' = { q with fork := q'.fork, noWatchVp := past q lane } ∧
    OnlyVp q q' lane { v with pc := a }

/-! ### Results in whole numbers, at a width of n bits -/

/-- The integer `v` modulo 2^n. -/
def low (n : Nat) (v : Int) : BitVec n := BitVec.ofInt n v

/-- A quotient rounded toward zero, and all ones for a divisor of 0. -/
def quot (n : Nat) (x y : Int) : BitVec n := if y = 0 then BitVec.allOnes n else low n (x.tdiv y)
/-- The remainder that goes with it, which has the dividend's sign; the dividend for a divisor of 0. -/
def rest (n : Nat) (x y : Int) : BitVec n := if y = 0 then low n x else low n (x.tmod y)

/-- 1 where a relation holds, and 0 otherwise. -/
def flag (n : Nat) (p : Prop) [Decidable p] : BitVec n := if p then 1 else 0

/-- Zero bits above the highest set bit. -/
def zerosAbove (n : Nat) (x : BitVec n) : Nat := ((List.range n).map fun k => decide (x.toNat < 2 ^ k)).count true

/-- Set bits. -/
def onesIn (n : Nat) (x : BitVec n) : Nat := ((List.range n).map fun k => x.getLsbD k).count true

/-- An instruction of a three-register form of Table 16.3, with its result at a width of n bits. -/
structure Form where
  instr : Reg → Reg → Reg → Instr
  out : (n : Nat) → BitVec n → BitVec n → BitVec n

/-- The arithmetic forms (R313, R380, R381, R352, R390). -/
def arithForms : List Form :=
  [⟨.add, fun n x y => low n (x.toInt + y.toInt)⟩,
   ⟨.sub, fun n x y => low n (x.toInt - y.toInt)⟩,
   ⟨.mul, fun n x y => low n (x.toInt * y.toInt)⟩,
   ⟨.mulh, fun n x y => low n (x.toInt * y.toInt / 2 ^ n)⟩,
   ⟨.mulhU, fun n x y => low n ((x.toNat * y.toNat / 2 ^ n : Nat) : Int)⟩,
   ⟨.div, fun n x y => quot n x.toInt y.toInt⟩,
   ⟨.divU, fun n x y => quot n x.toNat y.toNat⟩,
   ⟨.rem, fun n x y => rest n x.toInt y.toInt⟩,
   ⟨.remU, fun n x y => rest n x.toNat y.toNat⟩]

/-- The forms on bits, the shifts and the comparisons (R313, R398, R400). -/
def bitForms : List Form :=
  [⟨.and, fun _ x y => x &&& y⟩,
   ⟨.or, fun _ x y => x ||| y⟩,
   ⟨.xor, fun _ x y => x ^^^ y⟩,
   ⟨.shl, fun n x y => low n (x.toNat * 2 ^ (y.toNat % n) : Nat)⟩,
   ⟨.shr, fun n x y => low n (x.toNat / 2 ^ (y.toNat % n) : Nat)⟩,
   ⟨.sra, fun n x y => low n (x.toInt / 2 ^ (y.toNat % n))⟩,
   ⟨.slt, fun n x y => flag n (x.toInt < y.toInt)⟩,
   ⟨.sltU, fun n x y => flag n (x.toNat < y.toNat)⟩,
   ⟨.min, fun n x y => low n (min x.toInt y.toInt)⟩,
   ⟨.minU, fun n x y => low n (min x.toNat y.toNat : Nat)⟩,
   ⟨.max, fun n x y => low n (max x.toInt y.toInt)⟩,
   ⟨.maxU, fun n x y => low n (max x.toNat y.toNat : Nat)⟩]

/-- An immediate form of R314: the instruction, its second operand at a width of n bits, and its result. -/
structure ImmForm where
  instr : Reg → Reg → BitVec 16 → Instr
  signed : Bool
  out : (n : Nat) → BitVec n → BitVec n → BitVec n

/-- The immediate forms. -/
def immForms : List ImmForm :=
  [⟨.addImm, true, fun n x y => low n (x.toInt + y.toInt)⟩,
   ⟨.andImm, false, fun _ x y => x &&& y⟩,
   ⟨.orImm, false, fun _ x y => x ||| y⟩,
   ⟨.xorImm, true, fun _ x y => x ^^^ y⟩,
   ⟨.sltImm, true, fun n x y => flag n (x.toInt < y.toInt)⟩,
   ⟨.sltUImm, true, fun n x y => flag n (x.toNat < y.toNat)⟩]

/-- A shift by an immediate amount: {h, k} in 64 bits, and k alone in 32 (R398). -/
structure ShiftForm where
  instr : Reg → Reg → BitVec 5 → Bit → Instr
  out : (n : Nat) → BitVec n → Nat → BitVec n

def shiftForms : List ShiftForm :=
  [⟨.shlI, fun n x k => low n (x.toNat * 2 ^ k : Nat)⟩,
   ⟨.shrI, fun n x k => low n (x.toNat / 2 ^ k : Nat)⟩,
   ⟨.sraI, fun n x k => low n (x.toInt / 2 ^ k)⟩]

end Sys2Proof.Claims

open Sys2Proof Sys2Proof.Machine Sys2Proof.Claims

/-! ### The SALU group -/

/-- R313, R339, R403, R380, R381, R352, R390: every arithmetic form of the SALU completes in the control thread, with the result of Table 16.3
computed in whole numbers; it writes sd, discards a write to s0, and changes nothing else but the position. -/
def Sys2Proof.Claims.ScalarArithmeticRule : Prop :=
  ∀ s key q, Ctl s key q → ∀ f ∈ arithForms, ∀ d a b, Settled q [d, a, b] →
    Sets s key q (f.instr d a b) d (f.out 64 (q.reg a) (q.reg b))

/-- R313, R340, R382, R432, R398, R400, R377: the forms on bits, the shifts, the comparisons, minima and maxima likewise. -/
def Sys2Proof.Claims.ScalarBitsRule : Prop :=
  ∀ s key q, Ctl s key q → ∀ f ∈ bitForms, ∀ d a b, Settled q [d, a, b] →
    Sets s key q (f.instr d a b) d (f.out 64 (q.reg a) (q.reg b))

/-- R314, R398, R374: the immediate forms with the immediate extended as each says, the shifts by an amount in the word, and
LUI. -/
def Sys2Proof.Claims.ScalarImmediatesRule : Prop :=
  ∀ s key q, Ctl s key q → ∀ d a, Settled q [d, a] →
    (∀ f ∈ immForms, ∀ i, Sets s key q (f.instr d a i) d
      (f.out 64 (q.reg a) (if f.signed then BitVec.ofInt 64 i.toInt else BitVec.ofNat 64 i.toNat))) ∧
    (∀ f ∈ shiftForms, ∀ k h, Sets s key q (f.instr d a k h) d (f.out 64 (q.reg a) (32 * h.toNat + k.toNat))) ∧
    ∀ i, Sets s key q (.lui d i) d (low 64 (i.toInt * 2 ^ 16))

/-- R345, R385, R396: CLZ counts the zero bits above the highest one, POPC the bits that are 1, and SEL chooses by the old
value of its destination. -/
def Sys2Proof.Claims.ScalarCountsRule : Prop :=
  ∀ s key q, Ctl s key q → ∀ d a b, Settled q [d, a, b] →
    Sets s key q (.clz d a) d (BitVec.ofNat 64 (zerosAbove 64 (q.reg a))) ∧
    Sets s key q (.popc d a) d (BitVec.ofNat 64 (onesIn 64 (q.reg a))) ∧
    Sets s key q (.sel d a b) d (if q.reg d ≠ 0 then q.reg a else q.reg b)

/-- R47, Table 2.6: in a virtual processor every form of the SALU works on 32-bit lane registers, with immediates
sign-extended to 32 bits and shift amounts of 5 bits; l0 keeps its 0, and no other lane's register, no other
cell of the plane, no other virtual processor and nothing else of the fork changes. -/
def Sys2Proof.Claims.LaneScalarsRule : Prop :=
  ∀ s key lane q v, Lane s key lane q v → lane < 256 → mapWf 0#32 q.plane = true → ∀ d a b,
    (∀ f ∈ arithForms ++ bitForms, SetsLane s key lane q v (f.instr d a b) d (f.out 32 (q.laneReg lane a) (q.laneReg lane b))) ∧
    (∀ f ∈ immForms, ∀ i, SetsLane s key lane q v (f.instr d a i) d (f.out 32 (q.laneReg lane a) (BitVec.ofInt 32 i.toInt))) ∧
    (∀ f ∈ shiftForms, ∀ k h, SetsLane s key lane q v (f.instr d a k h) d (f.out 32 (q.laneReg lane a) k.toNat)) ∧
    (∀ i, SetsLane s key lane q v (.lui d i) d (low 32 (i.toInt * 2 ^ 16))) ∧
    SetsLane s key lane q v (.clz d a) d (BitVec.ofNat 32 (zerosAbove 32 (q.laneReg lane a))) ∧
    SetsLane s key lane q v (.popc d a) d (BitVec.ofNat 32 (onesIn 32 (q.laneReg lane a))) ∧
    SetsLane s key lane q v (.sel d a b) d (if q.laneReg lane d ≠ 0 then q.laneReg lane a else q.laneReg lane b)

/-- Every instruction of the SALU, in the control thread and in a virtual processor: its result, and nothing else but the position
changes (R313, R314, R47). -/
def Obligations.ScalarResults : Prop :=
  Claims.ScalarArithmeticRule ∧ Claims.ScalarBitsRule ∧ Claims.ScalarImmediatesRule ∧ Claims.ScalarCountsRule ∧ Claims.LaneScalarsRule

/-! ### Branches, calls and STRIP -/

namespace Sys2Proof.Claims

/-- A conditional branch on two registers, with its relation at a width of n bits (R316). -/
structure BranchForm where
  instr : Reg → Reg → BitVec 16 → Instr
  holds : (n : Nat) → BitVec n → BitVec n → Bool

def branchForms : List BranchForm :=
  [⟨.beq, fun _ x y => decide (x.toNat = y.toNat)⟩,
   ⟨.bne, fun _ x y => decide (x.toNat ≠ y.toNat)⟩,
   ⟨.blt, fun _ x y => decide (x.toInt < y.toInt)⟩,
   ⟨.bge, fun _ x y => decide (y.toInt ≤ x.toInt)⟩,
   ⟨.bltU, fun _ x y => decide (x.toNat < y.toNat)⟩,
   ⟨.bgeU, fun _ x y => decide (y.toNat ≤ x.toNat)⟩]

/-- The address of the branch plus four times its offset. -/
def away {n : Nat} (pc : Word) (o : BitVec n) : Word := pc + low 64 (4 * o.toInt)

/-- A branch that is taken when `c` holds. -/
def Chooses (s : State) (key : Nat) (q : Seat) (i : Instr) (c : Prop) (a : Word) : Prop :=
  (c → Goes s key q i a) ∧ (¬ c → Passes s key q i)

/-- The seat takes a trap of the instruction the control thread is at (R241, R245): `State.takeTrap`, which a statement of
its own describes. -/
def Traps (s : State) (key : Nat) (i : Instr) (code detail : BitVec 8) (value pc : Word) : Prop :=
  exec i s = .next (s.takeTrap key ⟨code, detail, value, pc⟩ false false)

/-- Bits 0 to n − 1 of a mask. -/
def someSet (m : Mask) (n : Nat) : Prop := ∃ k, k < n ∧ m.getLsbD k = true
def allSet (m : Mask) (n : Nat) : Prop := ∀ k, k < n → m.getLsbD k = true

end Sys2Proof.Claims

/-- R341, R316, R344, R342, R367, R368: in the control thread a conditional branch goes to PC + 4 × offset where its relation
holds and to the next position otherwise; BTAG tests a snapshot of TAGS and BMASK bits 0 to VL − 1 of a mask; JMP always
branches; JR goes to an address that is a multiple of 4 and raises ALIGN for any other. -/
def Sys2Proof.Claims.BranchesRule : Prop :=
  ∀ s key q, Ctl s key q →
    (∀ f ∈ branchForms, ∀ a b o, Settled q [a, b] →
      Chooses s key q (f.instr a b o) (f.holds 64 (q.reg a) (q.reg b) = true) (away q.curPc o)) ∧
    (∀ a o, Settled q [a] →
      Chooses s key q (.btag a 0 o) (q.tags &&& q.reg a ≠ 0) (away q.curPc o) ∧
      Chooses s key q (.btag a 1 o) (q.tags &&& q.reg a = q.reg a) (away q.curPc o) ∧
      Chooses s key q (.btag a 2 o) (q.tags &&& q.reg a = 0) (away q.curPc o)) ∧
    (∀ m o, q.maskBusy m = false → q.vlBusy = false →
      Chooses s key q (.bmask m 0 o) (someSet (q.mask m) q.sr.vl) (away q.curPc o) ∧
      Chooses s key q (.bmask m 1 o) (¬ someSet (q.mask m) q.sr.vl) (away q.curPc o) ∧
      Chooses s key q (.bmask m 2 o) (allSet (q.mask m) q.sr.vl) (away q.curPc o)) ∧
    (∀ o, Goes s key q (.jmp o) (away q.curPc o)) ∧
    (∀ a, Settled q [a] →
      ((q.reg a).toNat % 4 = 0 → Goes s key q (.jr a) (q.reg a)) ∧
      ((q.reg a).toNat % 4 ≠ 0 → Traps s key (.jr a) codeAlign 0 (q.reg a) q.curPc))

/-- R367, R393, R250: JAL pushes PC + 4 on a return stack of 16 entries and branches; RET pops and goes to the popped
address. A full stack first spills its 8 oldest entries at RSP.ADDR × 64 and an empty one refills 8 from RSP.ADDR × 64 − 64,
where those addresses translate and no watchpoint fires; a spill removes the line it writes from the strip buffers (R186). A
spill or refill that faults raises STACKSPILL with the address, one that a watchpoint sees raises WATCH (R295), and both change
no stack. A popped address that is not a multiple of 4 raises ALIGN, after a refill too, and the pop stands. That the 64 bytes
translate as one vector access is assumption 42. -/
def Sys2Proof.Claims.CallsAndReturnsRule : Prop :=
  ∀ s key q, Ctl s key q → q.pend = [] →
    (∀ o : BitVec 26, q.rstack.length < 16 →
      exec (.jal o) s = .next (s.setSeat key
        { q with pc := away q.curPc o, byp := none, noWatch := false, wait := none, rstack := q.rstack ++ [q.curPc + 4] })) ∧
    (∀ l ra, q.rstack = l ++ [ra] →
      (ra.toNat % 4 = 0 → exec .ret s = .next (s.setSeat key
        { q with pc := ra, byp := none, noWatch := false, wait := none, rstack := l })) ∧
      (ra.toNat % 4 ≠ 0 → exec .ret s = .next
        ((s.setSeat key { q with rstack := l }).takeTrap key ⟨codeAlign, 0, ra, q.curPc⟩ false false))) ∧
    (∀ (o : BitVec 26) h s', 16 ≤ q.rstack.length → s.translate (q.who key) .vstore q.spillAddr = (.ok h, s') →
      q.watchHit q.spillAddr.toNat 64 true = none →
      exec (.jal o) s = .next ((s'.writeRun (coreOf key) q.cin h (q.rstack.take 8)).setSeat key
        { q.dropStrip h.mt h.pa with
          pc := away q.curPc o, byp := none, noWatch := false, wait := none
          rstack := q.rstack.drop 8 ++ [q.curPc + 4], sr := { q.sr with rsp := q.sr.rsp + 1 } })) ∧
    (∀ (o : BitVec 26) h s' k, 16 ≤ q.rstack.length → s.translate (q.who key) .vstore q.spillAddr = (.ok h, s') →
      q.watchHit q.spillAddr.toNat 64 true = some k →
      Traps s key (.jal o) codeWatch (BitVec.ofNat 8 (k + 1)) q.spillAddr q.curPc) ∧
    (∀ (o : BitVec 26) f s', 16 ≤ q.rstack.length → s.translate (q.who key) .vstore q.spillAddr = (.fault f, s') →
      Traps s key (.jal o) codeStack 0 q.spillAddr q.curPc) ∧
    (∀ f s', q.rstack = [] → s.translate (q.who key) .vload (q.spillAddr - 64) = (.fault f, s') →
      Traps s key .ret codeStack 0 (q.spillAddr - 64) q.curPc) ∧
    (∀ h s' k, q.rstack = [] → s.translate (q.who key) .vload (q.spillAddr - 64) = (.ok h, s') →
      q.watchHit (q.spillAddr - 64).toNat 64 false = some k →
      Traps s key .ret codeWatch (BitVec.ofNat 8 (k + 1)) (q.spillAddr - 64) q.curPc) ∧
    (∀ h s' l ra e s'', q.rstack = [] → s.translate (q.who key) .vload (q.spillAddr - 64) = (.ok h, s') →
      q.watchHit (q.spillAddr - 64).toNat 64 false = none →
      s'.readRun (coreOf key) q.cin h 8 = .ok (l ++ [ra], e, s'') → ra.toNat % 4 = 0 →
      exec .ret s = .next (s''.setSeat key
        { q with pc := ra, byp := none, noWatch := false, wait := none, rstack := l, sr := { q.sr with rsp := q.sr.rsp - 1 }
                 status := { q.status with exp := q.status.exp || e } })) ∧
    (∀ h s' l ra e s'', q.rstack = [] → s.translate (q.who key) .vload (q.spillAddr - 64) = (.ok h, s') →
      q.watchHit (q.spillAddr - 64).toNat 64 false = none →
      s'.readRun (coreOf key) q.cin h 8 = .ok (l ++ [ra], e, s'') → ra.toNat % 4 ≠ 0 →
      exec .ret s = .next ((s''.setSeat key
        { q with rstack := l, sr := { q.sr with rsp := q.sr.rsp - 1 }, status := { q.status with exp := q.status.exp || e } }).takeTrap
          key ⟨codeAlign, 0, ra, q.curPc⟩ false false)) ∧
    ∀ h s' f, q.rstack = [] → s.translate (q.who key) .vload (q.spillAddr - 64) = (.ok h, s') →
      q.watchHit (q.spillAddr - 64).toNat 64 false = none → s'.readRun (coreOf key) q.cin h 8 = .error f →
      Traps s key .ret codeStack 0 (q.spillAddr - 64) q.curPc

namespace Sys2Proof.Claims

/-- Where the k-th spill of a virtual processor's divergence stack goes: 64-byte blocks of its area at DVSP + 512 × lane (R48). -/
def spillOf (q : Seat) (lane k : Nat) : Word := (q.sr.dvsp ++ 0#9) + BitVec.ofNat 64 (512 * lane + 64 * k)

/-- The seat as the watchpoints of a virtual processor's access see it: they stay silent for the processor whose instruction
ERET resumed after WATCH (R296). -/
def watchedIn (q : Seat) (lane : Nat) : Seat := { q with noWatch := q.noWatchVp == some lane }

/-- The fork with the virtual processor of a lane as `v`. -/
def withVp (q : Seat) (lane : Nat) (v : Vp) : Seat :=
  { q with fork := q.fork.map fun f => { f with vps := mapInsert f.vps lane v } }

/-- The virtual processor goes on as `v`, with `chan` in place of the copy channels and STATUS.EXP set where a byte had expired;
`t` is the package after its access. -/
def Diverges (s : State) (key lane : Nat) (q : Seat) (i : Instr) (v : Vp) (chan : Vector (Option Active) 4) (expired : Bool)
    (t : State) : Prop :=
  ∃ q', exec i s = .next (t.setSeat key q') ∧ OnlyVp q q' lane v ∧
    q' = { q with fork := q'.fork, chan := chan, noWatchVp := past q lane
                  status := { q.status with exp := q.status.exp || expired } }

end Sys2Proof.Claims

/-- R48, R393, R295: a JAL that finds all 8 entries of a virtual processor's divergence stack taken spills them, the oldest
lowest, to the next 64 bytes of its area, and pushes on the empty stack; a RET that finds the stack empty refills the 8 it
spilled last. A ninth spill would pass the end of the area: it raises STACKSPILL, as one does that faults; one that a watchpoint
sees raises WATCH. A popped address that is not a multiple of 4 raises ALIGN, and the pop stands. That the 64 bytes translate
as one vector access, and that a spill is a store which watchpoints see, is assumption 42. -/
def Sys2Proof.Claims.LaneCallsRule : Prop :=
  ∀ s key lane q v, Lane s key lane q v → q.pend = [] →
    (∀ o : BitVec 26, 8 ≤ v.stack.length → 8 ≤ v.spilled →
      exec (.jal o) s = .next (s.vpTrap key lane ⟨codeStack, 0, spillOf q lane v.spilled, v.pc⟩)) ∧
    (∀ (o : BitVec 26), 8 ≤ v.stack.length → v.spilled < 8 →
      let a := spillOf q lane v.spilled
      (∀ h s', s.translate (q.who key) .vstore a = (.ok h, s') → (watchedIn q lane).watchHit a.toNat 64 true = none →
        Diverges s key lane q (.jal o) { v with pc := away v.pc o, stack := [v.pc + 4], spilled := v.spilled + 1 }
          (q.dropStrip h.mt h.pa).chan false (s'.writeRun (coreOf key) q.cin h v.stack)) ∧
      (∀ h s' k, s.translate (q.who key) .vstore a = (.ok h, s') → (watchedIn q lane).watchHit a.toNat 64 true = some k →
        exec (.jal o) s = .next (s'.vpTrap key lane ⟨codeWatch, BitVec.ofNat 8 (k + 1), a, v.pc⟩)) ∧
      ∀ f s', s.translate (q.who key) .vstore a = (.fault f, s') →
        exec (.jal o) s = .next (s.vpTrap key lane ⟨codeStack, 0, a, v.pc⟩)) ∧
    (∀ l ra, v.stack = l ++ [ra] → ra.toNat % 4 ≠ 0 →
      exec .ret s = .next ((s.setSeat key (withVp q lane { v with stack := l })).vpTrap key lane ⟨codeAlign, 0, ra, v.pc⟩)) ∧
    (v.stack = [] → 0 < v.spilled →
      let a := spillOf q lane (v.spilled - 1)
      (∀ h s', s.translate (q.who key) .vload a = (.ok h, s') →
        (∀ l ra e s'', (watchedIn q lane).watchHit a.toNat 64 false = none →
          s'.readRun (coreOf key) q.cin h 8 = .ok (l ++ [ra], e, s'') →
          (ra.toNat % 4 = 0 →
            Diverges s key lane q .ret { v with pc := ra, stack := l, spilled := v.spilled - 1 } q.chan e s'') ∧
          (ra.toNat % 4 ≠ 0 → exec .ret s = .next ((s''.setSeat key
            { withVp q lane { v with stack := l, spilled := v.spilled - 1 } with
              status := { q.status with exp := q.status.exp || e } }).vpTrap key lane ⟨codeAlign, 0, ra, v.pc⟩))) ∧
        (∀ f, (watchedIn q lane).watchHit a.toNat 64 false = none → s'.readRun (coreOf key) q.cin h 8 = .error f →
          exec .ret s = .next (s'.vpTrap key lane ⟨codeStack, 0, a, v.pc⟩)) ∧
        ∀ k, (watchedIn q lane).watchHit a.toNat 64 false = some k →
          exec .ret s = .next (s'.vpTrap key lane ⟨codeWatch, BitVec.ofNat 8 (k + 1), a, v.pc⟩)) ∧
      ∀ f s', s.translate (q.who key) .vload a = (.fault f, s') →
        exec .ret s = .next (s.vpTrap key lane ⟨codeStack, 0, a, v.pc⟩))

/-- JAL and RET, in the control thread and in a virtual processor: the return stack, its spills and refills.
The model's choices that it rests on: assumption 42. -/
def Obligations.Calls : Prop :=
  Claims.CallsAndReturnsRule ∧ Claims.LaneCallsRule

/-- R47, R48, R368, Table 2.6: in a virtual processor the branches compare 32-bit lane registers, JAL pushes on the lane's own
divergence stack of 8 entries and RET pops it; a RET with nothing pushed, and a JR, raise ILLOP there. -/
def Sys2Proof.Claims.LaneBranchesRule : Prop :=
  ∀ s key lane q v, Lane s key lane q v →
    (∀ f ∈ branchForms, ∀ a b o,
      GoesLane s key lane q v (f.instr a b o)
        (if f.holds 32 (q.laneReg lane a) (q.laneReg lane b) then away v.pc o else v.pc + 4)) ∧
    (∀ o, GoesLane s key lane q v (.jmp o) (away v.pc o)) ∧
    (∀ o : BitVec 26, v.stack.length < 8 →
      Diverges s key lane q (.jal o) { v with pc := away v.pc o, stack := v.stack ++ [v.pc + 4] } q.chan false s) ∧
    (∀ l ra, v.stack = l ++ [ra] → ra.toNat % 4 = 0 →
      Diverges s key lane q .ret { v with pc := ra, stack := l } q.chan false s) ∧
    (∀ w, encode .ret = some w → v.stack = [] → v.spilled = 0 →
      exec .ret s = .next (s.vpTrap key lane ⟨codeIllop, 0, w.setWidth 64, v.pc⟩)) ∧
    ∀ a w, encode (.jr a) = some w → exec (.jr a) s = .next (s.vpTrap key lane ⟨codeIllop, 0, w.setWidth 64, v.pc⟩)

/-- Every branch and jump, in the control thread and in a virtual processor. -/
def Obligations.Branching : Prop :=
  Claims.BranchesRule ∧ Claims.LaneBranchesRule

/-- R402, R321: STRIP subtracts the granted length g = VL from s[sa], adds g × SPF.F to each pointer register that its mask
names, adds g to STRIPBASE, moves the prefetch transfers on, then sets VL := max(0, min(s[sa], MAXVL)) and branches while
s[sa] is positive. With no transfer at work it changes nothing else; it waits while the end of a transfer cannot write its
descriptor (R162). -/
def Obligations.Strip : Prop :=
  ∀ s key q, Ctl s key q → ∀ a (p : BitVec 4) (o : BitVec 17), q.vlBusy = false → Settled q [a, 24, 25, 26, 27] →
    ∃ q', q' = { q with s := q'.s, sr := { q.sr with stripbase := q.sr.stripbase + BitVec.ofNat 64 q.sr.vl } } ∧
      (∀ r, q'.reg r = if r = 0 then 0 else
        q.reg r - (if r = a then BitVec.ofNat 64 q.sr.vl else 0)
          + low 64 (if 24 ≤ r.toNat ∧ r.toNat ≤ 27 ∧ p.getLsbD (r.toNat - 24) = true then
              (q.sr.vl : Int) * (q.sr.spf.extractLsb' (8 * (r.toNat - 24)) 8).toInt else 0)) ∧
      (∀ t, (s.setSeat key q').stripStep key q.sr.vl = some t → exec (.strip a p o) s = .next (t.mapSeat key fun x =>
        let y := { x with sr := { x.sr with vl := (max 0 (min (q'.reg a).toInt x.sr.maxvl)).toNat } }
        if 0 < (q'.reg a).toInt then { y with pc := away q.curPc o, byp := none, noWatch := false, wait := none }
        else y.advance)) ∧
      ((s.setSeat key q').stripStep key q.sr.vl = none → exec (.strip a p o) s = .next (s.stall key)) ∧
      ((∀ ch : Fin 4, q.chan[ch] = none) → (s.setSeat key q').stripStep key q.sr.vl = some (s.setSeat key q'))

/-! ### Scalar loads, stores and atomics -/

namespace Sys2Proof.Claims

/-- The control thread, where nothing stands beside the command it issues, in a step that performs what it issues. -/
structure Clear (s : State) (key : Nat) (q : Seat) : Prop extends Ctl s key q where
  idle : q.Idle
  hold : s.hold = false

/-- A 16-bit offset, sign-extended. -/
def plus (a : Word) (i : BitVec 16) : Word := a + BitVec.ofInt 64 i.toInt

/-- A value of n bytes in 64 bits, with or without its sign (R315). -/
def widened (n : Nat) (signed : Bool) (l : List Byte) : Word :=
  if signed then BitVec.ofInt 64 (BitVec.ofNat (8 * n) (leNat l)).toInt else BitVec.ofNat 64 (leNat l)

structure LoadForm where
  instr : Reg → Reg → BitVec 16 → Instr
  bytes : Nat
  signed : Bool
  /-- what protection sees: device space admits LD.w, and not LD.wu (Table 6.4) -/
  kind : AKind

def loadForms : List LoadForm :=
  [⟨.ldB, 1, true, .load 1⟩, ⟨.ldBu, 1, false, .load 1⟩, ⟨.ldH, 2, true, .load 2⟩, ⟨.ldHu, 2, false, .load 2⟩,
   ⟨.ldW, 4, true, .load 4⟩, ⟨.ldWu, 4, false, .loadWu⟩, ⟨.ldD, 8, false, .load 8⟩]

structure StoreForm where
  instr : Reg → Reg → BitVec 16 → Instr
  bytes : Nat

def storeForms : List StoreForm := [⟨.stB, 1⟩, ⟨.stH, 2⟩, ⟨.stW, 4⟩, ⟨.stD, 8⟩]

/-- An access at an address is aligned, translates to `h`, and meets no watchpoint; `s'` is the package with the A and D bits
set and the TLBs filled (R146, R152, R295, R315). -/
structure Accesses (s : State) (key : Nat) (q : Seat) (k : AKind) (a : Word) (align lo n : Nat) (h : Hit) (s' : State) : Prop where
  aligned : a.toNat % align = 0
  hit : s.translate (q.who key) k a = (.ok h, s')
  unwatched : q.watchHit lo n k.writes = none

/-- An access at an aligned address is turned away there: with the fault's code, detail and address the seat takes a precise
trap, unless the host supplies the page (R146, R245, R248). -/
def TurnedAway (s : State) (key : Nat) (q : Seat) (i : Instr) (k : AKind) (a : Word) (align : Nat) : Prop :=
  ∀ f s', a.toNat % align = 0 → s.translate (q.who key) k a = (.fault f, s') →
    s.hostPage q ⟨f.code, f.detail, a, q.curPc⟩ = false → Traps s key i f.code f.detail a q.curPc

/-- The seat moves on, with `w` in register d, and STATUS.EXP set where a byte had expired (R167); `t` is the package after the
access. -/
def Loads (s : State) (key : Nat) (q : Seat) (i : Instr) (d : Reg) (w : Word) (expired : Bool) (t : State) : Prop :=
  ∃ q', exec i s = .next (t.setSeat key q') ∧
    q' = { q.advance with s := q'.s, status := { q.status with exp := q.status.exp || expired } } ∧
    ∀ r, q'.reg r = if r = d ∧ r ≠ 0 then w else q.reg r

/-- The lines a strip buffer of the seat holds give way to a store (R186). -/
def stored (q : Seat) (h : Hit) : Seat := q.advance.dropStrip h.mt h.pa

/-- So do those of a tile's 32 lines, to a FINIT (R186, R355). -/
def storedTile (q : Seat) (h : Hit) : Seat :=
  (List.range 32).foldl (fun q i => q.dropStrip 1 (tileBase (tileOf h.pa) + 64 * i)) q.advance

/-- The atomics, with new(old, op, cmp) of Table 9.5 on words of n bits; `u` is the unsigned form. -/
structure AtomForm where
  instr : Reg → Reg → Reg → Bit → Bit → Bit → Instr
  hasU : Bool
  out : (n : Nat) → Bool → BitVec n → BitVec n → BitVec n → BitVec n

def atomForms : List AtomForm :=
  [⟨fun d a b sc _ w => .aadd d a b sc w, false, fun _ _ x y _ => x + y⟩,
   ⟨.amin, true, fun _ u x y _ => if (if u then x.toNat < y.toNat else x.toInt < y.toInt) then x else y⟩,
   ⟨.amax, true, fun _ u x y _ => if (if u then x.toNat < y.toNat else x.toInt < y.toInt) then y else x⟩,
   ⟨fun d a b sc _ w => .aand d a b sc w, false, fun _ _ x y _ => x &&& y⟩,
   ⟨fun d a b sc _ w => .aor d a b sc w, false, fun _ _ x y _ => x ||| y⟩,
   ⟨fun d a b sc _ w => .axchg d a b sc w, false, fun _ _ _ y _ => y⟩,
   ⟨fun d a b sc _ w => .acas d a b sc w, false, fun _ _ x y z => if x = z then y else x⟩]

/-- Bytes of an atomic: `.w` is the 64-bit form. -/
def atomBytes (w : Bit) : Nat := if w = 1 then 8 else 4

/-- The old word at an address, and whether it had expired (R170). -/
def oldWord (s : State) (h : Hit) (n : Nat) : List Byte × Bool :=
  if h.mt = 1 then s.fleetGet h.pa n else (s.homeGet h.pa n, false)

end Sys2Proof.Claims

/-- R315, R370, R167: a load adds its sign-extended offset to s[sa]; at an aligned address that translates it writes the
bytes read, extended as its form says, to sd, and sets STATUS.EXP where a byte had expired. At an address that is not a
multiple of its size it raises ALIGN with the address in EVAL, and at one that does not translate the fault of its
translation. -/
def Sys2Proof.Claims.ScalarLoadsRule : Prop :=
  ∀ s key q, Clear s key q → ∀ f ∈ loadForms, ∀ d a i,
    (∀ h s' r, Accesses s key q f.kind (plus (q.reg a) i) f.bytes (plus (q.reg a) i).toNat f.bytes h s' →
      s'.read (coreOf key) q.cin h f.bytes = .ok r →
      Loads s key q (f.instr d a i) d (widened f.bytes f.signed r.bytes) r.expired r.st) ∧
    ((plus (q.reg a) i).toNat % f.bytes ≠ 0 → Traps s key (f.instr d a i) codeAlign 0 (plus (q.reg a) i) q.curPc) ∧
    TurnedAway s key q (f.instr d a i) f.kind (plus (q.reg a) i) f.bytes

/-- R315, R401, R186: a store writes the low bytes of its data register to s[sa] plus its sign-extended offset, and takes the
line from the seat's strip buffers; no register changes. A misaligned one raises ALIGN, and one that does not translate the
fault of its translation. -/
def Sys2Proof.Claims.ScalarStoresRule : Prop :=
  ∀ s key q, Clear s key q → ∀ f ∈ storeForms, ∀ b a i,
    (∀ h s', Accesses s key q (.store f.bytes) (plus (q.reg a) i) f.bytes (plus (q.reg a) i).toNat f.bytes h s' →
      exec (f.instr b a i) s =
        .next ((s'.write (coreOf key) q.cin h (leBytes f.bytes (q.reg b).toNat)).setSeat key (stored q h))) ∧
    ((plus (q.reg a) i).toNat % f.bytes ≠ 0 → Traps s key (f.instr b a i) codeAlign 0 (plus (q.reg a) i) q.curPc) ∧
    TurnedAway s key q (f.instr b a i) (.store f.bytes) (plus (q.reg a) i) f.bytes

/-- The scalar loads and stores of the control thread (R315, R370, R401). -/
def Obligations.ScalarAccesses : Prop :=
  Claims.ScalarLoadsRule ∧ Claims.ScalarStoresRule

/-- R214, R333, Table 9.5, R215: an atomic writes its core's copy of the line back, replaces the word at the home in one step
by new(old, s[sb], old s[sd]), and returns the old word in sd, sign-extended from 32 bits unless its form is unsigned. A node
whose PREDCNT it takes from 1 to 0 is released (R29). -/
def Obligations.Atomics : Prop :=
  ∀ s key q, Clear s key q → ∀ f ∈ atomForms, ∀ d a b sc u w, (sc = 0 ∨ s.inColl q.ctx q.launch q.node = false) →
    (∀ h s', Accesses s key q .atomic (q.reg a) (atomBytes w) (q.reg a).toNat (atomBytes w) h s' →
      let t := ((s'.flushInval (coreOf key) q.cin h.pa).count q.cin (dieOf key) h.pa h.plc)
      let n := 8 * atomBytes w
      let old := oldWord t h (atomBytes w)
      let new := f.out n (decide (u = 1) && f.hasU) (BitVec.ofNat n (leNat old.1)) ((q.reg b).setWidth n) ((q.reg d).setWidth n)
      ∃ q', exec (f.instr d a b sc u w) s =
          .next (((t.homePut h.pa (leBytes (atomBytes w) new.toNat)).releaseFrom t.mem).setSeat key q') ∧
        q' = { stored q h with s := q'.s, status := { q.status with exp := q.status.exp || old.2 } } ∧
        ∀ r, q'.reg r = if r = d ∧ r ≠ 0 then widened (atomBytes w) (!(decide (u = 1) && f.hasU)) old.1 else q.reg r) ∧
    ((q.reg a).toNat % atomBytes w ≠ 0 → Traps s key (f.instr d a b sc u w) codeAlign 0 (q.reg a) q.curPc) ∧
    TurnedAway s key q (f.instr d a b sc u w) .atomic (q.reg a) (atomBytes w)

namespace Sys2Proof.Claims

/-- What the L1 a core uses holds of a raw byte for a context: the byte, and whether it is dirty (R147, R148, R203). -/
def held (s : State) (core : Nat) (cin : BitVec 18) (pa : Nat) : Option (Byte × Bool) :=
  (s.line (s.sliceOf core pa) cin 0 pa).bind fun l => mapFind l.bytes (pa % 64)

/-- The byte a load of the core reads when its line is fetched: the dirty byte, or the home's. -/
def fetched (s : State) (core : Nat) (cin : BitVec 18) (pa : Nat) : Byte :=
  match held s core cin pa with
  | some (b, true) => b
  | _ => memGet s.mem pa

/-- The byte that the core's L1 holds of an expanded line (kind 1) or of a decoded one (kind 2), which are never dirty (R147). -/
def heldAs (s : State) (kind core : Nat) (cin : BitVec 18) (pa : Nat) : Option (Byte × Bool) :=
  (s.line (s.sliceOf core pa) cin kind pa).bind fun l => mapFind l.bytes (pa % 64)

/-- The bytes of an expanded line of a compressed page: those that the LLC holds, or the expansion of the tile's encoding
(R154, R155). -/
def expandedLine (s : State) (pa : Nat) : Option (List Byte) :=
  match mapFind s.llcExp (pa / 64 * 64) with
  | some b => some b
  | none => (expandTile (s.tileEncoding pa)).map fun x => (x.2.drop (64 * (pa / 64 % 4))).take 64

/-- The BF16 code's byte that a decoded window shows at an address, where an enabled FRR covers it (R158). -/
def windowByte (s : State) (pa : Nat) : Option Byte :=
  (s.frrFor pa).map fun f => BitVec.ofNat 8 (s.windowElem f ((pa - f.winBase) / 2) / 2 ^ (8 * ((pa - f.winBase) % 2)) % 256)

/-- The bytes of the line at an address as its home serves them to a load from a compressed page or from a window. -/
def servedLine (s : State) (mt pa : Nat) : Option (List Byte) :=
  if mt = 2 then expandedLine s pa else (List.range 64).mapM fun i => windowByte s (pa / 64 * 64 + i)

end Sys2Proof.Claims

/-- R147, R203, R167, Table 6.4: a load from HBM reads the L1's bytes where all of them are valid, and otherwise fetches the
line around its dirty bytes; a load from a fleeting tile reads the home while the tile is live, and 0 with STATUS.EXP when
it is not; a load from a compressed page reads the expanded bytes of the tile at its address (R154, R155), and one from a window
the BF16 codes decoded there (R158), in the L1 or as the home serves the line, which is DECODE where the tile is bad or no FRR
covers the window. A load from device space gives a value that the spec leaves open (assumption 41). -/
def Sys2Proof.Claims.LoadsByMemoryTypeRule : Prop :=
  ∀ (s : State) core cin (h : Hit) n, h.pa % 64 + n ≤ 64 →
    (h.mt = 0 → (∀ i, i < n → (held s core cin (h.pa + i)).isSome) →
      s.read core cin h n = .ok ⟨(List.range n).map fun i => ((held s core cin (h.pa + i)).getD (0, false)).1, false, s⟩) ∧
    (h.mt = 0 → (∃ i, i < n ∧ held s core cin (h.pa + i) = none) →
      ∃ t, s.read core cin h n = .ok ⟨(List.range n).map fun i => fetched s core cin (h.pa + i), false, t⟩ ∧ t.mem = s.mem) ∧
    (h.mt = 1 → s.read core cin h n =
      .ok ⟨if s.liveAt h.pa then (List.range n).map fun i => memGet s.mem (h.pa + i) else List.replicate n 0, !s.liveAt h.pa,
        s.count cin (dieOfCore core) h.pa h.plc⟩) ∧
    (h.mt = 2 ∨ h.mt = 3 →
      ((∀ i, i < n → (heldAs s (h.mt - 1) core cin (h.pa + i)).isSome) → s.read core cin h n =
        .ok ⟨(List.range n).map fun i => ((heldAs s (h.mt - 1) core cin (h.pa + i)).getD (0, false)).1, false, s⟩) ∧
      ((∃ i, i < n ∧ heldAs s (h.mt - 1) core cin (h.pa + i) = none) →
        (∀ bs, servedLine s h.mt h.pa = some bs → bs.length = 64 →
          (∀ i b, i < n → heldAs s (h.mt - 1) core cin (h.pa + i) ≠ some (b, true)) →
          ∃ t, s.read core cin h n = .ok ⟨(List.range n).map fun i => bs.getD (h.pa % 64 + i) 0, false, t⟩ ∧ t.mem = s.mem) ∧
        (servedLine s h.mt h.pa = none → s.read core cin h n = .error (if h.mt = 2 then dBadTile else dNoWindow)))) ∧
    (h.mt = 4 → s.read core cin h n =
      .ok ⟨leBytes n (Config.freeWord s.freeN).toNat, false, { s with freeN := s.freeN + 1 }⟩)

/-- R203, R170, Table 6.4: a store to HBM makes exactly its bytes valid and dirty in the L1, and the home keeps what it holds;
a store to a fleeting tile writes exactly its bytes at the home, and no L1. A load of the stored bytes then reads them, from
a tile while it is live. A store to a compressed page raises COMPRESSED and one to a window WINDOW, and device space takes 4
and 8 bytes, which go to the device at their address and into no cache (R145, R146). -/
def Sys2Proof.Claims.StoresByMemoryTypeRule : Prop :=
  ∀ (s : State) core cin (h : Hit) (bs : List Byte), bs ≠ [] → h.pa % 64 + bs.length ≤ 64 → Memory.wf s.mem = true →
    (h.mt = 0 → (s.write core cin h bs).mem = s.mem ∧ ∀ pa, held (s.write core cin h bs) core cin pa =
      if h.pa ≤ pa ∧ pa < h.pa + bs.length then some (bs.getD (pa - h.pa) 0, true) else held s core cin pa) ∧
    (h.mt = 1 → (s.write core cin h bs).cores = s.cores ∧ ∀ pa, memGet (s.write core cin h bs).mem pa =
      if h.pa ≤ pa ∧ pa < h.pa + bs.length then bs.getD (pa - h.pa) 0 else memGet s.mem pa) ∧
    (h.mt = 0 ∨ h.mt = 1 ∧ s.liveAt h.pa = true →
      ∃ t, (s.write core cin h bs).read core cin h bs.length = .ok ⟨bs, false, t⟩) ∧
    (h.mt = 4 → s.write core cin h bs = { s with out := .deviceWrite h.pa bs :: s.out }) ∧
    ∀ (w : Word) (user : Bool) (n : Nat), (user = true → pteU w = true) →
      (pteW w = true →
        (pteMt w ≤ 1 → protFault (.store n) user w = none) ∧ (pteMt w = 2 → protFault (.store n) user w = some pCompressed) ∧
        (pteMt w = 3 → protFault (.store n) user w = some pWindow) ∧
        (pteMt w = 4 → protFault (.store n) user w = if n = 4 ∨ n = 8 then none else some pDevice)) ∧
      (pteR w = true → (pteMt w ≤ 3 → protFault (.load n) user w = none) ∧
        (pteMt w = 4 → protFault (.load n) user w = if n = 4 ∨ n = 8 then none else some pDevice))

/-- What a load reads and a store writes, by memory type (Table 6.4).
The model's choices that it rests on: assumptions 10, 41. -/
def Obligations.MemoryTypes : Prop :=
  Claims.LoadsByMemoryTypeRule ∧ Claims.StoresByMemoryTypeRule

/-! ### Fleeting tiles, releases and acquires, fences -/

/-- R173, R174, R175, R166: FINIT fills the 2 KiB tile of its address with copies of s[sb] and makes it live from now; FRNW
restarts the age of a tile that is live and returns LIFE, and returns 0 for one that is not, which it leaves; FLIFE returns
LIFE − age, or 0 for a tile marked expired. None needs an aligned address.
The model's choices that it rests on: assumption 39. -/
def Obligations.FleetingTiles : Prop :=
  ∀ s key q, Clear s key q → ∀ a h s',
    (∀ b, Accesses s key q .fleetW (q.reg a) 1 ((q.reg a).toNat / 2048 * 2048) 2048 h s' →
      let t := s'.count q.cin (dieOf key) h.pa h.plc
      exec (.finit a b) s = .next ((((t.homePut (tileBase (tileOf h.pa)) (List.replicate 256 (leBytes 8 (q.reg b).toNat)).flatten).setTile
        (tileOf h.pa) ⟨BitVec.ofNat 20 s.ftick, false⟩)).setSeat key (storedTile q h))) ∧
    (∀ d, Accesses s key q .fleetW (q.reg a) 1 ((q.reg a).toNat / 2048 * 2048) 0 h s' →
      let t := s'.count q.cin (dieOf key) h.pa h.plc
      (s.liveAt h.pa = true → Loads s key q (.frnw d a) d (BitVec.ofNat 64 (s.die (tileDie (tileOf h.pa))).life) false
        (t.setTile (tileOf h.pa) { s.tile (tileOf h.pa) with birth := BitVec.ofNat 20 s.ftick })) ∧
      (s.liveAt h.pa = false → Loads s key q (.frnw d a) d 0 false t)) ∧
    (∀ d, Accesses s key q .fleetR (q.reg a) 1 ((q.reg a).toNat / 2048 * 2048) 0 h s' →
      Loads s key q (.flife d a) d
        (if (s.tile (tileOf h.pa)).expd then 0
          else low 64 ((s.die (tileDie (tileOf h.pa))).life - ((s.tile (tileOf h.pa)).age s.ftick : Int)))
        false (s'.count q.cin (dieOf key) h.pa h.plc))

/-- R211, R212, R386, R338: PUB at a scope above its own core writes the core's dirty bytes back and then stores 8 bytes at the
home; ACQ loads 8 bytes from the home, and at such a scope invalidates the core's clean bytes. Each first writes its own line
back and drops it. A misaligned address raises ALIGN. -/
def Sys2Proof.Claims.ReleaseAndAcquireRule : Prop :=
  ∀ s key q, Clear s key q → ∀ a (c : BitVec 3), c.toNat ≤ 4 → (c = 4 → s.inColl q.ctx q.launch q.node = false) →
    (∀ b h s', Accesses s key q (.store 8) (q.reg a) 8 (q.reg a).toNat 8 h s' →
      let t := if c = 0 then s' else s'.writeBack (coreOf key) q.cin
      exec (.pub a b c) s = .next (((((t.flushInvalHit (coreOf key) q.cin h).request q.cin (dieOf key) h).homeWrite h
        (leBytes 8 (q.reg b).toNat))).setSeat key (stored q h))) ∧
    (∀ d h s' r, Accesses s key q (.load 8) (q.reg a) 8 (q.reg a).toNat 8 h s' →
      ((s'.flushInvalHit (coreOf key) q.cin h).request q.cin (dieOf key) h).homeRead h 8 = .ok r →
      Loads s key q (.acq d a c) d (BitVec.ofNat 64 (leNat r.bytes)) r.expired
        (if c = 0 then r.st else r.st.invalClean (coreOf key) q.cin)) ∧
    (∀ b d, (q.reg a).toNat % 8 ≠ 0 →
      Traps s key (.pub a b c) codeAlign 0 (q.reg a) q.curPc ∧ Traps s key (.acq d a c) codeAlign 0 (q.reg a) q.curPc)

/-- Table 9.4, R209, R210, R388: with nothing queued a FENCE of kind .sv, .vs or .all and a QFENCE of one class of queues only
move on; a FENCE at a scope writes the core's dirty bytes back and invalidates its clean ones; a QFENCE that names P or V
together with an engine's queue writes the dirty bytes back; a mask above 0x1FF raises ILLOP. -/
def Sys2Proof.Claims.FencesRule : Prop :=
  ∀ s key q, Clear s key q →
    (∀ k : BitVec 3, k.toNat ≤ 2 → Passes s key q (.fence k)) ∧
    (∀ k : BitVec 3, 3 ≤ k.toNat → k.toNat ≤ 6 → (k = 6 → s.inColl q.ctx q.launch q.node = false) →
      exec (.fence k) s = .next (((s.writeBack (coreOf key) q.cin).invalClean (coreOf key) q.cin).setSeat key q.advance)) ∧
    (∀ a, (q.reg a).toNat < 512 → (∀ ch : Fin 4, q.chan[ch] = none) → s.inColl q.ctx q.launch q.node = false →
      exec (.qfence a) s = .next ((if q.reg a &&& 0x003 ≠ 0 ∧ q.reg a &&& 0x1FC ≠ 0 then s.writeBack (coreOf key) q.cin else s).setSeat
        key q.advance)) ∧
    ∀ w b, 512 ≤ (q.reg b).toNat → encode (.qfence b) = some w → Traps s key (.qfence b) codeIllop 0 (w.setWidth 64) q.curPc

/-- Releases, acquires and fences of a seat with nothing queued (R209 to R212). -/
def Obligations.Ordering : Prop :=
  Claims.ReleaseAndAcquireRule ∧ Claims.FencesRule

namespace Sys2Proof.Claims

/-- The lines of a core's L1, or of its fused quad's: aligned, one for each address and kind, in the slice of their address,
the bytes in order, and none dirty but of raw lines (R147, R148, R203). -/
structure Orderly (s : State) (core : Nat) : Prop where
  cores : mapOkFrom (fun _ => true) 0 s.cores = true
  line : ∀ c ∈ s.slices core, ∀ l ∈ (s.core c).l1, l.pa % 64 = 0 ∧ s.sliceOf core l.pa = c ∧
    mapOkFrom (fun _ => true) 0 l.bytes = true ∧ (l.kind = 0 → ∀ x ∈ l.bytes, x.1 < 64) ∧ (l.kind ≠ 0 → l.dirty = [])
  once : ∀ c ∈ s.slices core, (s.core c).l1.Pairwise fun x y => ¬ (x.cin = y.cin ∧ x.kind = y.kind ∧ x.pa = y.pa)

end Sys2Proof.Claims

/-- R203, Table 9.4: after a write-back the home holds every byte that the core's L1 held dirty for the context, and what it held
before of every other byte; once the clean bytes are invalidated too, the L1 holds none for the context. -/
def Obligations.WriteBack : Prop :=
  ∀ s core cin, Orderly s core → Memory.wf s.mem = true →
    (∀ pa, memGet (s.writeBack core cin).mem pa = match held s core cin pa with
      | some (b, true) => b
      | _ => memGet s.mem pa) ∧
    ∀ pa, held ((s.writeBack core cin).invalClean core cin) core cin pa = none

/-! ### Barriers, tags, deadlines and the turn of a core's seats -/

namespace Sys2Proof.Claims

/-- The seat arrives at the next episode of a group's barrier and waits for it: the launch counts one arrival of the node more;
`s` is the package it leaves (R53, R356). -/
def Arrives (s : State) (key : Nat) (q : Seat) (group : Nat) (gbar : Bool) : State :=
  let k := 2 * group + (if gbar then 1 else 0)
  let n := match s.launch q.ctx q.launch with
    | some l => (((mapGet [] l.arrived k).find? (·.1 = q.node)).map (·.2)).getD 0 + 1
    | none => 1
  (s.mapLaunch q.ctx q.launch fun l =>
    { l with arrived := mapInsert l.arrived k (((mapGet [] l.arrived k).filter fun x => x.1 ≠ q.node) ++ [(q.node, n)]) }).setSeat key
      { q with byp := none, wait := some (.barrier group gbar n) }

/-- The episode of a barrier has been completed (R356). -/
def Completed (s : State) (q : Seat) (group : Nat) (gbar : Bool) (n : Nat) : Prop :=
  ∀ l, s.launch q.ctx q.launch = some l → n ≤ mapGet 0 l.episodes (2 * group + (if gbar then 1 else 0))

/-- The lowest index of a set bit, or −1 (Table 8.7). -/
def Lowest (m w : Word) : Prop :=
  (m = 0 ∧ w = BitVec.allOnes 64) ∨ ∃ i, i < 64 ∧ w = BitVec.ofNat 64 i ∧ m.getLsbD i = true ∧ ∀ j, j < i → m.getLsbD j = false

end Sys2Proof.Claims

/-- R213, R384, R357, R356: PHASE writes the core's dirty bytes back, arrives at its group's next episode and waits; when the
episode is complete it invalidates the clean bytes and moves on. GBAR does the same and leaves the L1 alone. A slot without
a group raises ILLOP. While a fork or memory commands of the seat are outstanding PHASE waits for them. -/
def Sys2Proof.Claims.BarriersRule : Prop :=
  (∀ s key q, Ctl s key q → ∀ g : BitVec 2, ∀ group : BitVec 8, q.sr.gslot[g.toNat] = some group →
    (∀ a b n, q.wait ≠ some (.barrier a b n)) → q.forked = true ∨ q.memBusy = true →
    exec (.phase g) s = .next (s.setSeat key { q with byp := none, wait := some .drained })) ∧
  ∀ s key q, Clear s key q → ∀ g : BitVec 2,
    (∀ group : BitVec 8, q.sr.gslot[g.toNat] = some group →
      ((∀ a b n, q.wait ≠ some (.barrier a b n)) →
        exec (.phase g) s = .next (Arrives (s.writeBack (coreOf key) q.cin) key q group.toNat false) ∧
        exec (.gbar g) s = .next (Arrives s key q group.toNat true)) ∧
      (∀ x b n, q.wait = some (.barrier x b n) → Completed s q group.toNat false n →
        exec (.phase g) s = .next ((s.invalClean (coreOf key) q.cin).setSeat key q.advance)) ∧
      (∀ x b n, q.wait = some (.barrier x b n) → Completed s q group.toNat true n → Passes s key q (.gbar g))) ∧
    (q.sr.gslot[g.toNat] = none → ∀ w,
      (encode (.phase g) = some w → Traps s key (.phase g) codeIllop 0 (w.setWidth 64) q.curPc) ∧
      (encode (.gbar g) = some w → Traps s key (.gbar g) codeIllop 0 (w.setWidth 64) q.curPc))

/-- R356, R53: the next episode of a group's barrier completes exactly when every member of the group has arrived at it, has
finished, has failed or was discarded, and one has arrived; it counts one up. -/
def Sys2Proof.Claims.BarrierEpisodesRule : Prop :=
  ∀ s ctx launch group gbar l, s.launch ctx launch = some l →
    let k := 2 * group + (if gbar then 1 else 0)
    let at_ := fun (n : Node) => mapGet 0 l.episodes k + 1 ≤ (((mapGet [] l.arrived k).find? (·.1 = n.addr)).map (·.2)).getD 0
    let member := fun (n : Node) => n ∈ l.nodes ∧ ∃ x ∈ n.gslots.toList, ∃ b : BitVec 8, x = some b ∧ b.toNat = group
    let ready := (∀ n, member n → n.state = .finished ∨ n.state = .failed ∨ n.state = .discarded ∨ at_ n) ∧ ∃ n, member n ∧ at_ n
    (ready → exec (.barrierEpisodeComplete ctx launch group gbar) s = .next (s.mapLaunch ctx launch fun l =>
      { l with episodes := mapInsert l.episodes k (mapGet 0 l.episodes k + 1) })) ∧
    (¬ ready → exec (.barrierEpisodeComplete ctx launch group gbar) s = .fault (.notEnabled "BARRIER_EPISODE_COMPLETE"))

/-- The barriers of a group, and when an episode of one completes (R213, R356, R357).
The model's choices that it rests on: assumption 30. -/
def Obligations.BarriersAndEpisodes : Prop :=
  Claims.BarriersRule ∧ Claims.BarrierEpisodesRule

/-- R192, R405, Table 8.7: TWALL moves on when every tag of its mask is set, TWANY when one is or the mask is 0, with the
lowest of them, and each waits otherwise; TFFR gives the lowest set tag of the mask, or −1, at once; TCLR clears tags and
their fault bits. -/
def Sys2Proof.Claims.TagsRule : Prop :=
  ∀ s key q, Ctl s key q → ∀ d a, Settled q [d, a] →
    (q.tags &&& q.reg a = q.reg a → Passes s key q (.twall a)) ∧
    (q.tags &&& q.reg a ≠ q.reg a → exec (.twall a) s = .next (s.setSeat key { q with byp := none, wait := some (.tags true (q.reg a)) })) ∧
    (q.reg a = 0 ∨ q.tags &&& q.reg a ≠ 0 → ∃ w, Lowest (q.tags &&& q.reg a) w ∧ Sets s key q (.twany d a) d w) ∧
    (q.reg a ≠ 0 → q.tags &&& q.reg a = 0 →
      exec (.twany d a) s = .next (s.setSeat key { q with byp := none, wait := some (.tags false (q.reg a)) })) ∧
    (∃ w, Lowest (q.tags &&& q.reg a) w ∧ Sets s key q (.tffr d a) d w) ∧
    exec (.tclr a) s = .next (s.setSeat key
      { q.advance with tags := q.tags &&& ~~~q.reg a, tagfault := q.tagfault &&& ~~~q.reg a })

/-- R431, R433, R389, R42: WAITE moves on once device time has reached s[sa], and waits before; YIELD gives issue to the
other seat of its core where that seat is ready, and moves on where it is not, and at once after the other has issued; RCLM
moves on where no reclaim of the context is in progress, and waits for the one that is; a seat that has waited for an earlier
incarnation's waits for no other. A switch of issue costs 24 cycles. -/
def Sys2Proof.Claims.WaitsRule : Prop :=
  ∀ s key q, Ctl s key q →
    (∀ a, Settled q [a] →
      ((q.reg a).toNat ≤ s.devtime → Passes s key q (.waite a)) ∧
      (s.devtime < (q.reg a).toNat →
        exec (.waite a) s = .next (s.setSeat key { q with byp := none, wait := some (.deadline (q.reg a)) }))) ∧
    (q.wait ≠ some .yield → s.ready (otherSeat key) = false → Passes s key q .yield) ∧
    (q.wait ≠ some .yield → s.ready (otherSeat key) = true →
      let t := s.setSeat key { q with byp := none, wait := some .yield, yielded := false }
      let c := s.core (coreOf key)
      exec .yield s = .next (t.setCore (coreOf key) { c with holder := 1 - c.holder, held := 0, switching := 24 })) ∧
    (q.wait = some .yield → q.yielded = true ∨ s.ready (otherSeat key) = false → exec .yield s = .next (s.setSeat key { q.advance with yielded := false })) ∧
    (∀ a, Settled q [a] → q.status.prv = true → (q.reg a).toNat < 4096 →
      (s.reclaimOf (q.reg a).toNat = none → Passes s key q (.rclm a)) ∧
      ∀ inc, s.reclaimOf (q.reg a).toNat = some inc →
        ((∃ old, old ≠ inc ∧ q.wait = some (.rclm (q.reg a).toNat old)) → Passes s key q (.rclm a)) ∧
        ((∀ old, old ≠ inc → q.wait ≠ some (.rclm (q.reg a).toNat old)) →
          exec (.rclm a) s = .next (s.setSeat key { q with byp := none, wait := some (.rclm (q.reg a).toNat inc) }))) ∧
    ∀ a w, encode (.rclm a) = some w → q.status.prv = false → Traps s key (.rclm a) codePriv 0 (w.setWidth 64) q.curPc

/-- R431, R42: the wait of a WAITE ends when device time has reached its deadline, and not before; issue passes to the other
seat of a core that is ready when its holder is not, and when both are ready after the holder's 4096 cycles; each switch
costs 24 cycles. -/
def Sys2Proof.Claims.TurnsOfSeatsRule : Prop :=
  ∀ s : State,
    (∀ key q t, s.seat key = some q → q.wait = some (.deadline t) →
      (t.toNat ≤ s.devtime → exec (.waiteDeadline key) s = .next (s.setSeat key q.advance)) ∧
      (s.devtime < t.toNat → exec (.waiteDeadline key) s = .fault (.notEnabled "WAITE_DEADLINE"))) ∧
    ∀ core, let c := s.core core
      let mine := 2 * core + c.holder
      let other := if c.holder = 0 then 2 * core + 1 else 2 * core + c.holder - 1
      let t := s.setCore core { c with holder := 1 - c.holder, held := 0, switching := 24 }
      c.holder ≤ 1 →
      (s.ready mine = false → s.ready other = true → exec (.seatSwitch core) s = .next t) ∧
      (s.ready mine = true → s.ready other = true → 4096 ≤ c.held → exec (.issueShareSpent core) s = .next t) ∧
      (s.ready mine = true → s.ready other = true → c.held < 4096 →
        exec (.issueShareSpent core) s = .fault (.notEnabled "ISSUE_SHARE_SPENT"))

/-- The tag operations, the waits of the control unit, and the turns of a core's seats (R42, R192).
The model's choices that it rests on: assumption 76. -/
def Obligations.WaitsAndTurns : Prop :=
  Claims.TagsRule ∧ Claims.WaitsRule ∧ Claims.TurnsOfSeatsRule

/-! ### Element-wise vector instructions -/

namespace Sys2Proof.Claims

/-- Bit b of a plane cell. -/
def planeBit (q : Seat) (k b : Nat) : Bool := (mapGet 0#32 q.plane k).getLsbD b

/-- Bit b of cell k is one of the bits of element i (R57). -/
def occupies (t : Shape) (i k b : Nat) : Prop :=
  k = t.cell i ∧ t.fmt.width * ((t.pos i).2 % t.fmt.epc) ≤ b ∧ b < t.fmt.width * ((t.pos i).2 % t.fmt.epc + 1)

/-- The shape ends within the 256 cells of a plane row (R58, R62). -/
def InPlane (t : Shape) : Prop :=
  match t.kind with
  | .row | .rect => t.x0 + t.w ≤ 256 * t.fmt.epc
  | .col => t.x0 < 256 * t.fmt.epc
  | .diag => t.x0 + t.h ≤ 256 * t.fmt.epc

/-- A ROW holds VL elements (R69). -/
def Holds (t : Shape) (vl : Nat) : Prop := t.kind = .row → vl ≤ t.h * t.w

/-- What a vector instruction may change of its seat beside the position: the plane, EXCFLAGS, and what VSAMPLE counts (R96,
R293). -/
def Vectored (q q' : Seat) : Prop :=
  q' = { q.advance with plane := q'.plane, sr := { q.advance.sr with excflags := q'.sr.excflags }
                        sampleCnt := q'.sampleCnt, samples := q'.samples }

/-- The flags of the elements are ORed into EXCFLAGS (R96). -/
def Raises (q q' : Seat) (n : Nat) (act : Nat → Bool) (f : Nat → Flags) : Prop :=
  ∀ b, b < 5 → (q'.sr.excflags.getLsbD b = true ↔
    q.sr.excflags.getLsbD b = true ∨ ∃ j, j < n ∧ act j = true ∧ (f j).getLsbD b = true)

/-- Element j of a shape holds v j for the active indices below n, and no other bit of the plane has changed (R75). -/
def Written (q q' : Seat) (t : Shape) (n : Nat) (act : Nat → Bool) (v : Nat → Nat) : Prop :=
  (∀ j, j < n → act j = true → readElem q'.plane t j = v j % 2 ^ t.fmt.width) ∧
  ∀ k b, b < 32 → (∀ j, j < n → act j = true → ¬ occupies t j k b) → planeBit q' k b = planeBit q k b

/-- The instruction completes with those elements and flags, and changes nothing else. -/
def WritesElems (s : State) (key : Nat) (q : Seat) (i : Instr) (t : Shape) (n : Nat) (act : Nat → Bool) (v : Nat → Nat)
    (f : Nat → Flags) : Prop :=
  ∃ q', exec i s = .next (s.setSeat key q') ∧ Vectored q q' ∧ Written q q' t n act v ∧ Raises q q' n act f

/-- Element j is active (R70). -/
def active (q : Seat) (m : MaskNo) (j : Nat) : Bool := m = 0 || (q.mask m).getLsbD j

/-- A seat whose plane is in its canonical form, where the control thread issues a vector instruction under a mask: an
execution mask governs at most 4096 elements (R70). -/
structure Vec (s : State) (key : Nat) (q : Seat) (m : MaskNo) (n : Nat) : Prop extends Clear s key q where
  plane : mapWf 0#32 q.plane = true
  few : m = 0 ∨ n ≤ 4096

/-- The rounding environment of the seat (R88). -/
def env (q : Seat) : RoundEnv := ⟨q.sr.mode, q.sr.seed, q.sr.ovfns⟩

/-- No element raises a condition that EXCEN enables (R97). -/
def Quiet (q : Seat) (n : Nat) (act : Nat → Bool) (f : Nat → Flags) : Prop :=
  ∀ j, j < n → act j = true → f j &&& q.sr.excen &&& 0x1C#5 = 0

/-- The formats of vd, va and vb that a group of functions accepts (R411, R412, R423). -/
def arith (fd fa fb : Fmt) : Bool := fd.cls != .special && fa.cls == fd.cls && fb.cls == fd.cls
def ints (fd fa fb : Fmt) : Bool := fd.cls == .integer && fa.cls == .integer && fb.cls == .integer
def floats (fd fa _ : Fmt) : Bool := fd.cls == .float && fa.cls == .float
def plain (fd fa fb : Fmt) : Bool := fd.cls != .special && fa == fd && fb == fd
def shifts (fd fa fb : Fmt) : Bool := fd.cls == .integer && fa == fd && fb.cls == .integer
def widths (fd fa _ : Fmt) : Bool := fa.width == fd.width
def converts (fd fa _ : Fmt) : Bool :=
  fd != .qpair && fd != .tbl8 && fd != .e8m0 && fa != .qpair && fa != .tbl8

structure VvForm where
  instr : Ent → Ent → Ent → Bit → Bit → MaskNo → Instr
  fn : VecFn
  ok : Fmt → Fmt → Fmt → Bool

/-- The forms of two sources (Table 20.2, Table 20.3, R412). -/
def vvForms : List VvForm :=
  [⟨.vadd, .add, arith⟩, ⟨.vsub, .sub, arith⟩, ⟨.vmul, .mul, arith⟩, ⟨.vdiv, .div, arith⟩, ⟨.vmin, .min, arith⟩,
   ⟨.vmax, .max, arith⟩, ⟨.vfma, .fma, arith⟩, ⟨.vfms, .fms, arith⟩, ⟨.vaddSat, .addSat, ints⟩, ⟨.vsubSat, .subSat, ints⟩,
   ⟨.vmulSat, .mulSat, ints⟩, ⟨.vand, .and, plain⟩, ⟨.vor, .or, plain⟩, ⟨.vxor, .xor, plain⟩, ⟨.vshl, .shl, shifts⟩,
   ⟨.vshr, .shr, shifts⟩, ⟨.vsra, .sra, shifts⟩, ⟨.vshlSat, .shlSat, shifts⟩]

structure V1Form where
  instr : Ent → Ent → Bit → MaskNo → Instr
  fn : VecFn
  ok : Fmt → Fmt → Fmt → Bool

/-- The forms of one source. -/
def v1Forms : List V1Form :=
  [⟨.vabs, .abs, arith⟩, ⟨.vneg, .neg, arith⟩, ⟨.vsqrt, .sqrt, floats⟩, ⟨.vrcp, .rcp, floats⟩, ⟨.vrsqrt, .rsqrt, floats⟩,
   ⟨.vexp2, .exp2, floats⟩, ⟨.vnot, .not, plain⟩, ⟨.vmov, .mov, widths⟩, ⟨.vcvt, .cvt none, converts⟩,
   ⟨fun d a x m => .vcvtRm d a x m 0, .cvt (some .rne), converts⟩, ⟨fun d a x m => .vcvtRm d a x m 1, .cvt (some .rtz), converts⟩,
   ⟨fun d a x m => .vcvtRm d a x m 2, .cvt (some .rdn), converts⟩, ⟨fun d a x m => .vcvtRm d a x m 3, .cvt (some .rup), converts⟩,
   ⟨fun d a x m => .vcvtRm d a x m 4, .cvt (some .sr), converts⟩, ⟨fun d a x m => .vcvtRm d a x m 5, .cvt (some .rna), converts⟩]

structure VsForm where
  instr : Ent → Ent → Reg → Bit → MaskNo → Instr
  fn : VecFn
  ok : Fmt → Fmt → Fmt → Bool

/-- The forms with a scalar in place of vb (R410). -/
def vsForms : List VsForm :=
  [⟨.vaddS, .add, arith⟩, ⟨.vsubS, .sub, arith⟩, ⟨.vmulS, .mul, arith⟩, ⟨.vminS, .min, arith⟩, ⟨.vmaxS, .max, arith⟩,
   ⟨.vfmaS, .fma, arith⟩, ⟨.vshlS, .shl, shifts⟩, ⟨.vshrS, .shr, shifts⟩, ⟨.vsraS, .sra, shifts⟩]

/-- The code and the flags of one element of a function (R411, R412, R418, R420, R423): va's element and vb's, or a scalar
with va's format, the old element of vd, the exact amount of a shift, and the element's draw number STRIPBASE + j. -/
def elem (fn : VecFn) (q : Seat) (td ta : Shape) (fb : Fmt) (sel : Bool) (b : Nat) (amt : Int) (j : Nat) : Nat × Flags :=
  elemFn fn (env q) sel ⟨td.fmt, ta.fmt, fb, readElem q.plane ta j, b, readElem q.plane td j, amt, j,
    q.sr.stripbase + BitVec.ofNat 64 j⟩

end Sys2Proof.Claims

/-- R409, R411, R412, R69, R70, R75, R96: an element-wise instruction of two sources whose operands agree in formats and counts,
and of whose elements none raises an enabled condition, writes to every active element of vd the function of va's and vb's
elements, ORs the flags raised into EXCFLAGS, and changes no other bit of the plane and nothing else of the package. -/
def Sys2Proof.Claims.VectorTwoSourcesRule : Prop :=
  ∀ s key q d a b x y m td ta tb, q.entry d = some td → q.entry a = some ta → q.entry b = some tb → InPlane td →
    let n := td.count q.sr.vl
    Vec s key q m n → ∀ f ∈ vvForms, f.ok td.fmt ta.fmt tb.fmt = true →
    Holds td q.sr.vl → Holds ta q.sr.vl → Holds tb q.sr.vl → ta.count q.sr.vl = n → tb.count q.sr.vl = n →
    let r := fun j => elem f.fn q td ta tb.fmt false (readElem q.plane tb j) (intValue tb.fmt (readElem q.plane tb j)) j
    Quiet q n (active q m) (fun j => (r j).2) →
    WritesElems s key q (f.instr d a b x y m) td n (active q m) (fun j => (r j).1) (fun j => (r j).2)

/-- R410: the forms with a scalar likewise; the low bits of s[sb] stand for an element of va's format, and all of it, unsigned,
for the amount of a shift (R412). -/
def Sys2Proof.Claims.VectorWithScalarRule : Prop :=
  ∀ s key q d a b x m td ta, q.entry d = some td → q.entry a = some ta → InPlane td →
    let n := td.count q.sr.vl
    Vec s key q m n → ∀ f ∈ vsForms, f.ok td.fmt ta.fmt ta.fmt = true →
    Holds td q.sr.vl → Holds ta q.sr.vl → ta.count q.sr.vl = n →
    let r := fun j => elem f.fn q td ta ta.fmt false ((q.reg b).toNat % 2 ^ ta.fmt.width) (q.reg b).toNat j
    Quiet q n (active q m) (fun j => (r j).2) →
    WritesElems s key q (f.instr d a b x m) td n (active q m) (fun j => (r j).1) (fun j => (r j).2)

/-- R418, R420, R423: the forms of one source, conversions with and without a mode of their own, VIDX, which writes each
element's index, and VSEL, which writes va's element where its mask is 1 and vb's elsewhere. -/
def Sys2Proof.Claims.VectorOneSourceRule : Prop :=
  ∀ s key q d m td, q.entry d = some td → InPlane td →
    let n := td.count q.sr.vl
    Vec s key q m n → Holds td q.sr.vl →
    (∀ a x ta, q.entry a = some ta → Holds ta q.sr.vl → ta.count q.sr.vl = n → ∀ f ∈ v1Forms,
      f.ok td.fmt ta.fmt td.fmt = true →
      let r := fun j => elem f.fn q td ta ta.fmt false 0 0 j
      Quiet q n (active q m) (fun j => (r j).2) →
      WritesElems s key q (f.instr d a x m) td n (active q m) (fun j => (r j).1) (fun j => (r j).2)) ∧
    (td.fmt.cls = .integer → WritesElems s key q (.vidx d m) td n (active q m) (fun j => j) (fun _ => 0)) ∧
    (∀ a b x y ta tb, q.entry a = some ta → q.entry b = some tb → plain td.fmt ta.fmt tb.fmt = true → m ≠ 0 →
      Holds ta q.sr.vl → Holds tb q.sr.vl → ta.count q.sr.vl = n → tb.count q.sr.vl = n →
      WritesElems s key q (.vsel d a b x y m) td n (fun _ => true)
        (fun j => if (q.mask m).getLsbD j = true then readElem q.plane ta j else readElem q.plane tb j) (fun _ => 0))

/-- Every element-wise vector instruction whose elements raise no enabled condition (R409 to R412, R418, R420, R423). -/
def Obligations.ElementWise : Prop :=
  Claims.VectorTwoSourcesRule ∧ Claims.VectorWithScalarRule ∧ Claims.VectorOneSourceRule

/-! ### Delivery and the float functions -/

namespace Sys2Proof.Claims

/-- The exponent of a finite number, and 0 of the others. -/
def expOf : Machine.Num → Int
  | .fin _ _ e _ => e
  | _ => 0

/-- A finite number in units of 2^g, for a g not above its exponent (R84). -/
def units (g : Int) : Machine.Num → Int
  | .fin n m e _ => (if n then -1 else 1) * ((m * 2 ^ (e - g).toNat : Nat) : Int)
  | _ => 0

/-- One number lies below another that is no NaN either; the zeros are equal (R100). -/
def lower (u v : Machine.Num) : Bool :=
  match u, v with
  | .inf true, w => w != .inf true
  | _, .inf true => false
  | .inf false, _ => false
  | _, .inf false => true
  | x, y => decide (units (min (expOf x) (expOf y)) x < units (min (expOf x) (expOf y)) y)

/-- Infinities of opposite signs, and a zero times an infinity (Table 4.6). -/
def clash (u v : Machine.Num) : Bool := (u == .inf true && v == .inf false) || (u == .inf false && v == .inf true)
def zeroInf (u v : Machine.Num) : Bool := (u.isZero && v.isInf) || (u.isInf && v.isZero)

/-- The exact sum of two numbers (R90, Table 4.6). -/
def total (mode : Rm) (u v : Machine.Num) : Machine.Num :=
  if u.isNan || v.isNan || clash u v then .nan false
  else if u.isInf then u
  else if v.isInf then v
  else if u.isZero && v.isZero then (if u = v then u else .zero (mode = .rdn))
  else if u.isZero then v
  else if v.isZero then u
  else
    let g := min (expOf u) (expOf v)
    let t := units g u + units g v
    if t = 0 then .zero (mode = .rdn) else .fin (decide (t < 0)) t.natAbs g false

/-- The exact product of two numbers (Table 4.6). -/
def product (u v : Machine.Num) : Machine.Num :=
  if u.isNan || v.isNan || zeroInf u v then .nan false
  else
    let n := u.neg != v.neg
    match u, v with
    | .fin _ m e _, .fin _ m' e' _ => .fin n (m * m') (e + e') false
    | _, _ => if u.isInf || v.isInf then .inf n else .zero n

/-- A result with NV raised beside what its delivery raises. -/
def withNv (b : Bool) (r : Nat × Flags) : Nat × Flags := (r.1, (if b then 0x10#5 else 0) ||| r.2)

/-- The same with DZ. -/
def withDz (r : Nat × Flags) : Nat × Flags := (r.1, 0x08#5 ||| r.2)

/-- A positive exact value that no float may hold, as q units of 2^k and more than 80 bits, with a part of a unit beyond them
where `st` says so: it is n/d of the unit 2^k. -/
def Brackets (q : Nat) (st : Bool) (n d : Nat) : Prop :=
  2 ^ 80 ≤ q ∧ q * d ≤ n ∧ n < (q + 1) * d ∧ (st = false ↔ q * d = n)

/-- The same of the square root of n/d. -/
def BracketsRoot (q : Nat) (st : Bool) (n d : Nat) : Prop :=
  2 ^ 80 ≤ q ∧ q * q * d ≤ n ∧ n < (q + 1) * (q + 1) * d ∧ (st = false ↔ q * q * d = n)

/-- Whether a magnitude strictly between the neighbours lo and hi, of codes c and c + 1, goes to hi (R91): `neg` is the sign of
the number, and under SR the lower neighbour of a negative number is the one of larger magnitude. -/
def goesUp (e : RoundEnv) (n : Word) (neg : Bool) (c lo v hi : Nat) : Bool :=
  match e.mode with
  | .rne => decide (lo + hi < 2 * v) || (decide (lo + hi = 2 * v) && c % 2 == 1)
  | .rna => decide (lo + hi ≤ 2 * v)
  | .rtz => false
  | .rdn => neg
  | .rup => !neg
  | .sr => if neg then !decide (rbits e.seed n < (hi - v) * 2 ^ 32 / (hi - lo)) else decide (rbits e.seed n < (v - lo) * 2 ^ 32 / (hi - lo))

/-- A quotient of magnitudes rounded to an integer, with the sign of the number (R91). -/
def rounded (e : RoundEnv) (n : Word) (neg : Bool) (a d : Nat) : Int :=
  let q := a / d
  let r := if a % d ≠ 0 ∧ goesUp e n neg q (q * d) a ((q + 1) * d) = true then q + 1 else q
  if neg then -(r : Int) else r

/-- What an overflow delivers (Table 4.3): the largest finite code with the number's sign, or what stands for infinity. -/
def overflows (f : Fmt) (e : RoundEnv) (neg : Bool) : Nat :=
  let sign := if neg then 2 ^ (f.width - 1) else 0
  let sat := sign + Fmt.maxFinite f
  let past := match f with
    | .fp32 => sign + 0x7F800000
    | .bf16 => sign + 0x7F80
    | .fp16 => sign + 0x7C00
    | .e5m2 => if e.ovfns then sign + 0x7C else sat
    | .e4m3 => if e.ovfns then 0x7F else sat
    | _ => sat
  match e.mode with
  | .rtz => sat
  | .rdn => if neg then past else sat
  | .rup => if neg then sat else past
  | _ => past

/-- The magnitude of a code of a float format in units of its smallest subnormal, 2^(1 − b − t) (R84). -/
def magnitude (f : Fmt) (c : Nat) : Nat :=
  if c < 2 ^ Fmt.tbits f then c else (2 ^ Fmt.tbits f + c % 2 ^ Fmt.tbits f) * 2 ^ (c / 2 ^ Fmt.tbits f - 1)

end Sys2Proof.Claims

/-- R84, R88, R89, R91: a finite code is worth its magnitude in units of its format's smallest subnormal. Delivery depends on the
value alone, and of a value known to 80 bits only on them and on there being more: a magnitude between two codes goes to one of
them as the mode says, raising NX, and UF below the smallest normal number; one that rounds beyond the largest finite code, or
lies a step beyond it, delivers what Table 4.3 gives and raises OF and NX. -/
def Sys2Proof.Claims.DeliveriesRule : Prop :=
  ∀ (f : Fmt) (e : RoundEnv) (n : Word) (neg : Bool) (m : Nat), f.cls = .float → 0 < m →
    let g0 := Fmt.emin f - (Fmt.tbits f : Int)
    let top := Fmt.maxFinite f
    let sign := if neg then 2 ^ (f.width - 1) else 0
    (∀ c, 0 < c → c ≤ top → ∃ k a, floatValue f (sign + c) = .fin neg a (g0 + k) false ∧ 0 ≤ k ∧ a * 2 ^ k.toNat = magnitude f c) ∧
    (∀ (g : Int) (k : Nat), deliver (.fin neg (m * 2 ^ k) g false) f e n = deliver (.fin neg m (g + k) false) f e n) ∧
    (∀ (g : Int) (q j : Nat), 2 ^ 80 ≤ q → q * 2 ^ j < m → m < (q + 1) * 2 ^ j →
      deliver (.fin neg q g true) f e n = deliver (.fin neg m (g - j) false) f e n) ∧
    ∀ k : Nat,
      let at_ := fun c => magnitude f c * 2 ^ k
      let out := deliver (.fin neg m (g0 - k) false) f e n
      (∀ c, c ≤ top → m = at_ c → out = (sign + c, 0)) ∧
      (∀ c, c < top → at_ c < m → m < at_ (c + 1) →
        out.1 = sign + (if goesUp e n neg c (at_ c) m (at_ (c + 1)) then c + 1 else c) ∧
        (2 ^ Fmt.tbits f ≤ c → out.2 = 0x01#5) ∧ (c + 1 < 2 ^ Fmt.tbits f → out.2 = 0x03#5)) ∧
      (at_ top < m →
        let hi := 2 * at_ top - at_ (top - 1)
        out = if m < hi ∧ goesUp e n neg top (at_ top) m hi = false then (sign + top, 0x01#5) else (overflows f e neg, 0x05#5))

/-- R85, R90, R98, R99, R100, R102, Table 4.6: a float element is the exact result of its exact sources, delivered once: sums,
products and fused sums with their signed zeros; quotients and roots, correctly rounded; powers of two of whole exponents; minima
and maxima, with −0 below +0 and a lone NaN giving way; conversions. Every NaN result is the canonical one, and NV is raised by a
signalling operand and by the invalid cases, DZ by a finite number over a zero. A reduction's step is the sum, the maximum or
the minimum, delivered likewise (R105, R106), and a comparison with a NaN is unordered. -/
def Sys2Proof.Claims.FloatElementsRule : Prop :=
  ∀ (e : RoundEnv) (x : ElemIn), x.fa.cls = .float → x.fb.cls = .float →
    let a := floatValue x.fa x.a
    let b := floatValue x.fb x.b
    let c := floatValue x.fd x.c
    let out := fun v => deliver v x.fd e x.n
    let two := a.isSnan || b.isSnan
    (x.fd.cls = .float →
      elemFn .add e false x = withNv (two || clash a b) (out (total e.mode a b)) ∧
      elemFn .sub e false x = withNv (two || clash a b.flip) (out (total e.mode a b.flip)) ∧
      elemFn .mul e false x = withNv (two || zeroInf a b) (out (product a b)) ∧
      elemFn .fma e false x = withNv (two || c.isSnan || zeroInf a b || clash (product a b) c) (out (total e.mode (product a b) c)) ∧
      elemFn .fms e false x =
        withNv (two || c.isSnan || zeroInf a b || clash (product a b) c.flip) (out (total e.mode (product a b) c.flip)) ∧
      elemFn .abs e false x = withNv a.isSnan (out a.abs) ∧ elemFn .neg e false x = withNv a.isSnan (out a.flip) ∧
      (let less := lower a b || (a == .zero true && b == .zero false)
       elemFn .min e false x = withNv two (out (if a.isNan then (if b.isNan then .nan false else b) else if b.isNan then a
         else if less then a else b)) ∧
       elemFn .max e false x = withNv two (out (if a.isNan then (if b.isNan then .nan false else b) else if b.isNan then a
         else if less then b else a))) ∧
      ((a.isNan || b.isNan) = true → elemFn .div e false x = withNv two (out (.nan false))) ∧
      ((a.isZero && b.isZero) = true ∨ (a.isInf && b.isInf) = true → elemFn .div e false x = withNv true (out (.nan false))) ∧
      (a.isInf = true → b.isNan = false → b.isInf = false → elemFn .div e false x = out (.inf (a.neg != b.neg))) ∧
      (b.isInf = true → a.isNan = false → a.isInf = false → elemFn .div e false x = out (.zero (a.neg != b.neg))) ∧
      (∀ s s' m ex, a = .zero s → b = .fin s' m ex false → elemFn .div e false x = out (.zero (s != s'))) ∧
      (∀ s s' m ex, a = .fin s m ex false → b = .zero s' → elemFn .div e false x = withDz (out (.inf (s != s')))) ∧
      (∀ s m ex s' m' ex', a = .fin s m ex false → b = .fin s' m' ex' false →
        ∃ (q k : Nat) (st : Bool), Brackets q st (m * 2 ^ k) m' ∧
          elemFn .div e false x = out (.fin (s != s') q (ex - ex' - k) st)) ∧
      (a.isNan = true → elemFn .sqrt e false x = withNv a.isSnan (out (.nan false)) ∧
        elemFn .rcp e false x = withNv a.isSnan (out (.nan false)) ∧ elemFn .rsqrt e false x = withNv a.isSnan (out (.nan false)) ∧
        elemFn .exp2 e false x = withNv a.isSnan (out (.nan false))) ∧
      (∀ s, a = .zero s → elemFn .sqrt e false x = out (.zero s) ∧ elemFn .rcp e false x = withDz (out (.inf s)) ∧
        elemFn .rsqrt e false x = withDz (out (.inf s)) ∧ elemFn .exp2 e false x = out (.fin false 1 0 false)) ∧
      (∀ s, a = .inf s → elemFn .rcp e false x = out (.zero s) ∧
        elemFn .exp2 e false x = out (if s then .zero false else .inf false)) ∧
      (a = .inf false → elemFn .sqrt e false x = out (.inf false) ∧ elemFn .rsqrt e false x = out (.zero false)) ∧
      ((∃ m ex, a = .fin true m ex false) ∨ a = .inf true →
        elemFn .sqrt e false x = withNv true (out (.nan false)) ∧ elemFn .rsqrt e false x = withNv true (out (.nan false))) ∧
      (∀ s m ex, a = .fin s m ex false →
        (∃ (q k : Nat) (st : Bool), Brackets q st (2 ^ k) m ∧ elemFn .rcp e false x = out (.fin s q (-ex - k) st)) ∧
        (s = false →
          (∃ (q k : Nat) (g : Int) (st : Bool), ex - k = 2 * g ∧ BracketsRoot q st (m * 2 ^ k) 1 ∧
            elemFn .sqrt e false x = out (.fin false q g st)) ∧
          ∃ (q k : Nat) (g : Int) (st : Bool), -ex - k = 2 * g ∧ BracketsRoot q st (2 ^ k) m ∧
            elemFn .rsqrt e false x = out (.fin false q g st)) ∧
        (∀ k : Int, (k = (if s then -1 else 1) * ((m * 2 ^ ex.toNat : Nat) : Int) ∧ 0 ≤ ex ∧ ex ≤ 64) ∨
            (ex < 0 ∧ k * 2 ^ (-ex).toNat = (if s then -1 else 1) * (m : Int)) →
          elemFn .exp2 e false x = out (.fin false 1 k false))) ∧
      (∀ fn ∈ [(RedFn.sum, VecFn.add), (.scan, .add), (.max, .max), (.min, .min)],
        redStep fn.1 e x.fa x.fb x.fd x.a x.b x.n = elemFn fn.2 e false x)) ∧
    (∀ rm : Option Rm,
      let e' := { e with mode := rm.getD e.mode }
      (x.fd.cls = .float → elemFn (.cvt rm) e false x = withNv a.isSnan (deliver a x.fd e' x.n)) ∧
      (x.fd.cls = .integer →
        let lo := (intRange x.fd).1
        let hi := (intRange x.fd).2
        let code := fun (v : Int) => (v % 2 ^ x.fd.width).toNat
        (a.isNan = true → elemFn (.cvt rm) e false x = (0, 0x10#5)) ∧
        (∀ s, a = .inf s → elemFn (.cvt rm) e false x = (code (if s then lo else hi), 0x10#5)) ∧
        (a.isZero = true → elemFn (.cvt rm) e false x = (0, 0)) ∧
        ∀ s m ex, a = .fin s m ex false →
          let u := 2 ^ (-ex).toNat
          let w := m * 2 ^ ex.toNat
          let v := rounded e' x.n s w u
          elemFn (.cvt rm) e false x = if v < lo then (code lo, 0x10#5) else if hi < v then (code hi, 0x10#5)
            else (code v, if w % u = 0 then 0 else 0x01#5))) ∧
    let sn := if two then 0x10#5 else 0
    let un := a.isNan || b.isNan
    cmpFn .un x.fa x.fb x.a x.b = (un, sn) ∧
    cmpFn .eq x.fa x.fb x.a x.b = (!un && !lower a b && !lower b a, sn) ∧
    cmpFn .ne x.fa x.fb x.a x.b = (un || lower a b || lower b a, sn) ∧
    cmpFn .lt x.fa x.fb x.a x.b = (!un && lower a b, if un then 0x10#5 else 0) ∧
    cmpFn .le x.fa x.fb x.a x.b = (!un && !lower b a, if un then 0x10#5 else 0)

/-! ### Comparisons, masks, moves, reductions and permutations -/

namespace Sys2Proof.Claims

structure CmpForm where
  instr : MaskNo → Ent → Ent → Bit → Bit → MaskNo → Instr
  fn : CmpFn

def cmpForms : List CmpForm := [⟨.vcmpEq, .eq⟩, ⟨.vcmpNe, .ne⟩, ⟨.vcmpLt, .lt⟩, ⟨.vcmpLe, .le⟩, ⟨.vcmpUn, .un⟩]

/-- What a vector instruction that writes one mask may change of its seat. -/
def Masked (q q' : Seat) : Prop :=
  q' = { q.advance with m := q'.m, sr := { q.advance.sr with excflags := q'.sr.excflags }
                        sampleCnt := q'.sampleCnt, samples := q'.samples }

/-- The seat moves on with `w` in register d, counted as a V-pipe instruction (R293). -/
def ScalarResult (s : State) (key : Nat) (q : Seat) (i : Instr) (d : Reg) (w : Word) : Prop :=
  ∃ q', exec i s = .next (s.setSeat key q') ∧
    q' = { q.advance with s := q'.s, sampleCnt := q'.sampleCnt, samples := q'.samples } ∧
    ∀ r, q'.reg r = if r = d ∧ r ≠ 0 then w else q.reg r

/-- The seat moves on with mask d replaced bit by bit, counted as a V-pipe instruction. -/
def MaskResult (s : State) (key : Nat) (q : Seat) (i : Instr) (d : MaskNo) (bit : Nat → Bool) : Prop :=
  ∃ q', exec i s = .next (s.setSeat key q') ∧
    q' = { q.advance with m := q'.m, sampleCnt := q'.sampleCnt, samples := q'.samples } ∧
    (∀ j, j < 4096 → (q'.mask d).getLsbD j = bit j) ∧ ∀ k, k ≠ d → q'.mask k = q.mask k

/-- Bits a mask has among the lowest n. -/
def countBelow (m : Mask) (n : Nat) : Nat := ((List.range n).map fun j => m.getLsbD j).count true

/-- `w` is the lowest index below n of a set bit, or −1 (R375). -/
def LowestBelow (m : Mask) (n : Nat) (w : Word) : Prop :=
  ((∀ j, j < n → m.getLsbD j = false) ∧ w = BitVec.allOnes 64) ∨
    ∃ j, j < n ∧ w = BitVec.ofNat 64 j ∧ m.getLsbD j = true ∧ ∀ i, i < j → m.getLsbD i = false

end Sys2Proof.Claims

/-- R416, R100: a comparison writes to each active bit of md whether the relation holds of va's and vb's elements, keeps the
inactive bits below N, and clears the bits from N on; no other mask and no plane cell changes. -/
def Sys2Proof.Claims.VectorComparisonsRule : Prop :=
  ∀ s key q d a b x y m ta tb, q.entry a = some ta → q.entry b = some tb →
    let n := ta.count q.sr.vl
    Clear s key q → n ≤ 4096 → ∀ f ∈ cmpForms, ta.fmt.cls ≠ .special → tb.fmt.cls = ta.fmt.cls →
    Holds ta q.sr.vl → Holds tb q.sr.vl → tb.count q.sr.vl = n →
    let r := fun j => cmpFn f.fn ta.fmt tb.fmt (readElem q.plane ta j) (readElem q.plane tb j)
    Quiet q n (active q m) (fun j => (r j).2) →
    ∃ q', exec (f.instr d a b x y m) s = .next (s.setSeat key q') ∧ Masked q q' ∧
      (∀ j, j < 4096 → (q'.mask d).getLsbD j =
        if j < n then (if active q m j then (r j).1 else (q.mask d).getLsbD j) else false) ∧
      (∀ k, k ≠ d → q'.mask k = q.mask k) ∧ Raises q q' n (active q m) (fun j => (r j).2)

/-- R375, R376: the mask operations act on all 4096 bits; MPOP counts the set bits below VL and MFIRST finds the lowest, or
gives −1; MSETN sets the lowest max(0, min(s[sa], 4096)) bits and clears the others. -/
def Sys2Proof.Claims.MaskOperationsRule : Prop :=
  ∀ s key q, Clear s key q → ∀ d a b : MaskNo,
    MaskResult s key q (.mand d a b) d (fun j => (q.mask a).getLsbD j && (q.mask b).getLsbD j) ∧
    MaskResult s key q (.mor d a b) d (fun j => (q.mask a).getLsbD j || (q.mask b).getLsbD j) ∧
    MaskResult s key q (.mxor d a b) d (fun j => (q.mask a).getLsbD j != (q.mask b).getLsbD j) ∧
    MaskResult s key q (.mandn d a b) d (fun j => (q.mask a).getLsbD j && !(q.mask b).getLsbD j) ∧
    MaskResult s key q (.mnot d a) d (fun j => !(q.mask a).getLsbD j) ∧
    (∀ r, MaskResult s key q (.msetn d r) d (fun j => decide ((j : Int) < (q.reg r).toInt))) ∧
    (∀ r, ScalarResult s key q (.mpop r a) r (BitVec.ofNat 64 (countBelow (q.mask a) q.sr.vl))) ∧
    ∀ r, ∃ w, LowestBelow (q.mask a) q.sr.vl w ∧ ScalarResult s key q (.mfirst r a) r w

/-- The comparisons into masks and the mask operations. -/
def Obligations.MasksAndComparisons : Prop :=
  Claims.VectorComparisonsRule ∧ Claims.MaskOperationsRule

/-- R415: VBCAST writes the low bits of s[sb] to every active element; VINS shifts va's elements up by one and puts them into
element 0; VSLIDE takes element j + s[sb] of va, and 0 outside it; VEXTR gives one element, sign-extended for the INT formats
and zero-extended for the others, and 0 outside va. -/
def Sys2Proof.Claims.VectorMovesRule : Prop :=
  ∀ s key q a b x ta, q.entry a = some ta → Holds ta q.sr.vl →
    (∀ d m td, q.entry d = some td → InPlane td → Holds td q.sr.vl →
      let n := td.count q.sr.vl
      Vec s key q m n →
      WritesElems s key q (.vbcast d b m) td n (active q m) (fun _ => (q.reg b).toNat) (fun _ => 0) ∧
      (td.fmt = ta.fmt → ta.count q.sr.vl = n →
        WritesElems s key q (.vins d a b x m) td n (active q m)
          (fun j => if j = 0 then (q.reg b).toNat else readElem q.plane ta (j - 1)) (fun _ => 0) ∧
        WritesElems s key q (.vslide d a b x m) td n (active q m)
          (fun j => if 0 ≤ (j : Int) + (q.reg b).toInt ∧ (j : Int) + (q.reg b).toInt < n then
            readElem q.plane ta ((j : Int) + (q.reg b).toInt).toNat else 0) (fun _ => 0))) ∧
    ∀ d, Clear s key q → ScalarResult s key q (.vextr d a b x) d
      (if (q.reg b).toNat < ta.count q.sr.vl then
        (if ta.fmt = .int32 ∨ ta.fmt = .int16 ∨ ta.fmt = .int8 ∨ ta.fmt = .int4 then
          low 64 (BitVec.ofNat ta.fmt.width (readElem q.plane ta (q.reg b).toNat)).toInt
        else BitVec.ofNat 64 (readElem q.plane ta (q.reg b).toNat))
      else 0)

namespace Sys2Proof.Claims

structure RedForm where
  instr : Ent → Ent → Bit → MaskNo → Instr
  seg : Ent → Ent → Bit → MaskNo → Instr
  fn : RedFn

def redForms : List RedForm := [⟨.vrsum, .vrsumSeg, .sum⟩, ⟨.vrmax, .vrmaxSeg, .max⟩, ⟨.vrmin, .vrminSeg, .min⟩]

/-- SR becomes RNE (R93). -/
def envNoSr (q : Seat) : RoundEnv := { env q with mode := noSr q.sr.mode }

/-- The elements of va as the leaves of R105's tree: format and code, or absent. -/
def leaves (q : Seat) (ta : Shape) (from_ len : Nat) (act : Nat → Bool) (j : Nat) : Option (Fmt × Nat) :=
  if j < len ∧ act (from_ + j) = true then some (ta.fmt, readElem q.plane ta (from_ + j)) else none

/-- Index j is the last active one before k. -/
def Before (act : Nat → Bool) (j k : Nat) : Prop := j < k ∧ act j = true ∧ ∀ i, j < i → i < k → act i = false

/-- The values of a scan: the first active element is delivered into vd's format, and each later one is added to the value
before it; `fresh` starts a new run (R106, R107). -/
def Running (q : Seat) (td ta : Shape) (n : Nat) (act fresh : Nat → Bool) (r : Nat → Nat × Flags) : Prop :=
  ∀ k, k < n → act k = true →
    (fresh k = true ∨ (∀ j, j < k → act j = false) → r k = deliverInto (envNoSr q) ta.fmt td.fmt (readElem q.plane ta k)) ∧
    ∀ j, fresh k = false → Before act j k →
      r k = redStep .scan (envNoSr q) td.fmt ta.fmt td.fmt (r j).1 (readElem q.plane ta k) (BitVec.ofNat 64 k)

end Sys2Proof.Claims

/-- R105, R430, R104: a reduction combines the active elements of va over R105's tree and writes the result to element 0 of vd,
and nothing where no element is active; no enabled condition stops it. -/
def Sys2Proof.Claims.ReductionsRule : Prop :=
  ∀ s key q d a x m td ta, q.entry d = some td → q.entry a = some ta → InPlane td → 0 < td.cap →
    let n := ta.count q.sr.vl
    Vec s key q m n → ∀ f ∈ redForms, td.fmt.cls ≠ .special → ta.fmt.cls = td.fmt.cls → Holds ta q.sr.vl →
    let r := reduceAll f.fn (envNoSr q) td.fmt n (leaves q ta 0 n (active q m))
    r.2 &&& q.sr.excen &&& 0x1C#5 = 0 →
    WritesElems s key q (f.instr d a x m) td 1 (fun _ => r.1.isSome) (fun _ => r.1.getD 0) (fun _ => r.2)

/-- R107, R108: the .seg forms do so for each segment of va, which begins at element 0 and at every element whose bit of the
mask is 1, into as many elements of vd, whatever the mask's other bits. -/
def Sys2Proof.Claims.SegmentedReductionsRule : Prop :=
  ∀ s key q d a x m td ta, q.entry d = some td → q.entry a = some ta → InPlane td → m ≠ 0 →
    let n := ta.count q.sr.vl
    Vec s key q m n → ∀ f ∈ redForms, td.fmt.cls ≠ .special → ta.fmt.cls = td.fmt.cls → Holds ta q.sr.vl →
    let starts := (List.range n).filter fun i => i = 0 ∨ (q.mask m).getLsbD i = true
    starts.length ≤ td.cap →
    let r := fun k => reduceAll f.fn (envNoSr q) td.fmt ((starts ++ [n]).getD (k + 1) 0 - starts.getD k 0)
      (leaves q ta (starts.getD k 0) ((starts ++ [n]).getD (k + 1) 0 - starts.getD k 0) fun _ => true)
    (∀ k, k < starts.length → (r k).2 &&& q.sr.excen &&& 0x1C#5 = 0) →
    WritesElems s key q (f.seg d a x m) td starts.length (fun _ => true) (fun k => ((r k).1).getD 0) (fun k => (r k).2)

/-- R106, R107: VSCAN writes the running sum of va's active elements to vd, and VSCAN.seg starts anew in every segment. -/
def Sys2Proof.Claims.ScansRule : Prop :=
  ∀ s key q d a x m td ta, q.entry d = some td → q.entry a = some ta → InPlane td →
    let n := td.count q.sr.vl
    Vec s key q m n → td.fmt.cls ≠ .special → ta.fmt.cls = td.fmt.cls → Holds td q.sr.vl → Holds ta q.sr.vl →
    ta.count q.sr.vl = n → ∀ r : Nat → Nat × Flags,
    (Running q td ta n (active q m) (fun _ => false) r → Quiet q n (active q m) (fun j => (r j).2) →
      WritesElems s key q (.vscan d a x m) td n (active q m) (fun j => (r j).1) (fun j => (r j).2)) ∧
    (m ≠ 0 → Running q td ta n (fun _ => true) (fun k => decide (k = 0) || (q.mask m).getLsbD k) r →
      Quiet q n (fun _ => true) (fun j => (r j).2) →
      WritesElems s key q (.vscanSeg d a x m) td n (fun _ => true) (fun j => (r j).1) (fun j => (r j).2))

/-- Reductions, their segmented forms, and scans (R105 to R108).
The model's choices that it rests on: assumption 64. -/
def Obligations.ReductionsAndScans : Prop :=
  Claims.ReductionsRule ∧ Claims.SegmentedReductionsRule ∧ Claims.ScansRule

/-- R105, R101: over integers the tree gives the sum of the leaves that are present, modulo 2^w, and their greatest and
smallest, whatever its shape. -/
def Sys2Proof.Claims.IntegerReductionsRule : Prop :=
  ∀ (e : RoundEnv) (fa fd : Fmt) n (leaf : Nat → Option Nat), fa.cls = .integer → fd.cls = .integer →
    let present := (List.range n).filterMap leaf
    let v := present.map (intValue fa)
    let tree := fun fn => reduceAll fn e fd n fun j => if j < n then (leaf j).map fun c => (fa, c) else none
    (present = [] → ∀ fn, (tree fn).1 = none) ∧
    (present ≠ [] → (tree .sum).1 = some (wrapTo fd.width v.sum)) ∧
    (present ≠ [] → fa = fd → (∃ w ∈ v, (∀ z ∈ v, z ≤ w) ∧ (tree .max).1 = some (wrapTo fd.width w)) ∧
      ∃ w ∈ v, (∀ z ∈ v, w ≤ z) ∧ (tree .min).1 = some (wrapTo fd.width w))

namespace Sys2Proof.Claims

/-- Indices below n that a mask selects, in order. -/
def selected (q : Seat) (m : MaskNo) (n : Nat) : List Nat := (List.range n).filter fun i => (q.mask m).getLsbD i

/-- Two shapes share no bit of the plane. -/
def Apart (t u : Shape) : Prop := ∀ i j k b, i < t.cap → j < u.cap → occupies t i k b → ¬ occupies u j k b

/-- The n of M elements of a group that N:M selection keeps (R117): fewer than n others stand above one, by magnitude, an
earlier one before a later of the same. -/
def Ranks (f : Fmt) (n : Nat) (g : List Nat) (k : Nat) : Bool :=
  decide (((List.range g.length).filter fun j => magAbove f (nth 0 g k) (nth 0 g j) ||
    (magSame f (nth 0 g k) (nth 0 g j) && decide (j < k))).length < n)

/-- The wide float formats (R110, R422). -/
def Wide (f : Fmt) : Prop := f = .fp32 ∨ f = .bf16 ∨ f = .fp16

/-- Codes and scales that go together (R110). -/
def Pairs (codes scales : Fmt) : Prop :=
  ((codes = .mxfp4 ∨ codes = .e4m3 ∨ codes = .e5m2) ∧ scales = .e8m0) ∨ ((codes = .uint4 ∨ codes = .uint8) ∧ scales = .qpair)

/-- B: 32 for the MX family, QBLK's for the asymmetric one (R110, Table 4.10). -/
def block (codes : Fmt) (q : Seat) : Nat :=
  if codes = .uint4 ∨ codes = .uint8 then (if q.sr.qblk = 0 then 32 else if q.sr.qblk = 1 then 64 else 128) else 32

/-- Whole blocks: rows of a RECT, and the run of another kind (R115). -/
def WholeBlocks (t : Shape) (n b : Nat) : Prop := if t.kind = .rect then t.w % b = 0 else n % b = 0

/-- One butterfly of distance e at index j over the elements x (R115): sums below, differences above, rounded to nearest. -/
def butterfly (q : Seat) (f : Fmt) (e : Nat) (x : Nat → Nat) (j : Nat) : Nat × Flags :=
  let rne : RoundEnv := { env q with mode := .rne }
  let p := if j % (2 * e) < e then addNum .rne (floatValue f (x j)) (floatValue f (x (j + e)))
    else addNum .rne (floatValue f (x (j - e))) (floatValue f (x j)).flip
  let r := deliver p.1 f rne 0
  (r.1, p.2 ||| r.2)

/-- The stages of a bypass chain, oldest first, on the elements x: the codes after the last of them, and the flags that all of them
raise (R116). -/
def afterStages (q : Seat) (f : Fmt) : List Nat → (Nat → Nat) → Nat → Nat × Flags
  | [], x => fun j => (x j, 0)
  | k :: l, x => fun j =>
    let r := butterfly q f (2 ^ k) x
    let y := afterStages q f l (fun j => (r j).1) j
    (y.1, (r j).2 ||| y.2)

/-- QBLK's block (Table 4.10). -/
def qblock (q : Seat) : Nat := if q.sr.qblk = 0 then 32 else if q.sr.qblk = 1 then 64 else 128

/-- A source that may be v63: va's elements, with nothing queued; or what the stages of the open chain give, whose last one stands
alone in the queue (R72, R116). `r` gives the codes, with the flags of the stages. -/
def Source (q : Seat) (a : Ent) (ta : Shape) (r : Nat → Nat × Flags) (before : Option Chain) : Prop :=
  (q.entry a = some ta ∧ q.pend = [] ∧ before = none ∧ r = fun j => (readElem q.plane ta j, 0)) ∨
    a = 63 ∧ ∃ ch c, q.byp = some ch ∧ ch.shape = ta ∧ q.pend = [c] ∧ c.isStage = true ∧
      before = some (if c.sampled then { ch with sampled := ch.sampled ++ [c.pc] } else ch) ∧
      r = afterStages q ta.fmt ch.stages (readElem q.plane ta) ∧
      WholeBlocks ta (ta.count q.sr.vl) (qblock q) ∧ ∀ k ∈ ch.stages, 2 ^ (k + 1) ≤ qblock q

/-- A seat whose control thread issues an instruction behind nothing, or behind the open stage of a chain. -/
structure Chains (s : State) (key : Nat) (q : Seat) : Prop extends Ctl s key q where
  idle : Seat.Idle { q with pend := [] }
  hold : s.hold = false
  plane : mapWf 0#32 q.plane = true

end Sys2Proof.Claims

/-- R429, R417: VPERM takes for each active element the element of va that vb's index names, and 0 for an index outside va;
VCOMPR packs the elements of va that its mask selects at the front of vd; VEXPND spreads va's elements, in order, over the
elements that its mask selects. Elements that are not written keep their value. -/
def Sys2Proof.Claims.PermutationsRule : Prop :=
  ∀ s key q d a x m td ta, q.entry d = some td → q.entry a = some ta → InPlane td → td.fmt = ta.fmt →
    (∀ b y tb, q.entry b = some tb → tb.fmt.cls = .integer → Holds td q.sr.vl → Holds ta q.sr.vl → Holds tb q.sr.vl →
      let n := td.count q.sr.vl
      Vec s key q m n → tb.count q.sr.vl = n →
      let k := fun j => intValue tb.fmt (readElem q.plane tb j)
      WritesElems s key q (.vperm d a b x y m) td n (active q m)
        (fun j => if 0 ≤ k j ∧ k j < ta.count q.sr.vl then readElem q.plane ta (k j).toNat else 0) (fun _ => 0)) ∧
    (m ≠ 0 → Holds ta q.sr.vl → Vec s key q m (ta.count q.sr.vl) → ta.count q.sr.vl ≤ td.cap →
      let l := selected q m (ta.count q.sr.vl)
      WritesElems s key q (.vcompr d a x m) td l.length (fun _ => true) (fun j => readElem q.plane ta (l.getD j 0)) (fun _ => 0)) ∧
    (m ≠ 0 → Holds td q.sr.vl → Vec s key q m (td.count q.sr.vl) → td.count q.sr.vl ≤ ta.cap →
      WritesElems s key q (.vexpnd d a x m) td (td.count q.sr.vl) (fun j => (q.mask m).getLsbD j)
        (fun j => readElem q.plane ta (selected q m j).length) (fun _ => 0))

/-- R117, R428, Table 4.10: VNMSEL keeps n of every M elements of va, the greatest in magnitude, and writes their values to vd
and their positions in the group to vb, in order. -/
def Sys2Proof.Claims.SparseSelectionRule : Prop :=
  ∀ s key q d a b x td ta tb, q.entry d = some td → q.entry a = some ta → q.entry b = some tb → InPlane td → InPlane tb →
    Apart td tb → Vec s key q 0 0 → td.fmt = ta.fmt → td.fmt.cls ≠ .special → tb.fmt = .uint4 ∨ tb.fmt = .uint8 →
    Holds ta q.sr.vl →
    let n := if q.sr.nmsel = 0 then 2 else if q.sr.nmsel = 1 then 1 else 4
    let g := if q.sr.nmsel = 0 ∨ q.sr.nmsel = 1 then 4 else 8
    let na := ta.count q.sr.vl
    na % g = 0 → na / g * n ≤ td.cap → na / g * n ≤ tb.cap →
    let group := fun k => (List.range g).map fun i => readElem q.plane ta (k * g + i)
    let kept := fun k => (List.range g).filter (Ranks ta.fmt n (group k))
    ∃ q', exec (.vnmsel d a b x) s = .next (s.setSeat key q') ∧ Vectored q q' ∧ q'.sr.excflags = q.sr.excflags ∧
      (∀ k j, k < na / g → j < n →
        readElem q'.plane td (k * n + j) = (group k).getD ((kept k).getD j 0) 0 ∧
        readElem q'.plane tb (k * n + j) = (kept k).getD j 0) ∧
      ∀ k b, b < 32 → (∀ j, j < na / g * n → ¬ occupies td j k b ∧ ¬ occupies tb j k b) → planeBit q' k b = planeBit q k b

/-- The vector instructions that move elements without changing them (R415, R417, R428, R429). -/
def Obligations.MovesAndPermutations : Prop :=
  Claims.VectorMovesRule ∧ Claims.PermutationsRule ∧ Claims.SparseSelectionRule

/-- R110 to R112: VQNT quantises the blocks of va, or of the chain that ends at it: for each it writes the scale of the block to vb and the codes of its positions,
padding included, to vd, as the MX family or the asymmetric family gives them, and raises the flags of the chain's stages with
its own (assumption 76). -/
def Sys2Proof.Claims.QuantisationRule : Prop :=
  ∀ s key q d a b x td ta tb src ch, q.entry d = some td → Source q a ta src ch → q.entry b = some tb → InPlane td → InPlane tb →
    Apart td tb → Chains s key q → Wide ta.fmt → Pairs td.fmt tb.fmt → Holds ta q.sr.vl →
    let n := ta.count q.sr.vl
    let w := block td.fmt q
    let blocks := quantBlocks ta n w
    (if ta.kind = .rect then td.kind = .rect ∧ td.h = ta.h ∧ td.w = w * ceilDiv ta.w w else w * ceilDiv n w ≤ td.cap) →
    blocks.length ≤ tb.cap →
    let out := fun (k : QBlock) =>
      let xs := k.pos.map fun p => p.2.map fun i => floatValue ta.fmt (src i).1
      let first := (k.pos.headD (0, none)).1
      if tb.fmt = .e8m0 then mxBlock td.fmt (env q) q.sr.stripbase first xs
      else asymBlock td.fmt.width (env q) q.sr.stripbase first xs
    (∀ k ∈ blocks, ∀ c ∈ (out k).2, c.2 &&& q.sr.excen &&& 0x1C#5 = 0) → Quiet q n (fun _ => true) (fun j => (src j).2) →
    ∃ q', exec (.vqnt d a b x) s = .next (s.setSeat key q') ∧ Vectored { q with pend := [] } q' ∧
      (∀ k ∈ blocks, readElem q'.plane tb k.scale = (out k).1 % 2 ^ tb.fmt.width ∧
        ∀ p c, (p, c) ∈ k.pos.zip (out k).2 → readElem q'.plane td p.1 = c.1 % 2 ^ td.fmt.width) ∧
      (∀ k b, b < 32 → (∀ y ∈ blocks, ¬ occupies tb y.scale k b ∧ ∀ p ∈ y.pos, ¬ occupies td p.1 k b) →
        planeBit q' k b = planeBit q k b) ∧
      ∀ b, b < 5 → (q'.sr.excflags.getLsbD b = true ↔
        q.sr.excflags.getLsbD b = true ∨ (∃ k ∈ blocks, ∃ c ∈ (out k).2, c.2.getLsbD b = true) ∨
          ∃ j, j < n ∧ (src j).2.getLsbD b = true)

namespace Sys2Proof.Claims

/-- The values of a block, without its padding, and −0 as zero (R111, R112). -/
def blockValues (xs : List (Option Machine.Num)) : List Machine.Num := (xs.filterMap id).map fun v => if v.isZero then .zero false else v

/-- An element of a block for which no other stands above, as `f` orders them. -/
def Greatest (f : Machine.Num → Machine.Num → Bool) (l : List Machine.Num) (v : Machine.Num) : Prop := v ∈ l ∧ ∀ w ∈ l, f v w = false

/-- The magnitude of x/s as a fraction. -/
def ratio (x s : Machine.Num) : Nat × Nat :=
  match x, s with
  | .fin _ m e _, .fin _ m' e' _ => (m * 2 ^ (e - e').toNat, m' * 2 ^ (e' - e).toNat)
  | _, _ => (0, 1)

/-- An integer held between 0 and 2^b − 1. -/
def nearestCode (b : Nat) (v : Int) : Nat := if v < 0 then 0 else min v.toNat (2 ^ b - 1)

/-- The nearest integer, ties to even, to −x/s. -/
def minusOver (e : RoundEnv) (x s : Machine.Num) : Int := rounded { e with mode := .rne } 0 (!x.neg) (ratio x s).1 (ratio x s).2

end Sys2Proof.Claims

/-- R111 to R113, Table 4.10: a block with a NaN or an infinity gets the scale 0xFF, or 0x7E000000, and codes of 0, and raises NV. In the
MX family a block of zeros gets 0x7F; of another E is the exponent of its greatest magnitude less emax, held to −127 and 127, the
scale is E + 127, and a code is x/2^E delivered with saturation, which raises NX and not OF. In the asymmetric family s is 1.0 where
all elements are equal, and otherwise the range over 2^b − 1 in FP16, held to 2^−24 and 65504; z is −min/s rounded and held to the
codes; a code is x/s rounded, with z added, held to the codes, and raises NX alone. Padding gets +0, or z. -/
def Sys2Proof.Claims.QuantisedBlocksRule : Prop :=
  ∀ (e : RoundEnv) (base : Word) (n0 : Nat) (xs : List (Option Machine.Num)),
    (∃ f, Wide f ∧ ∀ v, some v ∈ xs → ∃ c, v = floatValue f c) →
    let bad := xs.any fun x => match x with | some v => v.isNan || v.isInf | none => false
    let l := blockValues xs
    let n := fun (j : Nat) => base + BitVec.ofNat 64 (n0 + j)
    let nvFirst := fun (j : Nat) => if j = 0 then 0x10#5 else 0x00#5
    (∀ (f : Fmt) (emax : Int), (f, emax) ∈ [(Fmt.mxfp4, (2 : Int)), (.e4m3, 8), (.e5m2, 15)] →
      let r := mxBlock f e base n0 xs
      r.2.length = xs.length ∧
      (bad = true → r.1 = 0xFF ∧ ∀ j, j < xs.length → r.2.getD j (0, 0) = (0, nvFirst j)) ∧
      (bad = false → (∀ v ∈ l, v.isZero = true) → r.1 = 0x7F ∧ ∀ j, j < xs.length → r.2.getD j (0, 0) = (0, 0)) ∧
      ∀ s m ex, bad = false → Greatest (fun v w => lower v.abs w.abs) l (.fin s m ex false) →
        let big : Int := max (-127) (min 127 ((m.log2 : Int) + ex - emax))
        (r.1 : Int) = big + 127 ∧
        ∀ j, j < xs.length →
          (xs.getD j none = none → r.2.getD j (0, 0) = (0, 0)) ∧
          (∀ s', xs.getD j none = some (.zero s') → r.2.getD j (0, 0) = deliver (.zero s') f { e with ovfns := false } (n j)) ∧
          ∀ s' m' ex', xs.getD j none = some (.fin s' m' ex' false) →
            let d := deliver (.fin s' m' (ex' - big) false) f { e with ovfns := false } (n j)
            r.2.getD j (0, 0) = if d.2.getLsbD 2 = true then ((if s' then 2 ^ (f.width - 1) else 0) + Fmt.maxFinite f, 0x01#5) else d) ∧
    ∀ b, b = 4 ∨ b = 8 →
      let r := asymBlock b e base n0 xs
      r.2.length = xs.length ∧
      (bad = true → r.1 = 0x7E000000 ∧ ∀ j, j < xs.length → r.2.getD j (0, 0) = (0, nvFirst j)) ∧
      ∀ mn mx, bad = false → Greatest (fun v w => lower w v) l mn → Greatest lower l mx → ∃ c z,
        r.1 = c * 65536 + z ∧
        (lower mn mx = false → c = 0x3C00 ∧ z = nearestCode b (minusOver e mn (.fin false 1 0 false))) ∧
        (lower mn mx = true →
          (∃ (m : Nat) (ex : Int) (q k : Nat) (st : Bool), total .rne mx mn.flip = .fin false m ex false ∧
            Brackets q st (m * 2 ^ k) (2 ^ b - 1) ∧
            let c0 := (deliver (.fin false q (ex - k) st) .fp16 { e with mode := .rne } 0).1
            c = if c0 = 0 then 1 else min c0 0x7BFF) ∧
          z = nearestCode b (minusOver e mn (floatValue .fp16 c))) ∧
        ∀ j, j < xs.length →
          (xs.getD j none = none → r.2.getD j (0, 0) = (z, 0)) ∧
          ∀ v, xs.getD j none = some v →
            let a := ratio v (floatValue .fp16 c)
            r.2.getD j (0, 0) = (nearestCode b (rounded e (n j) v.neg a.1 a.2 + z), if a.1 % a.2 = 0 then 0 else 0x01#5)

/-- R114, R99: VDQNT multiplies each code by its block's scale: of the MX family the code's value by 2^(scale − 127), of the
asymmetric family code − z by s, delivered into vd's format. A signalling code or scale raises NV, but where a scale code of
0xFF gives the NaN whatever the code. That a zero difference counts as +0 is the model's choice (assumption 67). -/
def Sys2Proof.Claims.DequantisationRule : Prop :=
  ∀ s key q d a b x y td ta tb, q.entry d = some td → q.entry a = some ta → q.entry b = some tb → InPlane td →
    let n := td.count q.sr.vl
    Vec s key q 0 n → Wide td.fmt → Pairs ta.fmt tb.fmt → Holds td q.sr.vl → Holds ta q.sr.vl → ta.count q.sr.vl = n →
    let w := block ta.fmt q
    (quantBlocks ta n w).length ≤ tb.cap →
    let scale := fun j => readElem q.plane tb (if ta.kind = .rect then j / ta.w * ceilDiv ta.w w + j % ta.w / w else j / w)
    let nv := fun j => if tb.fmt = .e8m0 then (if scale j = 0xFF then 0 else snanFlag [floatValue ta.fmt (readElem q.plane ta j)])
      else snanFlag [floatValue .fp16 (scale j / 65536)]
    let r := fun j => deliver
      (if tb.fmt = .e8m0 then (mulNum (floatValue ta.fmt (readElem q.plane ta j)) (e8m0Value (scale j))).1
        else (mulNum (.ofInt ((readElem q.plane ta j : Int) - (scale j % 65536 : Nat))) (floatValue .fp16 (scale j / 65536))).1)
      td.fmt (env q) (q.sr.stripbase + BitVec.ofNat 64 j)
    Quiet q n (fun _ => true) (fun j => nv j ||| (r j).2) →
    WritesElems s key q (.vdqnt d a b x y) td n (fun _ => true) (fun j => (r j).1) (fun j => nv j ||| (r j).2)

/-- Quantisation into blocks, and back (R110 to R114).
The model's choices that it rests on: assumptions 19, 67, 80. -/
def Obligations.Quantising : Prop :=
  Claims.QuantisationRule ∧ Claims.QuantisedBlocksRule ∧ Claims.DequantisationRule

/-- R115, R116, R72, R83, R422: VHAD writes one butterfly stage of distance 2^k over whole blocks. VHAD.c puts a stage behind va's
elements, or behind the chain that v63 names, into byp, where the next instruction finds it, and writes no plane cell: the chain
is performed as one, at its end (assumption 76). A chain that no VQNT ends only raises the flags of its stages.
The model's choices that it rests on: assumption 76. -/
def Obligations.Hadamard : Prop :=
  (∀ s key q a x ta src ch, Source q a ta src ch → Wide ta.fmt → Holds ta q.sr.vl → ∀ k : BitVec 6,
    let n := ta.count q.sr.vl
    let r := butterfly q ta.fmt (2 ^ k.toNat) fun j => (src j).1
    2 ^ (k.toNat + 1) ≤ qblock q → WholeBlocks ta n (qblock q) → Chains s key q →
    (∀ d td, a ≠ 63 → q.entry d = some td → InPlane td → td.fmt = ta.fmt → td.count q.sr.vl = n → Holds td q.sr.vl →
      WholeBlocks td n (qblock q) → Quiet q n (fun _ => true) (fun j => (r j).2) →
      WritesElems s key q (.vhad d a k x) td n (fun _ => true) (fun j => (r j).1) (fun j => (r j).2)) ∧
    ∃ q' c, exec (.vhadC a k x) s = .next (s.setSeat key q') ∧
      (let before := ch.getD ⟨ta, a, q.curPc, q.replay, [], []⟩
       q' = { q.advance with byp := some { before with stages := before.stages ++ [k.toNat] }, pend := [c]
                             sampleCnt := q'.sampleCnt } ∧
       c.cmd = .had k.toNat true ∧ c.isStage = true ∧ c.pc = q.curPc ∧ c.a = some ta ∧ c.d = none ∧ c.chain = some before ∧
       c.partial_ = false ∧ c.lim = none ∧ c.only = none ∧ c.did = [] ∧ c.vl = q.sr.vl ∧ c.qblk = q.sr.qblk ∧ c.excen = q.sr.excen ∧
       c.seed = q.sr.seed ∧ c.ovfns = q.sr.ovfns)) ∧
  ∀ (s : State) key q c k ta before, s.seat key = some q → Seat.Idle { q with pend := [] } → q.pend = [c] → q.byp = none →
    c.cmd = .had k true → c.a = some ta → c.d = none → c.chain = some before → c.partial_ = false → c.lim = none → c.only = none → c.did = [] →
    c.vl = q.sr.vl → c.qblk = q.sr.qblk → c.excen = q.sr.excen → c.seed = q.sr.seed → c.ovfns = q.sr.ovfns →
    let n := ta.count q.sr.vl
    WholeBlocks ta n (qblock q) → (∀ j ∈ before.stages ++ [k], 2 ^ (j + 1) ≤ qblock q) →
    let r := afterStages q ta.fmt (before.stages ++ [k]) (readElem q.plane ta)
    Quiet q n (fun _ => true) (fun j => (r j).2) →
    ∃ q', s.performAt key 0 = some (s.setSeat key q', false) ∧ Raises q q' n (fun _ => true) (fun j => (r j).2) ∧
      q' = { q with pend := [], sr := { q.sr with excflags := q'.sr.excflags }, samples := q'.samples }

namespace Sys2Proof.Claims

/-- The instruction stops at element e, the first to raise an enabled condition: the active elements below e are written and no
other, RESTARTk, ESHAPE and EXCFLAGS say so, and the seat takes a late ARITH trap, with what is left set aside. -/
def StopsAt (s : State) (key : Nat) (q : Seat) (i : Instr) (fn : VecFn) (d : Ent) (td : Shape) (act : Nat → Bool)
    (r : Nat → Nat × Flags) (e : Nat) : Prop :=
  let en := (r e).2 &&& q.sr.excen &&& 0x1C#5
  ∃ q' c, exec i s = .next ((s.setSeat key q').takeTrap key ⟨codeArith, 0, en.setWidth 64, q.curPc⟩ true false) ∧
    q' = { q.advance with plane := q'.plane, sampleCnt := q'.sampleCnt, aside := q.aside ++ [c]
                          sr := { q.advance.sr with
                            excflags := q'.sr.excflags, restart := Vector.replicate 8 (BitVec.ofNat 32 e)
                            eshElem := BitVec.ofNat 32 e, eshPart := true, eshEnt := d } } ∧
    Written q q' td e act (fun j => (r j).1) ∧
    (∀ b, b < 5 → (q'.sr.excflags.getLsbD b = true ↔ q.sr.excflags.getLsbD b = true ∨ en.getLsbD b = true ∨
      ∃ j, j < e ∧ act j = true ∧ (r j).2.getLsbD b = true)) ∧
    c.partial_ = true ∧ c.pc = q.curPc ∧ c.cmd = .vec fn ∧ c.prog = Vector.replicate 8 e

end Sys2Proof.Claims

/-- R79, R96, R97, R246, R82: an element-wise instruction, of two sources, of one, or with a scalar, of which element e is the first
to raise an enabled condition, writes the active elements below e and no other, sets every RESTART register and ESHAPE.ELEM to e with PART 1
and vd's entry, ORs the flags of the elements below e and the enabled conditions of e into EXCFLAGS, and takes a late ARITH trap
at its own position with those conditions in EVAL; it is set aside to go on at e.
The model's choices that it rests on: assumption 76. -/
def Obligations.VectorStops : Prop :=
  ∀ s key q d x m td, q.entry d = some td → InPlane td →
    let n := td.count q.sr.vl
    Vec s key q m n → Holds td q.sr.vl → ∀ a ta, q.entry a = some ta → Holds ta q.sr.vl → ta.count q.sr.vl = n → ∀ e, e < n →
    active q m e = true →
    (∀ b y tb, q.entry b = some tb → Holds tb q.sr.vl → tb.count q.sr.vl = n → ∀ f ∈ vvForms, f.ok td.fmt ta.fmt tb.fmt = true →
      let r := fun j => elem f.fn q td ta tb.fmt false (readElem q.plane tb j) (intValue tb.fmt (readElem q.plane tb j)) j
      Quiet q e (active q m) (fun j => (r j).2) → (r e).2 &&& q.sr.excen &&& 0x1C#5 ≠ 0 →
      StopsAt s key q (f.instr d a b x y m) f.fn d td (active q m) r e) ∧
    (∀ b, ∀ f ∈ vsForms, f.ok td.fmt ta.fmt ta.fmt = true →
      let r := fun j => elem f.fn q td ta ta.fmt false ((q.reg b).toNat % 2 ^ ta.fmt.width) (q.reg b).toNat j
      Quiet q e (active q m) (fun j => (r j).2) → (r e).2 &&& q.sr.excen &&& 0x1C#5 ≠ 0 →
      StopsAt s key q (f.instr d a b x m) f.fn d td (active q m) r e) ∧
    ∀ f ∈ v1Forms, f.ok td.fmt ta.fmt td.fmt = true →
      let r := fun j => elem f.fn q td ta ta.fmt false 0 0 j
      Quiet q e (active q m) (fun j => (r j).2) → (r e).2 &&& q.sr.excen &&& 0x1C#5 ≠ 0 →
      StopsAt s key q (f.instr d a x m) f.fn d td (active q m) r e

/-! ### Vector memory -/

namespace Sys2Proof.Claims

/-- Where element j of an access lies (Table 20.18, R427): b + j × e, b + j × stride, the pitched form of a RECT of width W, or
b + index × e, or b + index. A 4-bit element is a nibble of its byte. -/
def element (q : Seat) (a : VAddr) (t : Shape) (vi : Option Shape) (b st : Word) (j : Nat) : EAcc :=
  let e := t.fmt.width / 8
  match a with
  | .unit => if t.fmt.width = 4 then ⟨j, b + BitVec.ofNat 64 (j / 2), 1, some (j % 2)⟩ else ⟨j, b + BitVec.ofNat 64 (j * e), e, none⟩
  | .strided => ⟨j, b + low 64 (j * st.toInt), e, none⟩
  | .pitched =>
    let row := b + low 64 ((j / t.w : Nat) * st.toInt)
    if t.fmt.width = 4 then ⟨j, row + BitVec.ofNat 64 (j % t.w / 2), 1, some (j % t.w % 2)⟩
    else ⟨j, row + BitVec.ofNat 64 (j % t.w * e), e, none⟩
  | .indexed scaled =>
    match vi with
    | none => ⟨j, b, e, none⟩
    | some ti => ⟨j, b + low 64 (intValue ti.fmt (readElem q.plane ti j) * (if scaled then e else 1)), e, none⟩

/-- The active elements of an access, in order. -/
def elements (q : Seat) (a : VAddr) (t : Shape) (vi : Option Shape) (b st : Word) (m : MaskNo) : List EAcc :=
  ((List.range (t.count q.sr.vl)).filter (active q m)).map (element q a t vi b st)

/-- A vector memory instruction: how it addresses, its stride, its index operand, and whether its operands pass its checks
(R424, R427): a ROW for VLDF, a RECT for the pitched forms, no 4-bit format for the strided and indexed ones, a base and a
stride that are multiples of the element's bytes where no index is added, indexes of 16 or 32 bits, one for each element. -/
structure MemForm where
  instr : Ent → Reg → Reg → Ent → MaskNo → Instr
  addr : VAddr

/-- The bytes an element's address must be a multiple of. -/
def grain (t : Shape) : Nat := if t.fmt.width = 4 then 1 else t.fmt.width / 8

def MemForm.fits (f : MemForm) (q : Seat) (t : Shape) (vi : Option Shape) (b st : Word) : Prop :=
  match f.addr with
  | .unit => vi = none ∧ b.toNat % grain t = 0
  | .strided => vi = none ∧ t.fmt.width ≠ 4 ∧ b.toNat % grain t = 0 ∧ st.toNat % grain t = 0
  | .pitched => vi = none ∧ t.kind = .rect ∧ b.toNat % grain t = 0 ∧ st.toNat % grain t = 0
  | .indexed _ => t.fmt.width ≠ 4 ∧ ∃ ti, vi = some ti ∧ ti.count q.sr.vl = t.count q.sr.vl ∧ Holds ti q.sr.vl ∧
      (ti.fmt = .int32 ∨ ti.fmt = .uint32 ∨ ti.fmt = .int16 ∨ ti.fmt = .uint16)

def vloadForms : List MemForm :=
  [⟨fun v b _ _ m => .vld v b m, .unit⟩, ⟨fun v b st _ m => .vlds v b st m, .strided⟩,
   ⟨fun v b st _ m => .vld2 v b st m, .pitched⟩, ⟨fun v b _ vi m => .vldx v b vi 0 0 m, .indexed true⟩,
   ⟨fun v b _ vi m => .vldx v b vi 1 0 m, .indexed true⟩, ⟨fun v b _ vi m => .vldx v b vi 0 1 m, .indexed false⟩,
   ⟨fun v b _ vi m => .vldx v b vi 1 1 m, .indexed false⟩]

def vstoreForms : List MemForm :=
  [⟨fun v b _ _ m => .vst v b m, .unit⟩, ⟨fun v b st _ m => .vsts v b st m, .strided⟩,
   ⟨fun v b st _ m => .vst2 v b st m, .pitched⟩, ⟨fun v b _ vi m => .vstxO v b vi 0 0 m, .indexed true⟩,
   ⟨fun v b _ vi m => .vstxO v b vi 1 0 m, .indexed true⟩, ⟨fun v b _ vi m => .vstxO v b vi 0 1 m, .indexed false⟩,
   ⟨fun v b _ vi m => .vstxO v b vi 1 1 m, .indexed false⟩]

def scatterForms : List MemForm :=
  [⟨fun v b _ vi m => .vstxU v b vi 0 0 m, .indexed true⟩, ⟨fun v b _ vi m => .vstxU v b vi 1 0 m, .indexed true⟩,
   ⟨fun v b _ vi m => .vstxU v b vi 0 1 m, .indexed false⟩, ⟨fun v b _ vi m => .vstxU v b vi 1 1 m, .indexed false⟩]

/-- Every access of a pass is aligned, translates and meets no watchpoint: the elements with their hits, and the package with
the A and D bits set and the TLBs filled, element by element (R152, R153). -/
inductive Translates (key : Nat) (q : Seat) (k : AKind) : List EAcc → State → List EHit → State → Prop where
  | nil (s : State) : Translates key q k [] s [] s
  | cons {a : EAcc} {h : Hit} {rest : List EAcc} {hs : List EHit} {s s' t : State} : a.va.toNat % a.n = 0 →
      s.translate (q.who key) k a.va = (.ok h, s') → ({ q with noWatch := false }).watchHit a.va.toNat a.n k.writes = none →
      Translates key q k rest s' hs t → Translates key q k (a :: rest) s (⟨a, h⟩ :: hs) t

/-- The elements read one after another, each from a strip buffer of the seat or through its memory type: index, code, and
whether it had expired (R186, R167, R425). -/
inductive Fetches (key : Nat) (q : Seat) : List EHit → State → List (Nat × Nat × Bool) → State → Prop where
  | nil (s : State) : Fetches key q [] s [] s
  | cons {x : EHit} {rest : List EHit} {v : Nat} {e : Bool} {l : List (Nat × Nat × Bool)} {s s' t : State} :
      s.readElemAt key q.cin x = .ok (v, e, s') → Fetches key q rest s' l t → Fetches key q (x :: rest) s ((x.acc.i, v, e) :: l) t

/-- The bytes of a vector access, for the retired-vector ring (R294). -/
def span (l : List EAcc) : List (Nat × Nat) := l.map fun x => (x.va.toNat, x.n)

/-- How a vector access ends once its elements are performed and its entry of the retired-vector ring is tried: `p` is what
State.retire answers, which a statement of its own describes. Where the ring's page migrates the command waits in its queue,
and the seat stands as `qi` issued it (R162, R294). -/
def Retires (s : State) (key : Nat) (qi : Seat) (i : Instr) (c : Cap) (p : Perf) : Prop :=
  match p with
  | .done u => exec i s = .next u
  | _ => ∃ q'', exec i s = .next (s.setSeat key q'') ∧ q'' = { qi with pend := [c], sampleCnt := q''.sampleCnt }

/-- What completing a vector load of elements `got` leaves in the seat, VL being `vl` then (R168, R247). -/
def Loaded (q q' : Seat) (t : Shape) (got : List (Nat × Nat × Bool)) (vl : Nat) : Prop :=
  q' = { q.advance with plane := q'.plane, m := q'.m, sampleCnt := q'.sampleCnt, samples := q'.samples
                        sr := { q.advance.sr with vl := vl } } ∧
  (∀ x ∈ got, readElem q'.plane t x.1 = x.2.1 % 2 ^ t.fmt.width) ∧
  (∀ k b, b < 32 → (∀ x ∈ got, ¬ occupies t x.1 k b) → planeBit q' k b = planeBit q k b) ∧
  (∀ j, j < 4096 → ((q'.mask 0).getLsbD j = true ↔ ∃ v, (j, v, true) ∈ got)) ∧ ∀ k, k ≠ 0 → q'.mask k = q.mask k

end Sys2Proof.Claims

/-- R424, R425, R427, R168, R152: a vector load whose active elements all translate writes each one's code to vd, sets bit j of m0
where element j had expired and clears every other bit, and changes nothing else of the seat; VLDF does the same. -/
def Sys2Proof.Claims.VectorLoadsRule : Prop :=
  ∀ s key q v b st vi m td ti, q.entry v = some td → InPlane td → Holds td q.sr.vl →
    Vec s key q m (td.count q.sr.vl) →
    (∀ f ∈ vloadForms, (∀ sc, f.addr = .indexed sc → ti = q.entry vi) → f.fits q td ti (q.reg b) (q.reg st) →
      let l := elements q f.addr td ti (q.reg b) (q.reg st) m
      ∀ hs s' got t, Translates key q .vload l s hs s' → Fetches key q hs s' got t →
      got.map (·.1) = (List.range (td.count q.sr.vl)).filter (active q m) ∧
      ∃ q' c, Retires s key q.advance (f.instr v b st vi m) c ((t.setSeat key q').retire key c td q.sr.vl l.length (span l)) ∧
        c.pc = q.curPc ∧ Loaded q q' td got q.sr.vl) ∧
    (td.kind = .row → (q.reg b).toNat % grain td = 0 →
      let l := elements q .unit td none (q.reg b) 0 m
      ∀ hs s' got t, Translates key q .vload l s hs s' → Fetches key q hs s' got t →
      ∃ q' c, Retires s key q.advance (.vldf v b m) c ((t.setSeat key q').retire key c td q.sr.vl l.length (span l)) ∧
        c.pc = q.curPc ∧ Loaded q q' td got q.sr.vl)

/-- R247: a VLDF whose element k above 0 is the first to fault in translation completes with the elements below it, and sets
VL to k: no trap is taken. -/
def Sys2Proof.Claims.ShortenedLoadsRule : Prop :=
  ∀ s key q v b m td, q.entry v = some td → InPlane td → Holds td q.sr.vl → td.kind = .row → (q.reg b).toNat % grain td = 0 →
    Vec s key q m q.sr.vl → ∀ k, 0 < k → k < q.sr.vl → active q m k = true →
    let l := ((List.range k).filter (active q m)).map (element q .unit td none (q.reg b) 0)
    let a := element q .unit td none (q.reg b) 0 k
    ∀ hs s' f s'' got t, Translates key q .vload l s hs s' → s'.translate (q.who key) .vload a.va = (.fault f, s'') →
    a.va.toNat % a.n = 0 → Fetches key q hs s'' got t →
    ∃ q' c, Retires s key q.advance (.vldf v b m) c ((t.setSeat key q').retire key c td k l.length (span l)) ∧ c.pc = q.curPc ∧
      Loaded q q' td got k

/-- Vector loads, and first-fault loads that a fault shortens. -/
def Obligations.VectorLoading : Prop :=
  Claims.VectorLoadsRule ∧ Claims.ShortenedLoadsRule

namespace Sys2Proof.Claims

/-- What a vector store changes of its seat beside the position: what VSAMPLE counts. -/
def Counted (q q' : Seat) : Prop := q' = { q.advance with sampleCnt := q'.sampleCnt, samples := q'.samples }

end Sys2Proof.Claims

/-- R426, R427, R217: a vector store whose active elements all translate writes their codes in ascending order; VSTX.o writes of
elements at one address the highest, and VSTX.u exactly one of them. No register changes. -/
def Sys2Proof.Claims.VectorStoresRule : Prop :=
  ∀ s key q v b st vi m td ti, q.entry v = some td → Holds td q.sr.vl → Vec s key q m (td.count q.sr.vl) →
    (∀ f ∈ vstoreForms, (∀ sc, f.addr = .indexed sc → ti = q.entry vi) → f.fits q td ti (q.reg b) (q.reg st) →
      let l := elements q f.addr td ti (q.reg b) (q.reg st) m
      ∀ hs s', Translates key q .vstore l s hs s' →
      let kept : List EHit := match f.addr with
        | .indexed _ => hs.filter fun x => !hs.any fun y => decide (x.acc.i < y.acc.i) && y.acc.va == x.acc.va
        | _ => hs
      ∃ q' c, Retires s key q.advance (f.instr v b st vi m) c
          ((kept.foldl (fun t x => t.writeElemAt key q.cin x (readElem q.plane td x.acc.i)) (s'.setSeat key q')).retire key c td
            q.sr.vl l.length (span l)) ∧ c.pc = q.curPc ∧ Counted q q') ∧
    ∀ f ∈ scatterForms, ti = q.entry vi → f.fits q td ti (q.reg b) (q.reg st) →
      let l := elements q f.addr td ti (q.reg b) (q.reg st) m
      ∀ hs s', Translates key q .vstore l s hs s' →
      ∃ (q' : Seat) (c : Cap) (free : Nat) (kept : List EHit), Retires s key q.advance (f.instr v b st vi m) c
          ((kept.foldl (fun t x => t.writeElemAt key q.cin x (readElem q.plane td x.acc.i))
            (({ s' with freeN := free } : State).setSeat key q')).retire key c td q.sr.vl l.length (span l)) ∧ c.pc = q.curPc ∧ Counted q q' ∧
        kept.Sublist hs ∧ (∀ x ∈ hs, ∃ y ∈ kept, y.hit.pa = x.hit.pa) ∧ kept.Pairwise fun x y => x.hit.pa ≠ y.hit.pa

/-- R425, R426, R203: an element of whole bytes is written as its bytes, little-endian, through its page's memory type; a nibble
changes only its half of the byte, at the home of a fleeting tile, and in HBM in the L1, which reads the byte first; the line
leaves the seat's strip buffers. -/
def Sys2Proof.Claims.ElementStoresRule : Prop :=
  ∀ (s : State) key q (x : EHit) v, s.seat key = some q →
    (x.acc.nib = none → s.writeElemAt key q.cin x v =
      (s.write (coreOf key) q.cin x.hit (leBytes x.acc.n v)).setSeat key (q.dropStrip x.hit.mt x.hit.pa)) ∧
    (∀ k, k < 2 → x.acc.nib = some k → x.hit.mt = 1 → Memory.wf s.mem = true →
      let old := (memGet s.mem x.hit.pa).toNat
      memGet (s.writeElemAt key q.cin x v).mem x.hit.pa =
        BitVec.ofNat 8 (if k = 0 then old / 16 * 16 + v % 16 else old % 16 + 16 * (v % 16)) ∧
      ∀ pa, pa ≠ x.hit.pa → memGet (s.writeElemAt key q.cin x v).mem pa = memGet s.mem pa) ∧
    (∀ k, k < 2 → x.acc.nib = some k → x.hit.mt = 0 →
      let old := match held s (coreOf key) q.cin x.hit.pa with | some (b, _) => b.toNat | none => (memGet s.mem x.hit.pa).toNat
      let new : Byte := BitVec.ofNat 8 (if k = 0 then old / 16 * 16 + v % 16 else old % 16 + 16 * (v % 16))
      ∃ t, (s.setSeat key (q.dropStrip x.hit.mt x.hit.pa)).read (coreOf key) q.cin x.hit 1 = .ok ⟨[BitVec.ofNat 8 old], false, t⟩ ∧
        s.writeElemAt key q.cin x v = t.write (coreOf key) q.cin x.hit [new] ∧ t.mem = s.mem ∧
        (s.writeElemAt key q.cin x v).mem = s.mem ∧
        ∀ pa, held (s.writeElemAt key q.cin x v) (coreOf key) q.cin pa =
          if pa = x.hit.pa then some (new, true) else held t (coreOf key) q.cin pa)

/-- Vector stores, element by element.
The model's choices that it rests on: assumption 44. -/
def Obligations.VectorStoring : Prop :=
  Claims.VectorStoresRule ∧ Claims.ElementStoresRule

/-- R294: with RVBASE 0 a vector access is not recorded; otherwise, while TRCCTL.ERR is 0, a 32-byte entry is written at RVBASE
+ 32 × (RVCNT mod 256) through the seat's context and RVCNT counts one up; a write that faults sets TRCCTL.ERR, and nothing is
written while that is 1. While the entry's page migrates the access waits. The model's choice for a POP that its field cannot
hold is 8191 (assumption 28). -/
def Sys2Proof.Claims.RetiredRingRule : Prop :=
  ∀ (s : State) key q c t vl pop l, s.seat key = some q →
    (q.sr.rvbase = 0 → s.retire key c t vl pop l = .done s) ∧
    (q.sr.rvbase ≠ 0 → q.sr.trcErr = true → s.retire key c t vl pop l =
      .done (({ s with freeN := s.freeN + 1 } : State).setSeat key { q with sr := { q.sr with rvcnt := q.sr.rvcnt + 1 } })) ∧
    (q.sr.rvbase ≠ 0 → q.sr.trcErr = false → ∀ x s',
      ({ s with freeN := s.freeN + 1 } : State).translate (q.engine key) .estore
        ((q.sr.rvbase ++ 0#13) + BitVec.ofNat 64 (32 * (q.sr.rvcnt.toNat % 256))) = (x, s') →
      (∀ h, x = .ok h → ∃ bs : List Byte, bs.length = 32 ∧
        s.retire key c t vl pop l = .done ((s'.homePut h.pa bs).setSeat key { q with sr := { q.sr with rvcnt := q.sr.rvcnt + 1 } }) ∧
        bs.take 16 = leBytes 8 (vl + (t.fmt.width.log2 - 2) * 2 ^ 13 + min pop 8191 * 2 ^ 16) ++ leBytes 8 c.pc.toNat) ∧
      (∀ f, x = .fault f → s.retire key c t vl pop l =
        .done (s'.setSeat key { q with sr := { q.sr with rvcnt := q.sr.rvcnt + 1, trcErr := true } })) ∧
      (x = .wait → s.retire key c t vl pop l = .wait))

/-- R413, R414: VAPPEND adds the number of its active elements to TAIL in one atomic, adds to DROP the slots at CAP or beyond it,
and writes the elements, in order, to the slots below CAP from the old TAIL on, 64 bytes behind the header; with no active
element it does nothing. STATUS.EXP is set where the header's tile had expired (R167). -/
def Sys2Proof.Claims.AppendsRule : Prop :=
  ∀ s key q a b x m ta, q.entry a = some ta → Holds ta q.sr.vl → ta.fmt.width ≠ 4 → Vec s key q m (ta.count q.sr.vl) →
    (q.reg b).toNat % 64 = 0 →
    let act := (List.range (ta.count q.sr.vl)).filter (active q m)
    let e := ta.fmt.width / 8
    let slots := fun tail cap => ((act.zipIdx).filter fun j => decide (tail + j.2 < cap)).map fun j =>
      (⟨j.1, q.reg b + BitVec.ofNat 64 (64 + (tail + j.2) * e), e, none⟩ : EAcc)
    (act = [] → ∃ q' c, Retires s key q.advance (.vappend a b x m) c ((s.setSeat key q').retire key c ta q.sr.vl 0 []) ∧
      c.pc = q.curPc ∧ Counted q q') ∧
    (act ≠ [] → ∀ h s', s.translate (q.who key) .atomic (q.reg b) = (.ok h, s') →
      let u := s'.flushInval (coreOf key) q.cin h.pa
      ({ q with noWatch := false }).headerWatch (q.reg b) (decide (0 < u.refused h act.length)) = none →
      ∀ tail cap exp s'' hs t, u.reserve q.cin (dieOf key) h act.length = (tail, cap, exp, s'') →
      Translates key q .vstore (slots tail cap) s'' hs t →
      ∃ q' c, Retires s key q.advance (.vappend a b x m) c
          ((hs.foldl (fun t x => t.writeElemAt key q.cin x (readElem q.plane ta x.acc.i))
            (t.setSeat key { q'.dropStrip h.mt h.pa with status := { q.status with exp := q.status.exp || exp } })).retire key c ta
              q.sr.vl act.length (span (slots tail cap))) ∧ c.pc = q.curPc ∧ Counted q q') ∧
    ∀ (u : State) cin die (h : Hit) n, h.mt = 0 → Memory.wf u.mem = true → 0 < n →
      let old := fun k => leNat (memBytes u.mem (h.pa + k) 4)
      let r := u.reserve cin die h n
      r.1 = old 0 ∧ r.2.1 = old 4 ∧ r.2.2.1 = false ∧ leNat (memBytes r.2.2.2.mem h.pa 4) = (old 0 + n) % 2 ^ 32 ∧
      leNat (memBytes r.2.2.2.mem (h.pa + 4) 4) = old 4 ∧
      leNat (memBytes r.2.2.2.mem (h.pa + 8) 4) = (old 8 + (n - (old 4 - old 0))) % 2 ^ 32

/-- The retired-vector ring, and VAPPEND.
The model's choices that it rests on: assumptions 28, 44. -/
def Obligations.RetiringAndAppending : Prop :=
  Claims.RetiredRingRule ∧ Claims.AppendsRule

/-- R190, R153, R350, R191: CPIX takes its tag, translates its elements, writes to md the elements whose address an earlier one
has, and leaves the gather of vd to the background, with the elements below the first fault where the probe pass found them;
with VL 0 it sets the tag at once. -/
def Sys2Proof.Claims.IndexedGatherRule : Prop :=
  ∀ s key q d a b m (tag : BitVec 6) td ta, q.entry d = some td → q.entry a = some ta → td.kind = .row → ta.kind = .row →
    Holds td q.sr.vl → Holds ta q.sr.vl → td.fmt.width ≠ 4 → tag ≠ 63 →
    (ta.fmt = .int32 ∨ ta.fmt = .uint32 ∨ ta.fmt = .int16 ∨ ta.fmt = .uint16) →
    Clear s key q → tag.toNat ∉ q.tagsOut →
    let l := (List.range q.sr.vl).map fun j => (⟨j, q.reg b + low 64 (intValue ta.fmt (readElem q.plane ta j) * (td.fmt.width / 8 : Nat)),
      td.fmt.width / 8, none⟩ : EAcc)
    ∀ p, passOver key q { q.capture (.cpix d a b m tag) (.cpix m tag.toNat) .v with unwatched := true } .vload true l s = p → p.wait = false →
    let count := match p.bad with | some x => x.1 | none => l.length
    ∃ q' c, Retires s key (q.advance.takeTag tag.toNat) (.cpix d a b m tag) c
        ((p.st.setSeat key q').retire key c td q.sr.vl l.length (span l)) ∧
      c.pc = q.curPc ∧ c.cmd = .cpix m tag.toNat ∧ c.d = some td ∧
      q' = { q.advance with
        m := q'.m, sampleCnt := q'.sampleCnt, samples := q'.samples
        tags := if l = [] then q.tags ||| (1#64 <<< tag.toNat) else q.tags &&& ~~~(1#64 <<< tag.toNat)
        tagfault := q.tagfault &&& ~~~(1#64 <<< tag.toNat)
        tagsOut := if l = [] then q.tagsOut else q.tagsOut ++ [tag.toNat]
        gathers := if l = [] then [] else [⟨c, (p.hits.filter fun x => decide (x.acc.i < count)).map fun x =>
          (x.hit.pa, x.hit.mt, x.hit.plc, x.hit.frame), count, p.bad.map fun x => (x.2.code, x.2.detail, x.1)⟩] } ∧
      (∀ k, k ≠ m ∨ m = 0 → q'.mask k = q.mask k) ∧
      (m ≠ 0 → ∀ j, j < 4096 → ((q'.mask m).getLsbD j = true ↔ ∃ i w v, i < j ∧ l[i]? = some w ∧ l[j]? = some v ∧ w.va = v.va))

/-! ### Matrix instructions -/

namespace Sys2Proof.Claims

/-- The stationary tile that row-steps read, and the buffer that loads fill (R118, R123): a single seat has two buffers, a
dual seat one that is both. -/
def activeBuf (q : Seat) : Fin 2 := if q.single = true ∧ q.active = true then 1 else 0
def shadowBuf (q : Seat) : Fin 2 := if q.single = true ∧ q.active = false then 1 else 0

/-- The activations of row h: element k of the row, scaled by MXSA's block scale for MXFP4, and 0 beyond the row's w elements
(R125, R126, R127). -/
def activations (q : Seat) (t : Tile) (ta : Shape) (scales : Option Shape) (h w : Nat) : List Machine.Num :=
  (List.range t.k).map fun k =>
    let code := readElem q.plane ta (h * w + k)
    if w ≤ k then .zero false else
    match (if ta.fmt = .mxfp4 then scales else none) with
    | some ts => (mulNum (floatValue .mxfp4 code) (e8m0Value (readElem q.plane ts (h * (t.k / 32) + k / 32)))).1
    | none => if ta.fmt.cls = .integer then .ofInt (intValue ta.fmt code) else floatValue ta.fmt code

/-- Column n of the row-step of row h onto accumulator row r: the FP32 code and its flags (R125). -/
def column (q : Seat) (t : Tile) (ta : Shape) (scales : Option Shape) (ctl : BitVec 2) (h w r n : Nat) : Nat × Flags :=
  rowCol t (if ctl = 0 then .zero else if ctl = 1 then .acc else if ctl = 2 then .decay else .sub) q.sr.decay (noSr q.sr.mode)
    (activations q t ta scales h w) (readAcc q.acc r n) n

/-- The conditions of a row-step on `h` rows from accumulator row p on, of at most `w` columns (R379, R119, Table 5.3). -/
structure Steps (q : Seat) (ta : Shape) (t : Tile) (p : BitVec 9) (h : Nat) : Prop where
  window : p.toNat + h ≤ if q.single then 512 else 256
  tile : q.buf[activeBuf q] = some t
  pairing : pairs ta.fmt t.mode t.fmt = true
  scales : ta.fmt = .mxfp4 → ∃ ts, q.entry q.sr.mxsa = some ts ∧ ts.fmt = .e8m0 ∧ h * (t.k / 32) ≤ ts.cap

/-- Accumulator rows r to r + h − 1 hold `v`, and every other element is as before. -/
def AccRows (q q' : Seat) (r h cols : Nat) (v : Nat → Nat → Nat) : Prop :=
  (∀ i n, i < h → n < cols → readAcc q'.acc (r + i) n = v i n % 2 ^ 32) ∧
  ∀ x n, n < 128 → (x < r ∨ r + h ≤ x ∨ cols ≤ n) → readAcc q'.acc x n = readAcc q.acc x n

/-- The flags of all those columns are ORed into EXCFLAGS, or none of them is an enabled condition. -/
def AccRaises (q q' : Seat) (h cols : Nat) (f : Nat → Nat → Flags) : Prop :=
  ∀ b, b < 5 → (q'.sr.excflags.getLsbD b = true ↔
    q.sr.excflags.getLsbD b = true ∨ ∃ i n, i < h ∧ n < cols ∧ (f i n).getLsbD b = true)
def AccQuiet (q : Seat) (h cols : Nat) (f : Nat → Nat → Flags) : Prop :=
  ∀ i n, i < h → n < cols → f i n &&& q.sr.excen &&& 0x1C#5 = 0

/-- MSEQ.ACT behind an MMT or LDST that has completed: a replay goes on or stands stopped, or another of them does (Table 5.6). -/
def stays (q : Seat) : Bool := q.advance.replay.isSome || q.replaySaved.isSome || q.mxStopped

/-- A matrix command completes and changes the accumulator and EXCFLAGS of its seat, and nothing else. -/
def Accumulates (s : State) (key : Nat) (q : Seat) (i : Instr) (r h cols : Nat) (v : Nat → Nat → Nat × Flags) : Prop :=
  ∃ q', exec i s = .next (s.setSeat key q') ∧
    q' = { q.advance with acc := q'.acc, sr := { q.advance.sr with excflags := q'.sr.excflags } } ∧
    AccRows q q' r h cols (fun i n => (v i n).1) ∧ AccRaises q q' h cols (fun i n => (v i n).2)

/-- The exact sum of a list of numbers (R90, R125): a NaN among them, or infinities of both signs, make a NaN; an exact zero is +0,
or −0 under RDN, where the terms are not all zeros of one sign. -/
def IsTotal (mode : Rm) (l : List Machine.Num) (x : Machine.Num) : Prop :=
  if l.any Machine.Num.isNan = true ∨ (.inf true ∈ l ∧ .inf false ∈ l) then x = .nan false
  else if .inf true ∈ l then x = .inf true
  else if .inf false ∈ l then x = .inf false
  else ∃ g : Int, (∀ s m e st, Machine.Num.fin s m e st ∈ l → g ≤ e) ∧
    let t := (l.map (units g)).sum
    x = if t ≠ 0 then .fin (decide (t < 0)) t.natAbs g false
      else if l ≠ [] ∧ ∀ y ∈ l, y = .zero false then .zero false
      else if l ≠ [] ∧ ∀ y ∈ l, y = .zero true then .zero true
      else .zero (decide (mode = .rdn))

/-- One column of a row-step from its terms (R125): old, D × old or nothing is added, the terms are subtracted for SUB, and the exact sum is rounded
once to FP32. NV is raised by a zero times an infinity, a signalling operand, and infinities of both signs. -/
def ColumnOf (ctl : AccCtl) (decay : BitVec 32) (mode : Rm) (old : Nat) (terms : List Machine.Num) (nv : Bool) (r : Nat × Flags) : Prop :=
  let o := floatValue .fp32 old
  let d := floatValue .fp32 decay.toNat
  let l := match ctl with
    | .zero => terms
    | .acc => terms ++ [o]
    | .sub => terms.map Machine.Num.flip ++ [o]
    | .decay => terms ++ [product d o]
  let own := match ctl with
    | .zero => false
    | .decay => o.isSnan || d.isSnan || zeroInf d o
    | _ => o.isSnan
  ∃ x, IsTotal mode l x ∧
    r = withNv (nv || own || (l.any (· == .inf true) && l.any (· == .inf false))) (deliver x .fp32 ⟨mode, 0, false⟩ 0)

/-- The code of a weight of a tile. -/
def weightCode (t : Tile) (k n : Nat) : Nat := (mapGet 0#32 t.codes (128 * k + n)).toNat

/-- A seat whose accumulator is in its canonical form. -/
structure Mx (s : State) (key : Nat) (q : Seat) : Prop extends Clear s key q where
  acc : mapWf 0#32 q.acc = true

end Sys2Proof.Claims

/-- R120, R121, R125: a column's dot is the exact sum of the products of the activations and the weights of its column, and of integer
pairings one integer; a weight is its code's value, a code less its zero point times the scale of its group, or a code times its
power of two, and 0 in a row that was not loaded. That a zero difference counts as +0 is the model's choice (assumption 67). -/
def Sys2Proof.Claims.ColumnSumsRule : Prop :=
  ∀ (t : Tile) ctl decay mode (acts : List Machine.Num) old n,
    let w := fun k => t.weight k n
    (t.integer = false → ColumnOf ctl decay mode old (acts.zipIdx.map fun x => product x.1 (w x.2).1)
      (acts.zipIdx.any fun x => x.1.isSnan || zeroInf x.1 (w x.2).1 || (w x.2).2 != 0) (rowCol t ctl decay mode acts old n)) ∧
    (t.integer = true → ∀ v : List Int, acts = v.map Machine.Num.ofInt →
      ColumnOf ctl decay mode old
        [Machine.Num.ofInt (v.zipIdx.map fun x => if x.2 < t.rows then x.1 * intValue t.fmt (weightCode t x.2 n) else 0).sum]
        false (rowCol t ctl decay mode acts old n)) ∧
    ∀ k, (t.rows ≤ k → w k = (.zero false, 0)) ∧
      (k < t.rows → (t.mode = .dense ∨ t.mode = .diagonal) → t.fmt ≠ .mxfp4 → t.fmt.cls ≠ .special →
        w k = if t.fmt.cls = .integer then (.ofInt (intValue t.fmt (weightCode t k n)), 0)
          else (floatValue t.fmt (weightCode t k n), if (floatValue t.fmt (weightCode t k n)).isSnan then 0x10#5 else 0)) ∧
      (k < t.rows → (t.mode = .dense ∨ t.mode = .diagonal) → t.fmt = .mxfp4 →
        w k = (product (floatValue .mxfp4 (weightCode t k n)) (e8m0Value (mapGet 0#32 t.scales (128 * (k / 32) + n)).toNat), 0)) ∧
      (k < t.rows → (t.mode = .grouped ∨ t.mode = .grouped2) →
        let q := (mapGet 0#32 t.scales (128 * (k / t.g) + n)).toNat
        let s := floatValue .fp16 (q / 65536)
        let d := Machine.Num.ofInt (intValue t.fmt (weightCode t k n) - (q % 65536 : Nat))
        w k = (product d s, if zeroInf d s || s.isSnan then 0x10#5 else 0))

/-- R125, R126, R127, R379, Table 5.1: MMR performs one row-step, of a ROW's elements padded with zeros, and MMT one for each row
of a RECT; each column is rounded once, and its flags are raised; MMT leaves MSEQ.ACT to a replay, or to another MMT or LDST, that is in progress or stopped. -/
def Sys2Proof.Claims.RowStepsRule : Prop :=
  ∀ s key q, Mx s key q → ∀ a (p : BitVec 9) (c : BitVec 2) x ta t, q.entry a = some ta →
    (ta.kind = .row → Steps q ta t p 1 →
      let v := fun i n => column q t ta (q.entry q.sr.mxsa) c i (min t.k ta.cap) (p.toNat + i) n
      AccQuiet q 1 128 (fun i n => (v i n).2) → Accumulates s key q (.mmr a p c x) p.toNat 1 128 v) ∧
    (ta.kind = .rect → ta.w ≤ t.k → Steps q ta t p ta.h →
      let v := fun i n => column q t ta (q.entry q.sr.mxsa) c i ta.w (p.toNat + i) n
      AccQuiet q ta.h 128 (fun i n => (v i n).2) →
      ∃ q' row, exec (.mmt a p c x) s = .next ({ s with freeN := s.freeN + 1 }.setSeat key q') ∧
        q' = { q.advance with acc := q'.acc, sr := { q.advance.sr with
          excflags := q'.sr.excflags, mseqAct := stays q, mseqRow := row } } ∧
        AccRows q q' p.toNat ta.h 128 (fun i n => (v i n).1) ∧ AccRaises q q' ta.h 128 (fun i n => (v i n).2))

/-- R128, R246: an MMT whose row-step h is the first to raise an enabled condition has written the rows before it and none from
it on; it records h in MSEQ.ROW and ESHAPE.ELEM with MSEQ.ACT 1, ORs into EXCFLAGS the flags of the rows before it and the enabled conditions of its own, and
takes a late ARITH trap with those in EVAL, set aside to go on there. -/
def Sys2Proof.Claims.RowStepStopsRule : Prop :=
  ∀ s key q, Mx s key q → ∀ a (p : BitVec 9) (c : BitVec 2) x ta t, q.entry a = some ta → ta.kind = .rect → ta.w ≤ t.k →
    Steps q ta t p ta.h →
    let v := fun i n => column q t ta (q.entry q.sr.mxsa) c i ta.w (p.toNat + i) n
    ∀ h n, h < ta.h → n < 128 → AccQuiet q h 128 (fun i n => (v i n).2) → (v h n).2 &&& q.sr.excen &&& 0x1C#5 ≠ 0 →
    ∃ q' k, ∃ en : Flags, exec (.mmt a p c x) s = .next ((s.setSeat key q').takeTrap key ⟨codeArith, 0, en.setWidth 64, q.curPc⟩ true false) ∧
      (∀ b, b < 5 → (en.getLsbD b = true ↔ ∃ n, n < 128 ∧ ((v h n).2 &&& q.sr.excen &&& 0x1C#5).getLsbD b = true)) ∧
      q' = { q.advance with acc := q'.acc, aside := q.aside ++ [k], sr := { q.advance.sr with
        excflags := q'.sr.excflags, mseqAct := true, mseqRow := BitVec.ofNat 11 h
        eshElem := BitVec.ofNat 32 h, eshPart := false, eshEnt := a } } ∧
      AccRows q q' p.toNat h 128 (fun i n => (v i n).1) ∧
      (∀ b, b < 5 → (q'.sr.excflags.getLsbD b = true ↔ q.sr.excflags.getLsbD b = true ∨ en.getLsbD b = true ∨
        ∃ i n, i < h ∧ n < 128 ∧ (v i n).2.getLsbD b = true)) ∧
      k.partial_ = true ∧ k.row = h ∧ k.pc = q.curPc

/-- The row-steps of the matrix array, and where they stop.
The model's choices that it rests on: assumptions 43, 67, 68. -/
def Obligations.MatrixSteps : Prop :=
  Claims.ColumnSumsRule ∧ Claims.RowStepsRule ∧ Claims.RowStepStopsRule

/-- R129, R130, R131, R334 to R337: ACCRD converts accumulator elements into vd's format, in MODE's rounding or its own; ACCWR writes
va's elements as FP32 and ACCWR.a adds them; ACCSC multiplies n rows by DECAY; ACCZ writes zeros. -/
def Obligations.AccumulatorMoves : Prop :=
  ∀ s key q, Mx s key q → ∀ (p : BitVec 9),
    (∀ d td, q.entry d = some td → td.kind = .rect → td.w ≤ 128 → p.toNat + td.h ≤ (if q.single then 512 else 256) →
      td.fmt.cls ≠ .special → InPlane td → mapWf 0#32 q.plane = true →
      let v := fun rm j => convert .fp32 td.fmt (readAcc q.acc (p.toNat + j / td.w) (j % td.w)) { env q with mode := rm }
        (q.sr.stripbase + BitVec.ofNat 64 j)
      let done := fun i rm => Quiet q (td.h * td.w) (fun _ => true) (fun j => (v rm j).2) →
        ∃ q', exec i s = .next (s.setSeat key q') ∧
          q' = { q.advance with plane := q'.plane, sr := { q.advance.sr with excflags := q'.sr.excflags } } ∧
          Written q q' td (td.h * td.w) (fun _ => true) (fun j => (v rm j).1) ∧
          Raises q q' (td.h * td.w) (fun _ => true) (fun j => (v rm j).2)
      done (.accrd d p) q.sr.mode ∧ done (.accrdRm d p 0) .rne ∧ done (.accrdRm d p 1) .rtz ∧ done (.accrdRm d p 2) .rdn ∧
        done (.accrdRm d p 3) .rup ∧ done (.accrdRm d p 4) .sr ∧ done (.accrdRm d p 5) .rna) ∧
    (∀ a x ta, q.entry a = some ta → ta.kind = .rect → ta.w ≤ 128 → p.toNat + ta.h ≤ (if q.single then 512 else 256) →
      (ta.fmt = .fp32 ∨ ta.fmt = .bf16 ∨ ta.fmt = .fp16 ∨ ta.fmt = .e4m3 ∨ ta.fmt = .e5m2) →
      let e : RoundEnv := ⟨noSr q.sr.mode, 0, false⟩
      let y := fun i n => floatValue ta.fmt (readElem q.plane ta (i * ta.w + n))
      let old := fun i n => floatValue .fp32 (readAcc q.acc (p.toNat + i) n)
      let put := fun i n => ((deliver (y i n) .fp32 e 0).1, (deliver (y i n) .fp32 e 0).2 ||| snanFlag [y i n])
      let sum := fun i n => ((deliver (addNum e.mode (old i n) (y i n)).1 .fp32 e 0).1,
        (addNum e.mode (old i n) (y i n)).2 ||| (deliver (addNum e.mode (old i n) (y i n)).1 .fp32 e 0).2)
      (AccQuiet q ta.h ta.w (fun i n => (put i n).2) → Accumulates s key q (.accwr a p x) p.toNat ta.h ta.w put) ∧
      (AccQuiet q ta.h ta.w (fun i n => (sum i n).2) → Accumulates s key q (.accwrA a p x) p.toNat ta.h ta.w sum)) ∧
    ∀ k : BitVec 6, p.toNat + (k.toNat + 1) ≤ (if q.single then 512 else 256) →
      let e : RoundEnv := ⟨noSr q.sr.mode, 0, false⟩
      let d := floatValue .fp32 q.sr.decay.toNat
      let old := fun i n => floatValue .fp32 (readAcc q.acc (p.toNat + i) n)
      let sc := fun i n => ((deliver (mulNum d (old i n)).1 .fp32 e 0).1,
        (mulNum d (old i n)).2 ||| (deliver (mulNum d (old i n)).1 .fp32 e 0).2 ||| snanFlag [d, old i n])
      (AccQuiet q (k.toNat + 1) 128 (fun i n => (sc i n).2) → Accumulates s key q (.accsc k p) p.toNat (k.toNat + 1) 128 sc) ∧
      Accumulates s key q (.accz k p) p.toNat (k.toNat + 1) 128 (fun _ _ => (0, 0))

namespace Sys2Proof.Claims

/-- The mode of a stationary tile (Table 5.1). -/
def modeOf (g : BitVec 2) : TileMode := if g = 0 then .dense else if g = 1 then .grouped else if g = 2 then .grouped2 else .diagonal

/-- What an LDST needs (R371): a mode and a format of Table 5.2, with its K; no second operand for a dense tile without scales;
tile and scales on 64-byte boundaries; and for a diagonal tile the parameters of R137. -/
structure LoadsTile (q : Seat) (a b : Reg) (g : BitVec 2) (f : Fmt) (k : Nat) : Prop where
  form : tileK (modeOf g) f = some k
  plain : modeOf g = .dense → f ≠ .mxfp4 → b = 0
  tile : (q.reg a).toNat % 64 = 0
  scales : modeOf g = .grouped ∨ modeOf g = .grouped2 ∨ f = .mxfp4 → (q.reg b).toNat % 64 = 0
  taps : modeOf g = .diagonal → diagOk k (q.reg b) = true

end Sys2Proof.Claims

/-- R118, R120, R122, R123, R371, R372, R404: LDST loads the shadow buffer from memory, row by row, through the seat's context
without its core's caches, and sets LDSTLEN to K; a row that faults stops the plain form, and either form in row 0: the rows before
it are in the buffer, MSEQ names it, and the fault is taken late, to go on there; LDST.ff keeps the rows before one that faults; LDSTP copies a RECT of the
plane; SWST makes the shadow buffer of a single seat the active one, and does nothing in a dual seat.
The model's choices that it rests on: assumption 43. -/
def Obligations.StationaryTiles : Prop :=
  ∀ s key q, Clear s key q →
    (∀ a b (ff : Bit) g (tc : BitVec 4) f k, Fmt.ofCode tc.toNat = some f → LoadsTile q a b g f k →
      let c := { q.capture (.ldst a b ff g tc) (.ldst (ff == 1) (modeOf g) (blockSize q.sr.qblk) f) .m with x := q.reg a, y := q.reg b }
      ∀ t e s', (loadRows (q.engine key) c (List.range k) ⟨f, modeOf g, k, blockSize q.sr.qblk, 0, [], []⟩ s = (t, none, e, s') ∨
          ∃ r x, ff = 1 ∧ 0 < r ∧ loadRows (q.engine key) c (List.range k) ⟨f, modeOf g, k, blockSize q.sr.qblk, 0, [], []⟩ s =
            (t, some (r, x), e, s')) →
      ∃ row, exec (.ldst a b ff g tc) s = .next ({ s' with freeN := s'.freeN + 1 }.setSeat key { q.advance with
        buf := q.buf.set (shadowBuf q) (some t)
        status := { q.status with exp := q.status.exp || e }
        sr := { q.advance.sr with
          ldstlen := BitVec.ofNat 11 (match (loadRows (q.engine key) c (List.range k) ⟨f, modeOf g, k, blockSize q.sr.qblk, 0, [], []⟩ s).2.1 with
            | some x => x.1
            | none => k)
          mseqAct := stays q, mseqRow := row } })) ∧
    (∀ a b (ff : Bit) g (tc : BitVec 4) f k, Fmt.ofCode tc.toNat = some f → LoadsTile q a b g f k →
      let c := { q.capture (.ldst a b ff g tc) (.ldst (ff == 1) (modeOf g) (blockSize q.sr.qblk) f) .m with x := q.reg a, y := q.reg b }
      ∀ t r x e s', ff = 0 ∨ r = 0 →
        loadRows (q.engine key) c (List.range k) ⟨f, modeOf g, k, blockSize q.sr.qblk, 0, [], []⟩ s = (t, some (r, x), e, s') →
        s.hostPage q ⟨x.f.code, x.f.detail, x.va, q.curPc⟩ = false →
      ∃ y, exec (.ldst a b ff g tc) s = .next ((s'.setSeat key { q.advance with
          buf := q.buf.set (shadowBuf q) (some t)
          aside := q.aside ++ [y]
          status := { q.status with exp := q.status.exp || e }
          sr := { q.advance.sr with mseqAct := true, mseqRow := BitVec.ofNat 11 r } }).takeTrap key
            ⟨x.f.code, x.f.detail, x.va, q.curPc⟩ true false) ∧
        y.cmd = c.cmd ∧ y.pc = q.curPc ∧ y.x = q.reg a ∧ y.y = q.reg b ∧ y.partial_ = true ∧ y.row = r) ∧
    (∀ a x ta k, q.entry a = some ta → ta.kind = .rect → ta.fmt ≠ .mxfp4 → tileK .dense ta.fmt = some k → ta.h ≤ k → ta.w ≤ 128 →
      ∃ t, exec (.ldstp a x) s = .next (s.setSeat key { q.advance with buf := q.buf.set (shadowBuf q) (some t) }) ∧
        t.fmt = ta.fmt ∧ t.mode = .dense ∧ t.k = k ∧ t.rows = k ∧ t.scales = [] ∧
        ∀ i n, i < 1024 → n < 128 → (mapGet 0#32 t.codes (128 * i + n)).toNat =
          if i < ta.h ∧ n < ta.w then readElem q.plane ta (i * ta.w + n) else 0) ∧
    (q.single = true → exec .swst s = .next (s.setSeat key { q.advance with active := !q.active })) ∧
    (q.single = false → Passes s key q .swst)

/-! ### Copy commands, engines and routines -/

namespace Sys2Proof.Claims

/-- The descriptor of Table 8.1 and Table 8.2: what software writes, and the last 16 bytes, which are the engine's. -/
structure Desc where
  src : Word
  dst : Word
  sstr : BitVec 32
  dstr : BitVec 32
  sfmt : Fmt
  dfmt : Fmt
  kind : BitVec 2
  conv : Bool
  rm : BitVec 3
  tag : BitVec 6
  ocv : Bool
  octag : BitVec 6
  routine : Word
  rarg : Word

/-- Its control word, from bit 0 up: three zeros, SFMT, DFMT, KIND, CONV, RM, TAG, OCV, OCTAG. -/
def Desc.control (d : Desc) : BitVec 32 :=
  d.octag ++ BitVec.ofBool d.ocv ++ d.tag ++ d.rm ++ BitVec.ofBool d.conv ++ d.kind ++ BitVec.ofNat 5 d.dfmt.code ++
    BitVec.ofNat 5 d.sfmt.code ++ 0#3

def Desc.bytes (d : Desc) (rest : List Byte) : List Byte :=
  leBytes 8 d.src.toNat ++ leBytes 8 d.dst.toNat ++ leBytes 4 d.sstr.toNat ++ leBytes 4 d.dstr.toNat ++ leBytes 4 d.control.toNat ++
    leBytes 4 0 ++ leBytes 8 d.routine.toNat ++ leBytes 8 d.rarg.toNat ++ rest

/-- The rounding mode of the descriptor; 6 is the seat's (Table 8.2). -/
def Desc.mode (d : Desc) (q : Seat) : Option Rm :=
  match d.rm.toNat with
  | 0 => some .rne | 1 => some .rtz | 2 => some .rdn | 3 => some .rup | 4 => some .rna | 5 => some .sr | 6 => some q.sr.mode | _ => none

/-- The transfer it describes for a seat, of AVL elements, bytes or tiles (R182 to R184). -/
def Desc.xfer (d : Desc) (q : Seat) (desc avl : Word) (m : Rm) : Xfer where
  avl := avl.toNat
  desc := desc
  src := d.src
  dst := d.dst
  sstr := d.sstr.toInt
  dstr := d.dstr.toInt
  sfmt := d.sfmt
  dfmt := d.dfmt
  conv := d.conv
  rm := m
  ovfns := q.sr.ovfns
  tag := d.tag.toNat
  octag := if d.ocv then some d.octag.toNat else none
  routine := d.routine
  rarg := d.rarg
  maxvl := q.sr.maxvl
  seed := q.sr.seed

/-- What every descriptor must satisfy (R183, R346). -/
def Desc.common (d : Desc) (avl : Word) : Prop :=
  avl.toNat < 2 ^ 32 ∧ d.tag ≠ 63 ∧ d.octag ≠ 63 ∧ (d.ocv = false → d.octag = 0) ∧ (d.ocv = true → d.octag ≠ d.tag)

/-- A prefetch has no destination and no conversion; a copy moves one format, or converts between plain formats, or through
the VI's table into a 16-bit format; a routine and an image move bytes (Table 8.2, R346). -/
def Desc.isPrefetch (d : Desc) : Prop :=
  d.kind = 0 ∧ d.dst = 0 ∧ d.dstr = 0 ∧ d.dfmt = .fp32 ∧ d.conv = false ∧ d.rm = 0 ∧ d.routine = 0 ∧ d.rarg = 0 ∧ d.sfmt.width ≠ 4
def Desc.isCopy (d : Desc) : Prop :=
  d.kind = 1 ∧ d.routine = 0 ∧ d.rarg = 0 ∧ (d.sfmt.width = 4 → d.sstr = 0) ∧ (d.dfmt.width = 4 → d.dstr = 0) ∧
    if d.conv then d.sfmt = .tbl8 ∧ d.dfmt.width = 16
    else d.sfmt = d.dfmt ∨ d.sfmt.cls ≠ .special ∧ d.dfmt.cls ≠ .special
def Desc.isBytes (d : Desc) : Prop :=
  d.kind = 1 ∧ d.sfmt = .fp32 ∧ d.dfmt = .fp32 ∧ d.sstr = 0 ∧ d.dstr = 0 ∧ d.conv = false ∧ d.rm = 0
def Desc.isRoutine (d : Desc) : Prop := d.isBytes ∧ d.routine ≠ 0
def Desc.isImage (d : Desc) : Prop := d.isBytes ∧ d.routine = 0 ∧ d.rarg = 0 ∧ d.dst.toNat % 256 = 0

/-- The tags a command takes: they are cleared, with their fault bits, and outstanding (R191). -/
def takes (q : Seat) (tags : List Nat) : Seat :=
  tags.foldl (fun q t => { q with tags := q.tags &&& ~~~(1#64 <<< t), tagfault := q.tagfault &&& ~~~(1#64 <<< t)
                                  tagsOut := q.tagsOut ++ [t] }) q

/-- The seat behind a copy command: its tags taken, STATUS.EXP as the descriptor's read leaves it. -/
def afterCopy (q : Seat) (x : Xfer) (e : Bool) : Seat :=
  { takes q.advance (x.tag :: x.octag.toList) with status := { q.status with exp := q.status.exp || e } }

/-- A command that has reached its channel's engine and has not begun (R181, R185). -/
def Begun (a : Active) (x : Xfer) (now : Nat) : Prop :=
  a.cap.cmd.xfer = some x ∧ a.done = 0 ∧ a.left = x.avl ∧ a.lines = [] ∧ a.taken = 0 ∧ a.consumed = false ∧ a.ran = false ∧
    a.err = none ∧ a.since = now ∧ a.routine = none

/-- A seat that issues a copy command on channel `ch`, free of any other, with a descriptor at `d` that reads as `bytes`; `t` is
the package after that load. -/
structure Copies (s : State) (key : Nat) (q : Seat) (ch : Fin 4) (d avl : Word) (x : Xfer) (bytes : List Byte) (e : Bool) (t : State) :
    Prop extends Clear s key q where
  channel : q.chan[ch] = none
  tags : x.tag ∉ q.tagsOut ∧ ∀ o, x.octag = some o → o ∉ q.tagsOut
  load : ∃ h s', Accesses s key q (.load 64) d 64 d.toNat 64 h s' ∧ s'.read (coreOf key) q.cin h 64 = .ok ⟨bytes, e, t⟩
  some_ : 0 < avl.toNat

end Sys2Proof.Claims

/-- R181 to R184, R346, R185: CPCFG, CPXF and CPIMG read their 64-byte descriptor, take its tags, and hand the transfer to the
engine of their channel: of a prefetch the lines of its first two strips are fetched; a registered routine starts on a free
transform core of its die, with the first chunk of its source in SB0, AVL in a0, RARG in a1 and the chunk's length in a2
(R198). A misaligned descriptor raises ALIGN. -/
def Sys2Proof.Claims.CopyCommandsRule : Prop :=
  ∀ s key q a b (c : BitVec 2) (d : Desc) rest e t m, d.mode q = some m → rest.length = 16 → d.common (q.reg a) →
    let ch : Fin 4 := c.toFin
    let x := d.xfer q (q.reg b) (q.reg a) m
    Copies s key q ch (q.reg b) (q.reg a) x (d.bytes rest) e t →
    (d.isCopy → ∃ k, Begun k x s.devtime ∧ k.cap.cmd = .copy x ∧ exec (.cpcfg a b c) s = .next (t.setSeat key
      { afterCopy q x e with chan := q.chan.set ch (some k) })) ∧
    (d.isPrefetch → ∃ k, Begun k x s.devtime ∧ k.cap.cmd = .prefetch x ∧ exec (.cpcfg a b c) s = .next ((t.setSeat key
      { afterCopy q x e with chan := q.chan.set ch (some k) }).refill key ch [])) ∧
    (d.isImage → ∃ k, Begun k x s.devtime ∧ k.cap.cmd = .image x ∧ exec (.cpimg a b c) s = .next (t.setSeat key
      { afterCopy q x e with chan := q.chan.set ch (some k) })) ∧
    (d.isRoutine → ∀ image, s.routineImage q.vi q.handle d.routine = some image →
      ∀ core, (t.setSeat key (afterCopy q x e)).coreFree ((List.range 8).map (8 * dieOf (q.place key) + ·)) = some core →
      ∀ chunk t', t.fillChunk (q.engine key) x 0 = .ok (chunk, t') →
      ∃ k, Begun k x s.devtime ∧ k.cap.cmd = .xform x ∧ exec (.cpxf a b c) s = .next (t'.setSeat key
        { afterCopy q x e with chan := q.chan.set ch (some
            { k with taken := chunk.length, routine := some (Routine.start core image x chunk) }) }))

/-- R195, R349, R181: CPDRN moves on when its channel has no COPY, CPXF or CPIMG queued or at work, and waits otherwise; a
descriptor that is not 64-byte aligned raises ALIGN. -/
def Sys2Proof.Claims.CopyWaitsRule : Prop :=
  ∀ s key q, Clear s key q →
    (∀ c : BitVec 2, let ch : Fin 4 := c.toFin
      (q.chan[ch] = none → Passes s key q (.cpdrn c)) ∧
      (∀ a x, q.chan[ch] = some a → a.cap.cmd = .prefetch x → Passes s key q (.cpdrn c)) ∧
      ∀ a x, q.chan[ch] = some a → (a.cap.cmd = .copy x ∨ a.cap.cmd = .xform x ∨ a.cap.cmd = .image x) →
        exec (.cpdrn c) s = .next (s.setSeat key { q with byp := none, wait := some (.cpdrn c.toNat) })) ∧
    ∀ a b c, (q.reg b).toNat % 64 ≠ 0 → Traps s key (.cpcfg a b c) codeAlign 0 (q.reg b) q.curPc ∧
      Traps s key (.cpxf a b c) codeAlign 0 (q.reg b) q.curPc ∧ Traps s key (.cpimg a b c) codeAlign 0 (q.reg b) q.curPc

/-- The copy commands at issue, and CPDRN.
The model's choices that it rests on: assumptions 23, 24, 31. -/
def Obligations.CopyIssue : Prop :=
  Claims.CopyCommandsRule ∧ Claims.CopyWaitsRule

namespace Sys2Proof.Claims

/-- A tag set together with its fault bit, no longer outstanding (R191). -/
def tagged (q : Seat) (t : Nat) (fault : Bool) : Seat :=
  { q with tags := q.tags ||| (1#64 <<< t), tagsOut := q.tagsOut.filter (· ≠ t)
           tagfault := if fault then q.tagfault ||| (1#64 <<< t) else q.tagfault }

/-- A transfer at work on a channel of a resident seat. -/
structure Working (s : State) (key : Nat) (q : Seat) (ch : Fin 4) (a : Active) : Prop where
  resident : key < firstSaved
  seat : s.seat key = some q
  chan : q.chan[ch] = some a

/-- The last 16 bytes of the descriptor can be written or fault: their page is not migrating (R162). -/
def Ready (s : State) (key : Nat) (q : Seat) (x : Xfer) : Prop :=
  x.desc.toNat % 64 = 0 ∧ (s.translate (q.engine key) .estore (x.desc + 48)).1 ≠ .wait

/-- The event completes the command of the channel, from the package `t` on: State.copyDone, which a statement of its own
describes. -/
def Completes (s : State) (key : Nat) (ch : Fin 4) (i : Instr) (t : State) (x : Xfer) (consumed : Bool) (f : Option EFault)
    (done : Nat) : Prop :=
  ∃ u, t.copyDone key ch x consumed f done = some u ∧ exec i s = .next u

end Sys2Proof.Claims

/-- R347, R191, Table 8.1: a copy command ends by writing EADDR and RESULT into its descriptor, with the fault's cause and
detail and the count done, then sets OCTAG where it is not set yet, and TAG with TAGFAULT[TAG] where a fault ended it, and
frees the channel. A descriptor that can no longer be written keeps its bytes, and one whose page migrates is waited for
(R162). -/
def Sys2Proof.Claims.CopyCompletionRule : Prop :=
  ∀ (s : State) key q (ch : Fin 4) (x : Xfer) (consumed : Bool) (f : Option EFault) (done : Nat), s.seat key = some q →
    x.desc.toNat % 64 = 0 → ∀ r s', s.translate (q.engine key) .estore (x.desc + 48) = (r, s') →
    let eaddr := match f with | some f => f.va.toNat | none => 0
    let result := match f with
      | some f => f.f.code.toNat * 2 ^ 56 + f.f.detail.toNat * 2 ^ 48 + done % 2 ^ 32
      | none => done % 2 ^ 32
    let p := match x.octag with | some o => if consumed then q else tagged q o false | none => q
    let left := { tagged p x.tag f.isSome with chan := q.chan.set ch none }
    (∀ h, r = .ok h → s.copyDone key ch x consumed f done =
      some ((((s'.invalCleanLine (coreOf (q.place key)) q.cin h.pa).countEpoch (dieOf (q.place key)) h.pa h.plc).homeWrite h
        (leBytes 8 eaddr ++ leBytes 8 result)).setSeat key left)) ∧
    (∀ g, r = .fault g → s.copyDone key ch x consumed f done = some (s.setSeat key left)) ∧
    (r = .wait → s.copyDone key ch x consumed f done = none)

/-- R188, R199, R196, R185, R187: a copy or an image that is complete has moved its data up to its end or the fault that ended
it (CopyData); OCTAG is set once the source has been read; a prefetch ends when it has nothing left, when its seat has halted, or when
a later command of its channel waits. -/
def Sys2Proof.Claims.CopyEventsRule : Prop :=
  ∀ s key q (ch : Fin 4) a, Working s key q ch a →
    (∀ x n f s', a.cap.cmd = .copy x → a.ran = false → s.runCopy key x = some (n, f, s') →
      (Ready s' key q x → Completes s key ch (.copyTransferComplete key ch) s' x a.consumed f n) ∧
      ∀ o, x.octag = some o → a.consumed = false → exec (.operandsConsumed key ch) s = .next (s'.setSeat key
        { tagged q o false with chan := q.chan.set ch (some { a with
          done := n, ran := true, consumed := true, err := f.map fun f => (f.f.code, f.f.detail, f.va) }) })) ∧
    (∀ x n f s', a.cap.cmd = .image x → a.ran = false → s.runImage key x = some (n, f, s') → Ready s' key q x →
      Completes s key ch (.imageComplete key ch) s' x a.consumed f n) ∧
    (∀ x, a.ran = true → Ready s key q x →
      let f := a.err.map fun e => (⟨⟨e.1, e.2.1⟩, e.2.2⟩ : EFault)
      (a.cap.cmd = .copy x → Completes s key ch (.copyTransferComplete key ch) s x a.consumed f a.done) ∧
      (a.cap.cmd = .image x → Completes s key ch (.imageComplete key ch) s x a.consumed f a.done)) ∧
    ∀ x, a.cap.cmd = .prefetch x → Ready s key q x → (a.left ≤ 0 ∨ q.halted = true ∨ ∃ c ∈ q.pend, c.queue = .c ch) →
      Completes s key ch (.prefetchComplete key ch) s x a.consumed none (if a.left ≤ 0 then x.avl else a.done)

namespace Sys2Proof.Claims

/-- Where element e of a side lies: packed when the stride is 0, and two 4-bit elements to a byte, the even one in its low half. -/
def elementAt (base : Word) (stride : Int) (f : Fmt) (e : Nat) : Word × Nat :=
  if f.width = 4 then (base + BitVec.ofNat 64 (e / 2), 4 * (e % 2))
  else (base + BitVec.ofInt 64 ((e : Int) * (if stride = 0 then ((f.width / 8 : Nat) : Int) else stride)), 0)

/-- The code of a source element, as the bytes at its address give it. -/
def elementCode (f : Fmt) (shift : Nat) (bs : List Byte) : Nat := leNat bs / 2 ^ shift % 2 ^ f.width

/-- The code that a destination element is given (R188): unchanged, from the VI's table, or converted by Table 4.7, under SR with n the
element's number. -/
def converted (x : Xfer) (table : Sparse (BitVec 16)) (e code : Nat) : Nat :=
  if x.sfmt = x.dfmt then code
  else if x.conv then (mapGet 0#16 table (code % 256)).toNat
  else (convert x.sfmt x.dfmt code { mode := x.rm, seed := x.seed, ovfns := x.ovfns } (BitVec.ofNat 64 e)).1

/-- The source element e read, its code and the package behind it; and the fault of reading it. -/
def Gives (who : Accessor) (x : Xfer) (e : Nat) (s : State) (code : Nat) (t : State) : Prop :=
  let (a, sh) := elementAt x.src x.sstr x.sfmt e
  ∃ bs b, s.engineGet who 3 a (max 1 (x.sfmt.width / 8)) = .ok (bs, b, t) ∧ code = elementCode x.sfmt sh bs
def Unread (who : Accessor) (x : Xfer) (e : Nat) (s : State) (f : EFault) : Prop :=
  s.engineGet who 3 (elementAt x.src x.sstr x.sfmt e).1 (max 1 (x.sfmt.width / 8)) = .error f

/-- The destination element e written with a code: a 4-bit one leaves the other half of its byte as it is. -/
def Puts (who : Accessor) (core : Nat) (x : Xfer) (e code : Nat) (s t : State) : Prop :=
  let (a, sh) := elementAt x.dst x.dstr x.dfmt e
  if x.dfmt.width = 4 then
    ∃ h s', s.translate who .estore a = (.ok h, s') ∧
      let old := (memGet s'.mem h.pa).toNat
      s'.enginePut who [core] 3 a [BitVec.ofNat 8 (if sh = 0 then 16 * (old / 16) + code % 16 else 16 * (code % 16) + old % 16)] = .ok t
  else s.enginePut who [core] 3 a (leBytes (x.dfmt.width / 8) code) = .ok t

/-- A byte of the destination element e faults, before its bytes are written or as they are. -/
def Unwritten (who : Accessor) (core : Nat) (x : Xfer) (e : Nat) (s : State) (f : EFault) : Prop :=
  let a := (elementAt x.dst x.dstr x.dfmt e).1
  let n := max 1 (x.dfmt.width / 8)
  ((f.va - a).toNat < n ∧
    ((s.translate who .estore f.va).1 = .fault f.f ∨ ((s.translate who .estore a).2.translate who .estore f.va).1 = .fault f.f)) ∨
  ∃ bs, bs.length = n ∧ s.enginePut who [core] 3 a bs = .error (some f)

/-- Two packages whose memory differs in no bit but A and D of page-table entries, which translation sets (R142). -/
def SameData (s t : State) : Prop :=
  t.seats = s.seats ∧ t.saved = s.saved ∧ t.vis = s.vis ∧ ∀ a, memGet t.mem a &&& 0xFC#8 = memGet s.mem a &&& 0xFC#8

/-- Element e is where a transfer stops: its source faults, or is read and its destination faults. -/
def Stuck (who : Accessor) (core : Nat) (x : Xfer) (e : Nat) (s : State) (f : EFault) : Prop :=
  Unread who x e s f ∨ ∃ code t, Gives who x e s code t ∧ Unwritten who core x e t f

/-- The elements of a list performed one after another. -/
def Performs (who : Accessor) (core : Nat) (x : Xfer) (table : Sparse (BitVec 16)) : List Nat → State → State → Prop
  | [], s, t => s = t
  | e :: es, s, t => ∃ code u v, Gives who x e s code u ∧ Puts who core x e (converted x table e code) u v ∧
      Performs who core x table es v t

/-- The images of tiles i, i + 1, … at the image address p, n of them left, go into the slots of the tiles that start at DST, in
order, each after its expanded lines have left the LLC and the core's L1; the first bad encoding, and the first page that does
not take an image, end them (R199). -/
def Imaged (who : Accessor) (core : Nat) (x : Xfer) : Nat → Nat → Word → State → Nat → Option EFault → State → Prop
  | 0, i, _, s, m, f, t => m = i ∧ f = none ∧ s = t
  | n + 1, i, p, s, m, f, t =>
    (∃ g, s.engineGet who 3 p 2 = .error g ∧ m = i ∧ f = some g ∧ t = s) ∨
    ∃ hd b u, s.engineGet who 3 p 2 = .ok (hd, b, u) ∧
      let kind := (nth 0 hd 0).toNat
      let len := (nth 0 hd 1).toNat
      ((3 < kind ∨ len < 2 ∨ 160 < len) ∧ m = i ∧ f = some ⟨⟨codeDecode, 1⟩, p⟩ ∧ t = u ∨
       kind ≤ 3 ∧ 2 ≤ len ∧ len ≤ 160 ∧
        ((∃ g, u.engineGet who 5 p len = .error g ∧ m = i ∧ f = some g ∧ t = u) ∨
         ∃ enc b v, u.engineGet who 5 p len = .ok (enc, b, v) ∧
          (expandTile enc = none ∧ m = i ∧ f = some ⟨⟨codeDecode, 1⟩, p⟩ ∧ t = v ∨
           (expandTile enc).isSome ∧ ∃ r w, v.translate who .image (x.dst + BitVec.ofNat 64 (256 * i)) = (r, w) ∧
            ((∃ g, r = .fault g ∧ m = i ∧ f = some ⟨g, x.dst + BitVec.ofNat 64 (256 * i)⟩ ∧ t = w) ∨
             ∃ h z, r = .ok h ∧ z.mem = memPut w.mem (slotOf h.pa) enc ∧ z.seats = w.seats ∧
              (∀ j < 4, mapFind z.llcExp (h.pa / 256 * 256 + 64 * j) = none) ∧
              Imaged who core x n (i + 1) (p + BitVec.ofNat 64 len) z m f t))))

end Sys2Proof.Claims

/-- R188, R199: what the engine of a copy or an image has done when it is through. Of a copy of AVL elements it has performed n, in
some order, each converted into its own place; n is AVL where no fault ended it, and else the number of an element whose source
or destination faults, with that fault, and none at or above n has been written. Of an image it has written the tiles below the
first that is bad or does not fit. The accesses go on behalf of the seat, at the homes. -/
def Sys2Proof.Claims.CopyDataRule : Prop :=
  ∀ s key q (x : Xfer), s.seat key = some q → ∀ n f s',
    let core := coreOf (q.place key)
    let who := { q.engine key with die := (q.engine key).die + 4 }
    let table := match mapFind s.vis q.vi with | some v => v.cvt | none => []
    (s.runCopy key x = some (n, f, s') →
      ∃ order u t, order.Perm (List.range n) ∧ SameData s u ∧ Performs who core x table order u t ∧
        (f = none → n = x.avl ∧ s' = { t with epoch := s'.epoch }) ∧
        ∀ g, f = some g → n < x.avl ∧ SameData t s' ∧
          ∃ v, (SameData s v ∨ Performs who core x table (List.range n) u v) ∧ Stuck who core x n v g) ∧
    (s.runImage key x = some (n, f, s') → Imaged (q.engine key) core x x.avl 0 x.src s n f s')

/-- The events of the copy engines, and what their data movement writes (R188, R199).
The model's choices that it rests on: assumptions 24, 44. -/
def Obligations.CopyEngines : Prop :=
  Claims.CopyCompletionRule ∧ Claims.CopyEventsRule ∧ Claims.CopyDataRule

/-- R197, R198, R257: at ROUTINE_YIELD the bytes of SB1 go to DST behind the earlier ones and the next chunk of the source comes
into SB0, its length in a2, unless the seat is being pre-empted: the routine then stops here, its place kept; ROUTINE_DONE drains them and completes the command; ROUTINE_FAIL, an access outside Table 8.9, an
illegal instruction and, once its floor of 732 ticks has passed, the watchdog end it with their cause; more than 32 KiB is
ILLOP.
The model's choices that it rests on: assumption 24. -/
def Obligations.Routines : Prop :=
  ∀ s key q (ch : Fin 4) a x r, Working s key q ch a → a.cap.cmd = .xform x → a.routine = some r → r.stopped = false →
    (∀ bs s', bs.length ≤ 32768 →
      s.enginePut (q.engine key) [coreOf key] (bs.length + 1) (x.dst + BitVec.ofNat 64 a.done) bs = .ok s' →
      (Ready s' key q x → Completes s key ch (.routineDone key ch bs) s' x a.consumed none (a.done + bs.length)) ∧
      (q.stopping.isSome → exec (.routineYield key ch bs) s = .next (s'.setSeat key { q with chan := q.chan.set ch (some { a with
          done := a.done + bs.length, routine := some { r with sb1 := bs, stopped := true } }) })) ∧
      (q.stopping = none → ∀ chunk s'', s'.fillChunk (q.engine key) x a.taken = .ok (chunk, s'') →
        exec (.routineYield key ch bs) s = .next (s''.setSeat key { q with chan := q.chan.set ch (some { a with
          done := a.done + bs.length, taken := a.taken + chunk.length, since := s.devtime
          routine := some { r with sb0 := chunk, sb1 := bs, a := r.a.set 2 (BitVec.ofNat 64 chunk.length) } }) }))) ∧
    (Ready s key q x →
      (∀ bs : List Byte, 32768 < bs.length →
        Completes s key ch (.routineYield key ch bs) s x a.consumed (some ⟨⟨codeIllop, 0⟩, 0⟩) a.done) ∧
      (∀ k, Completes s key ch (.routineFail key ch k) s x a.consumed (some ⟨⟨codeTrap, k⟩, 0⟩) a.done) ∧
      Completes s key ch (.routineIllegalAccess key ch true) s x a.consumed (some ⟨⟨codeIllop, 0⟩, 0⟩) a.done ∧
      Completes s key ch (.routineIllegalAccess key ch false) s x a.consumed (some ⟨⟨codeProt, 10⟩, 0⟩) a.done ∧
      (a.since + 732 ≤ s.devtime →
        Completes s key ch (.routineWatchdog key ch) s x a.consumed (some ⟨⟨codeTimeout, 1⟩, 0⟩) a.done)) ∧
    (s.devtime < a.since + 732 → exec (.routineWatchdog key ch) s = .fault (.notEnabled "ROUTINE_WATCHDOG"))

/-- R190, R200, R191: a gather of CPIX that is complete has written the core's dirty bytes back and read its elements at their
homes, where the probe pass found them, each distinct address once, up to one that meets a bad tile; it writes their codes to vd, sets STATUS.EXP where one
had expired, records a fault in the CPIX registers, and sets its tag. -/
def Sys2Proof.Claims.GatherCompletesRule : Prop :=
  ∀ (s : State) key q (g : Gather) t tag d, key < firstSaved → s.seat key = some q → g.cap.cmd = .cpix d tag → g.cap.d = some t →
    q.gathers.find? (fun h => h.tag = tag) = some g →
    ∀ got bad s', gatherGo (dieOf key) (t.fmt.width / 8) []
        ((g.hits.zipIdx).map fun x => (x.2, (⟨x.1.1, x.1.2.1, x.1.2.2.1, x.1.2.2.2⟩ : Hit)))
        (s.writeBack (coreOf key) q.cin) = (got, bad, s') →
      let f := match bad with | some (i, f) => some (f.code, f.detail, i) | none => g.fault
      exec (.cpixGatherComplete key tag) s = .next (s'.setSeat key { tagged q tag f.isSome with
        gathers := q.gathers.filter fun h => h.tag ≠ tag
        plane := writeElems q.plane t (got.map fun x => (x.1, x.2.1))
        status := { q.status with exp := q.status.exp || got.any (·.2.2) }
        sr := match f with
          | some (c, k, i) => { q.sr with cpixCause := c, cpixDetail := k, cpixTag := BitVec.ofNat 6 tag, cpixElem := BitVec.ofNat 32 i }
          | none => q.sr })

/-- CPIX, from its issue to the end of its gather. -/
def Obligations.Gathering : Prop :=
  Claims.IndexedGatherRule ∧ Claims.GatherCompletesRule

/-! ### Streams, collectives, the shape table, forks and replays -/

namespace Sys2Proof.Claims

/-- B = none (R225). -/
abbrev noBarge (o : SObj) : Prop := o.b = BitVec.allOnes 64

/-- The stream engine's accesses on behalf of a seat: it is on the I/O die, which is not one of the four. -/
def streamEngine (q : Seat) (key : Nat) : Accessor := { q.engine key with die := 4 }

/-- An S-queue command of a context whose stream handle names a stream: the stream, its object as the engine reads it, and
the package after that read; a reset that has not reached the object yet goes before it (R224, R394, R237). -/
structure OnStream (s : State) (key : Nat) (q : Seat) (handle : Word) (st : Stream) (o : SObj) (t : State) : Prop extends
    Clear s key q where
  bound : handle.toNat < 256 ∧ mapFind s.streams (256 * q.ctx + handle.toNat) = some st
  object : s.sobj (streamEngine q key) st = .ok (o, t)
  reset : s.resetHeld q.ctx st = false

/-- The seat moves on with `w` in register d; `t` is the package the engine leaves. -/
def Answers (s : State) (key : Nat) (q : Seat) (i : Instr) (d : Reg) (w : Word) (t : State) : Prop :=
  ∃ q', exec i s = .next (t.setSeat key q') ∧ q' = { q.advance with s := q'.s } ∧
    ∀ r, q'.reg r = if r = d ∧ r ≠ 0 then w else q.reg r

/-- The stream engine's writes for a seat. -/
def puts (s : State) (key : Nat) (q : Seat) (va : Word) (bs : List Byte) (t : State) : Prop :=
  s.areaPut (streamEngine q key) [coreOf (q.place key)] va bs = .ok t

end Sys2Proof.Claims

/-- R229, R230, R231, R226: SAPP answers −1 while a barge is pending and −2 with a full ring, and otherwise writes the entry,
takes position G and counts G up; SCUR answers the cursor its code names, positions as media times for codes 4 and 5; SCUR.ARM
makes its seat the watcher, clears the object's tag and sets it again if a barge is pending, and answers B; SCKP writes the
accumulator rows into the next slot and answers its number. -/
def Sys2Proof.Claims.StreamCursorsRule : Prop :=
  ∀ s key q a st o t, OnStream s key q (q.reg a) st o t → ∀ d,
    let k := 256 * q.ctx + (q.reg a).toNat
    (∀ b, ¬ noBarge o → Answers s key q (.sapp d a b) d (-1) t) ∧
    (∀ b, noBarge o → o.egn ≤ st.egress.length → Answers s key q (.sapp d a b) d (-2) t) ∧
    (∀ b t1 t2, noBarge o → st.egress.length < o.egn →
      puts t key q (o.egbase + BitVec.ofNat 64 (16 * ((st.egHead + st.egress.length) % o.egn)))
        (leBytes 8 (q.reg b).toNat ++ leBytes 4 o.g.toNat ++ leBytes 4 o.a.toNat) t1 →
      puts t1 key q st.obj (leBytes 8 (o.g + 1).toNat) t2 →
      Answers s key q (.sapp d a b) d o.g
        (t2.setStream k { st with egress := st.egress ++ [⟨q.reg b, o.g.toNat, o.a.setWidth 32, false⟩] })) ∧
    (∀ c : BitVec 3, c.toNat ≤ 6 → Answers s key q (.scur d a c) d
      (match c.toNat with
        | 0 => o.g | 1 => o.p | 2 => o.a | 3 => o.b
        | 4 => o.mtbase + o.g * o.sdur.setWidth 64 | 5 => o.mtbase + o.p * o.sdur.setWidth 64 | _ => o.late.setWidth 64) t) ∧
    (∃ q', exec (.scurArm d a) s = .next ((t.setStream k { st with watcher := some (q.launch, q.node) }).setSeat key q') ∧
      q' = { q.advance with
        s := q'.s
        tags := if o.b = BitVec.allOnes 64 then q.tags &&& ~~~(1#64 <<< o.tag) else q.tags ||| (1#64 <<< o.tag)
        tagfault := q.tagfault &&& ~~~(1#64 <<< o.tag) } ∧
      ∀ r, q'.reg r = if r = d ∧ r ≠ 0 then o.b else q.reg r) ∧
    ∀ b t1, o.ckacc + o.cknm1 < (if q.single then 512 else 256) →
      ckptGo (streamEngine q key) (coreOf (q.place key)) q o st.nextSlot (List.range (o.cknm1 + 1)) t = .ok t1 →
      Answers s key q (.sckp d a b) d (BitVec.ofNat 64 st.nextSlot) (t1.setStream k { st with
        slots := (st.slots.filter fun x => x.1 ≠ st.nextSlot) ++ [(st.nextSlot, q.reg b, st.slotSeq)]
        nextSlot := (st.nextSlot + 1) % 16, slotSeq := st.slotSeq + 1 })

/-- R233: SRECV answers −1 from an empty ring; otherwise it hands over the oldest descriptor, 32 bytes at s[sb], and answers 2
for a late frame, 1 for a barge-in and 0 for another; both invalidate the core's clean bytes. A late frame of a stream with
LTRAP takes a STREAM trap afterwards, with the media time in EVAL. -/
def Sys2Proof.Claims.StreamReceiveRule : Prop :=
  ∀ s key q a b st o h s' t, Clear s key q → Accesses s key q (.store 32) (q.reg b) 32 0 0 h s' →
    (q.reg a).toNat < 256 → mapFind s.streams (256 * q.ctx + (q.reg a).toNat) = some st →
    s'.resetHeld q.ctx st = false → s'.sobj (streamEngine q key) st = .ok (o, t) → ∀ d,
    let k := 256 * q.ctx + (q.reg a).toNat
    (st.inCount = 0 → Answers s key q (.srecv d a b) d (-1) (t.invalClean (coreOf (q.place key)) q.cin)) ∧
    ∀ bs t1, 0 < st.inCount → t.areaGet (streamEngine q key) (o.inbase + BitVec.ofNat 64 (32 * (st.inHead % o.inn))) 32 = .ok (bs, t1) →
      let late := (leNat bs).testBit 97
      let w : Word := if late then 2 else if (leNat bs).testBit 96 then 1 else 0
      let t2 := (((t1.invalCleanLine (coreOf (q.place key)) q.cin h.pa).homeWrite h bs).setStream k
        { st with inHead := (st.inHead + 1) % o.inn, inCount := st.inCount - 1 }).invalClean (coreOf (q.place key)) q.cin
      (¬ (late = true ∧ o.cfg.getLsbD 0 = true) → Answers s key q (.srecv d a b) d w t2) ∧
      (late = true → o.cfg.getLsbD 0 = true → ∃ q', exec (.srecv d a b) s = .next ((t2.setSeat key q').takeTrap key
          ⟨codeStream, 2, BitVec.ofNat 64 (leNat bs % 2 ^ 64), q.curPc⟩ true false) ∧ q' = { q.advance with s := q'.s } ∧
        ∀ r, q'.reg r = if r = d ∧ r ≠ 0 then w else q.reg r)

/-- R235, R394: STRUNC answers −1 where no barge is pending; otherwise it truncates the key/value map, sets G to B and B to none,
drops the egress entries from B on, marking the sent ones cancelled, and the checkpoints above B, invalidates the core's clean
bytes, and answers the greatest checkpoint left, or −2. A handle without a stream takes a late STREAM trap, detail 1. -/
def Sys2Proof.Claims.StreamTruncationRule : Prop :=
  ∀ s key q, Clear s key q → ∀ d a b,
    (∀ st o t, OnStream s key q (q.reg a) st o t → noBarge o → Answers s key q (.strunc d a) d (-1) t) ∧
    (∀ st o t t1 t2 t3, OnStream s key q (q.reg a) st o t → ¬ noBarge o →
      kvGo (streamEngine q key) (coreOf (q.place key)) q.ctx o (List.range o.kvn) t = .ok t1 →
      puts t1 key q st.obj (leBytes 8 o.b.toNat) t2 → puts t2 key q (st.obj + 24) (List.replicate 8 0xFF) t3 →
      ∃ w, Answers s key q (.strunc d a) d w ((t3.setStream (256 * q.ctx + (q.reg a).toNat) { st with
          egress := st.egress.filter fun e => decide (e.pos < o.b.toNat)
          cancels := st.cancels ++ ((st.egress.filter fun e => decide (o.b.toNat ≤ e.pos)).filter (·.sent)).map (·.pos)
          slots := st.slots.filter fun x => decide (x.2.1.toNat ≤ o.b.toNat) }).invalClean (coreOf (q.place key)) q.cin) ∧
        ((∀ x ∈ st.slots, o.b.toNat < x.2.1.toNat) → w = -2) ∧
        ∀ x ∈ st.slots, x.2.1.toNat ≤ o.b.toNat → ∃ y ∈ st.slots, x.2.1.toNat ≤ y.2.1.toNat ∧ y.2.1.toNat ≤ o.b.toNat ∧
          w = BitVec.ofNat 64 (y.1 * 2 ^ 32 + y.2.1.toNat % 2 ^ 32)) ∧
    ((256 ≤ (q.reg a).toNat ∨ mapFind s.streams (256 * q.ctx + (q.reg a).toNat) = none) →
      ∀ i ∈ [Instr.sapp d a b, .sckp d a b, .scurArm d a, .strunc d a], ∃ q' c, exec i s =
        .next ((s.setSeat key q').takeTrap key ⟨codeStream, 1, 0, q.curPc⟩ true false) ∧
        q' = { q.advance with aside := q.aside ++ [c] })

/-- The stream commands, as the stream engine performs them. -/
def Obligations.StreamCommands : Prop :=
  Claims.StreamCursorsRule ∧ Claims.StreamReceiveRule ∧ Claims.StreamTruncationRule

/-- R232, R226, R229: a frame that no stream is bound for, and one that the engine cannot record, is counted as unroutable and
changes nothing else. One for a full ring counts DROPIN. A late one becomes the newest descriptor of its ring, with LATEF and no
index, and LATE counts up. Another becomes the newest descriptor, A is its index and counts up, and where it is flagged BARGE and
no barge is pending, B is set to P and the watcher's tag is raised. An
acknowledgement of a sent position between P and G sets P behind it and removes the entries it passes. The egress engine
sends one item at a time: a cancel marker, or with none the first unsent entry that is not at or behind a pending barge.
The model's choices that it rests on: assumption 66. -/
def Obligations.StreamEvents : Prop :=
  ∀ (s : State),
    (∀ vi handle stream media payload len barge v, mapFind s.vis vi = some v →
      let bound := s.ctxs.find? fun x => x.2.vi = vi ∧ x.2.handle = handle
      let drops := exec (.frameArrival vi handle stream media payload len barge) s = .next { s with
          vis := s.vis.map fun x => (x.1, if x.1 = vi then { x.2 with unroutable := x.2.unroutable + 1 } else x.2) }
      (bound = none → drops) ∧
      (∀ c x, bound = some (c, x) → (256 ≤ stream ∨ mapFind s.streams (256 * c + stream) = none) → drops) ∧
      (∀ c x st f, bound = some (c, x) → stream < 256 → mapFind s.streams (256 * c + stream) = some st →
        s.sobj (streamWho c x) st = .error f → drops) ∧
      ∀ c x st o t, bound = some (c, x) → stream < 256 → mapFind s.streams (256 * c + stream) = some st →
        s.sobj (streamWho c x) st = .ok (o, t) →
        let mtp := o.mtbase + o.p * o.sdur.setWidth 64
        let put := fun late : Bool => t.areaPut (streamWho c x) []
          (o.inbase + BitVec.ofNat 64 (32 * ((st.inHead + st.inCount) % o.inn)))
          (leBytes 8 media.toNat ++ leBytes 4 len.toNat ++ leBytes 4 ((if barge then 1 else 0) + if late then 2 else 0) ++
            leBytes 8 payload.toNat ++ leBytes 4 o.g.toNat ++ leBytes 4 (if late then 0xFFFFFFFF else o.a.toNat % 2 ^ 32))
        (∀ late, st.inCount < o.inn → late = decide (media.toNat < mtp.toNat) → put late = .fault → drops) ∧
        (∀ t1 t2, st.inCount < o.inn → media.toNat < mtp.toNat → put true = .ok t1 →
          (t1.setStream (256 * c + stream) { st with inCount := st.inCount + 1 }).areaPut (streamWho c x) [] (st.obj + 32)
            (leBytes 4 (o.late + 1).toNat) = .ok t2 →
          exec (.frameArrival vi handle stream media payload len barge) s = .next t2) ∧
        (∀ t1, o.inn ≤ st.inCount → t.areaPut (streamWho c x) [] (st.obj + 52) (leBytes 4 (o.dropin + 1).toNat) = .ok t1 →
          exec (.frameArrival vi handle stream media payload len barge) s = .next t1) ∧
        ∀ t1 t2, st.inCount < o.inn → mtp.toNat ≤ media.toNat → put false = .ok t1 →
          (t1.setStream (256 * c + stream) { st with inCount := st.inCount + 1 }).areaPut (streamWho c x) [] (st.obj + 16)
            (leBytes 8 (o.a + 1).toNat) = .ok t2 →
          ((barge = false ∨ ¬ noBarge o) → exec (.frameArrival vi handle stream media payload len barge) s = .next t2) ∧
          ∀ t3, barge = true → noBarge o → t2.areaPut (streamWho c x) [] (st.obj + 24) (leBytes 8 o.p.toNat) = .ok t3 →
            exec (.frameArrival vi handle stream media payload len barge) s = .next (match st.watcher with
              | some (launch, node) => t3.mapNodeSeat c launch node fun q => { q with
                  tags := q.tags ||| (1#64 <<< o.tag), tagfault := q.tagfault &&& ~~~(1#64 <<< o.tag) }
              | none => t3)) ∧
    ∀ c stream x st o t, s.ctx c = some x → mapFind s.streams (256 * c + stream) = some st →
      s.sobj (streamWho c x) st = .ok (o, t) →
      (∀ p t1, o.p.toNat ≤ p.toNat → p.toNat < o.g.toNat → (∃ e ∈ st.egress, e.pos = p.toNat ∧ e.sent = true) →
        (noBarge o ∨ p.toNat < o.b.toNat) → t.areaPut (streamWho c x) [] (st.obj + 8) (leBytes 8 (p + 1).toNat) = .ok t1 →
        0 < o.egn →
        let gone := (st.egress.filter fun e => decide (e.pos ≤ p.toNat)).length
        exec (.playbackAck c stream p) s = .next (t1.setStream (256 * c + stream)
          { st with egress := st.egress.drop gone, egHead := (st.egHead + gone) % o.egn })) ∧
      (∀ p, (∀ e ∈ st.egress, e.pos = p.toNat → e.sent = false) → exec (.playbackAck c stream p) s = .next t) ∧
      let may := fun (e : Egress) => e.sent = false ∧ (noBarge o ∨ e.pos < o.b.toNat)
      (∀ p rest, st.cancels = p :: rest → exec (.egressSend c stream) s = .next
        { t.setStream (256 * c + stream) { st with cancels := rest } with out := .cancel c stream p :: t.out }) ∧
      (∀ l e r, st.cancels = [] → st.egress = l ++ e :: r → (∀ e' ∈ l, ¬ may e') → may e →
        exec (.egressSend c stream) s = .next
          { t.setStream (256 * c + stream) { st with egress := l ++ { e with sent := true } :: r } with
            out := .sample c stream e.pos e.value e.asen :: t.out }) ∧
      (st.cancels = [] → (∀ e ∈ st.egress, ¬ may e) → exec (.egressSend c stream) s = .fault (.notEnabled "EGRESS_SEND"))

/-- R358, R359, R360: GCAST and GRED read their descriptor, take its tag, and join their group's part of the collective that COLLID
names, in this package; the first member describes it. A slot without a group raises ILLOP. -/
def Sys2Proof.Claims.GroupCommandsRule : Prop :=
  ∀ s key q, Clear s key q → ∀ a (g : BitVec 2) (red : Bool),
    let i := if red then Instr.gred a g else Instr.gcast a g
    (∀ w, q.sr.gslot[g.toNat] = none → encode i = some w → Traps s key i codeIllop 0 (w.setWidth 64) q.curPc) ∧
    ∀ (group : BitVec 8) h s' bs e t, q.sr.gslot[g.toNat] = some group →
      Accesses s key q (.load 64) (q.reg a) 64 (q.reg a).toNat 64 h s' → s'.read (coreOf key) q.cin h 64 = .ok ⟨bs, e, t⟩ →
      collBad bs red false = false →
      let d := collDescOf bs
      let q' := { takes q.advance [d.tag] with status := { q.status with exp := q.status.exp || e } }
      d.tag ∉ q.tagsOut → s.inColl q.ctx q.launch q.node = false →
      (s.coll q.ctx q.launch group.toNat d.collid = none → exec i s = .next ({ t with
        colls := t.colls ++ [(⟨q.ctx, d, red, q.launch, some group.toNat, [(q.node, q.reg a, d, red)], false, 0, [], 0, none, 0⟩ : CollPart)] }.setSeat
          key q')) ∧
      ∀ p, s.coll q.ctx q.launch group.toNat d.collid = some p → p.started = false → exec i s = .next ((t.mapColl p fun p =>
        { p with members := p.members ++ [(q.node, q.reg a, d, red)] }).setSeat key q')

namespace Sys2Proof.Claims

/-- Every byte of chunk k, of 64 KiB, has arrived. -/
abbrev Arrived (p : CollPart) (k : Nat) : Prop :=
  min 65536 (p.desc.len - k * 65536) ≤ ((p.got.filter fun x => x.2.1 / 65536 = k).map (·.2.2.length)).sum

end Sys2Proof.Claims

/-- R360 to R364, R305: a part starts once every member of its group has issued, finished or failed, and while every member runs;
members that describe it differently end it with ILLOP. Of a GCAST the root sends its chunks one after another and writes each
at DST, and awaits an acknowledgement of each from every other package; another package waits for the chunks, each of which is
written at DST; a write that faults stops it at its chunk, the chunks before which are still written, and DONE counts those that
have arrived whole. Of a GRED each package contributes its elements, and where the result is to go it is reduced and written.
(Stated where no second group of the context uses the identifier.) -/
def Sys2Proof.Claims.CollectiveProgressRule : Prop :=
  ∀ (s : State) ctx collid p, (s.colls.filter fun x => x.ctx == ctx && x.desc.collid == collid) = [p] → s.collRunning p = true →
    let chunks := (p.desc.len + 65535) / 65536
    let who := s.collWho ctx
    let cores := s.collCores p
    (p.started = false → s.collMissing p = false → p.mismatched = true →
      ∀ t, s.endColl { p with fault := some (codeIllop, 1, 0) } 0 = some t → exec (.collectivePartStart ctx collid) s = .next t) ∧
    (p.started = false → s.collMissing p = true →
      exec (.collectivePartStart ctx collid) s = .fault (.notEnabled "COLLECTIVE_PART_START")) ∧
    (p.started = false → s.collMissing p = false → p.mismatched = false → p.red = false →
      (p.desc.rank ≠ p.desc.root → exec (.collectivePartStart ctx collid) s = .next (s.mapColl p fun p => { p with started := true })) ∧
      (p.desc.rank = p.desc.root → 0 < chunks → p.next = 0 → p.fault = none →
        let p1 := { p with started := true, acks := chunks * p.desc.npkgm1 }
        ∀ t, castChunk who cores (s.collVi p) p.desc 0 (s.mapColl p fun _ => p1) = some (t, none) →
          exec (.collectivePartStart ctx collid) s = .next (t.mapColl p1 fun p => { p with next := p.next + 1 }))) ∧
    (∀ f l bad t, p.started = false → s.collMissing p = false → p.mismatched = false → p.red = true → gredFmt p.desc.fmt = some f →
      ownPart who p.desc (f.width / 8) p.desc.len 0 s = (l, bad, t) →
      let sent := if p.desc.npkgm1 = 0 ∨ l = [] then t else { t with out := .multicast (t.collVi p) p.desc.mcg 0 0 l :: t.out }
      exec (.collectivePartStart ctx collid) s =
        .next (sent.mapColl p fun p => { p with
          started := true
          got := p.got ++ [(p.desc.rank, 0, l)]
          fault := bad.map fun x => (x.2.f.code, x.2.f.detail, x.1)
          va := match bad with | some x => x.2.va | none => p.va })) ∧
    (∀ rank offset bs, p.started = true → (∀ x ∈ p.got, ¬ (x.1 = rank ∧ x.2.1 = offset)) → p.red = false →
      let open_ := ∀ c d n, p.fault = some (c, d, n) → offset < n * 65536
      let put := s.enginePut who cores (bs.length + 1) (p.desc.dst + BitVec.ofNat 64 offset) bs
      (∀ t, open_ → put = .ok t → exec (.multicastChunkArrival ctx collid rank offset bs) s =
        .next (t.mapColl p fun p => { p with got := p.got ++ [(rank, offset, bs)] })) ∧
      (∀ f, open_ → put = .error (some f) → exec (.multicastChunkArrival ctx collid rank offset bs) s =
        .next (s.mapColl p fun p => { p with fault := some (f.f.code, f.f.detail, offset / 65536), va := f.va })) ∧
      (¬ open_ → exec (.multicastChunkArrival ctx collid rank offset bs) s = .fault (.notEnabled "MULTICAST_CHUNK_ARRIVAL"))) ∧
    (∀ rank offset bs, p.started = true → (∀ x ∈ p.got, ¬ (x.1 = rank ∧ x.2.1 = offset)) → p.red = true →
      exec (.multicastChunkArrival ctx collid rank offset bs) s =
        .next (s.mapColl p fun p => { p with got := p.got ++ [(rank, offset, bs)] })) ∧
    (p.started = true → (chunks - p.next) * p.desc.npkgm1 < p.acks →
      exec (.peerAcknowledgement ctx collid) s = .next (s.mapColl p fun p => { p with acks := p.acks - 1 })) ∧
    (p.started = true → p.fault = none → p.red = false →
      (p.desc.rank = p.desc.root ∧ chunks ≤ p.next ∧ p.acks = 0 ∨
        p.desc.rank ≠ p.desc.root ∧ p.desc.len ≤ (p.got.map (·.2.2.length)).sum) →
      ∀ t, s.endColl p chunks = some t → exec (.collectivePartComplete ctx collid) s = .next t) ∧
    (∀ c d n t, p.started = true → p.fault = some (c, d, n) → p.red = false →
      (p.desc.rank = p.desc.root → s.endColl p n = some t → exec (.collectivePartComplete ctx collid) s = .next t) ∧
      (p.desc.rank ≠ p.desc.root → (∀ k < n, Arrived p k) →
        s.endColl p (((List.range chunks).filter fun k => decide (Arrived p k)).length) = some t →
        exec (.collectivePartComplete ctx collid) s = .next t)) ∧
    (∀ f vals u, p.started = true → p.red = true → gredFmt p.desc.fmt = some f → p.reduced f = some vals → p.desc.root ≠ 255 →
      p.desc.root ≠ p.desc.rank → s.endColl p p.reducible = some u → exec (.collectivePartComplete ctx collid) s = .next u) ∧
    (∀ f vals k t u, p.started = true → p.red = true → gredFmt p.desc.fmt = some f → p.reduced f = some vals →
      (p.desc.root = 255 ∨ p.desc.root = p.desc.rank) → redWrite who cores p.desc (f.width / 8) vals s = some (k, none, t) →
      t.endColl p k = some u → exec (.collectivePartComplete ctx collid) s = .next u)

/-- The group commands, and the package's part of a collective.
The model's choices that it rests on: assumptions 23, 61. -/
def Obligations.Collectives : Prop :=
  Claims.GroupCommandsRule ∧ Claims.CollectiveProgressRule

/-! ### Virtual processors' memory -/

namespace Sys2Proof.Claims

/-- The virtual processor moves on, with `put` written to its lane registers, STATUS.EXP set where a byte had expired, and `chan`
in place of the copy channels; `t` is the package after its access. No other cell of the plane and nothing else of the fork
changes. -/
def LaneLoads (s : State) (key lane : Nat) (q : Seat) (v : Vp) (i : Instr) (put : Reg → Option (BitVec 32)) (expired : Bool)
    (chan : Vector (Option Active) 4) (t : State) : Prop :=
  ∃ q', exec i s = .next (t.setSeat key q') ∧
    q' = { q with plane := q'.plane, fork := q'.fork, chan := chan, noWatchVp := past q lane
                  status := { q.status with exp := q.status.exp || expired } } ∧
    OnlyVp q q' lane { v with pc := v.pc + 4 } ∧ OnlyLanes q q' lane (fun r => (put r).isSome) ∧
    ∀ l r, l < 256 → q'.laneReg l r = if l = lane ∧ r ≠ 0 then (put r).getD (q.laneReg l r) else q.laneReg l r

/-- What n bytes write: l(d), or the pair l(d), l(d + 1) for 8 bytes (Table 2.6). -/
def lanePut (n : Nat) (d : Reg) (w : Word) (r : Reg) : Option (BitVec 32) :=
  if r = d then some (w.extractLsb' 0 32) else if n = 8 ∧ r = d + 1 then some (w.extractLsb' 32 32) else none

/-- What n bytes are taken from. -/
def laneGet (q : Seat) (lane n : Nat) (r : Reg) : Word := if n = 8 then q.lanePair lane r else (q.laneReg lane r).setWidth 64

/-- The trap of a virtual processor (R50): `State.vpTrap`. -/
def LaneTraps (s : State) (key lane : Nat) (i : Instr) (code : BitVec 8) (value pc : Word) : Prop :=
  exec i s = .next (s.vpTrap key lane ⟨code, 0, value, pc⟩)

end Sys2Proof.Claims

/-- R47, R333, Table 2.6: a virtual processor's loads, stores and atomics address memory with the register pair {l(a + 1), l(a)},
move 8 bytes between memory and a pair and fewer between memory and one register, and move on; with an odd register where
a pair is named they raise ILLOP, and at a misaligned address ALIGN.
The model's choices that it rests on: assumption 41. -/
def Obligations.LaneMemory : Prop :=
  ∀ s key lane q v, Lane s key lane q v → lane < 256 → mapWf 0#32 q.plane = true → q.pend = [] → ∀ d a b : Reg, ∀ w,
    let even := fun (r : Reg) => r.getLsbD 0 = false
    (∀ f ∈ loadForms, ∀ i,
      let va := plus (q.lanePair lane a) i
      (even a → (f.bytes = 8 → even d) → va.toNat % f.bytes = 0 → ∀ h s' r,
        Accesses s key (watchedIn q lane) f.kind va f.bytes va.toNat f.bytes h s' → s'.read (coreOf key) q.cin h f.bytes = .ok r →
        LaneLoads s key lane q v (f.instr d a i) (lanePut f.bytes d (widened f.bytes f.signed r.bytes)) r.expired q.chan r.st) ∧
      (even a → (f.bytes = 8 → even d) → va.toNat % f.bytes ≠ 0 → LaneTraps s key lane (f.instr d a i) codeAlign va v.pc) ∧
      (¬ even a ∨ f.bytes = 8 ∧ ¬ even d → encode (f.instr d a i) = some w →
        LaneTraps s key lane (f.instr d a i) codeIllop (w.setWidth 64) v.pc)) ∧
    (∀ f ∈ storeForms, ∀ i,
      let va := plus (q.lanePair lane a) i
      (even a → (f.bytes = 8 → even d) → ∀ h s', Accesses s key (watchedIn q lane) (.store f.bytes) va f.bytes va.toNat f.bytes h s' →
        LaneLoads s key lane q v (f.instr d a i) (fun _ => none) false
          (q.dropStrip h.mt h.pa).chan (s'.write (coreOf key) q.cin h (leBytes f.bytes (laneGet q lane f.bytes d).toNat))) ∧
      (even a → (f.bytes = 8 → even d) → va.toNat % f.bytes ≠ 0 → LaneTraps s key lane (f.instr d a i) codeAlign va v.pc) ∧
      (¬ even a ∨ f.bytes = 8 ∧ ¬ even d → encode (f.instr d a i) = some w →
        LaneTraps s key lane (f.instr d a i) codeIllop (w.setWidth 64) v.pc)) ∧
    ∀ f ∈ atomForms, ∀ sc u wide, (sc = 0 ∨ s.inColl q.ctx q.launch q.node = false) →
      let va := q.lanePair lane a
      let n := atomBytes wide
      (even a → (wide = 1 → even d ∧ even b) → ∀ h s', Accesses s key (watchedIn q lane) .atomic va n va.toNat n h s' →
        let t := (s'.flushInval (coreOf key) q.cin h.pa).count q.cin (dieOf key) h.pa h.plc
        let old := oldWord t h n
        let new := f.out (8 * n) (decide (u = 1) && f.hasU) (BitVec.ofNat (8 * n) (leNat old.1))
          ((laneGet q lane n b).setWidth (8 * n)) ((laneGet q lane n d).setWidth (8 * n))
        LaneLoads s key lane q v (f.instr d a b sc u wide) (lanePut n d (BitVec.ofNat 64 (leNat old.1))) old.2
          (q.dropStrip h.mt h.pa).chan ((t.homePut h.pa (leBytes n new.toNat)).releaseFrom t.mem)) ∧
      (even a → (wide = 1 → even d ∧ even b) → va.toNat % n ≠ 0 → LaneTraps s key lane (f.instr d a b sc u wide) codeAlign va v.pc) ∧
      (¬ even a ∨ wide = 1 ∧ (¬ even d ∨ ¬ even b) → encode (f.instr d a b sc u wide) = some w →
        LaneTraps s key lane (f.instr d a b sc u wide) codeIllop (w.setWidth 64) v.pc)

/-! ### The shape table, forks and replays -/

namespace Sys2Proof.Claims

/-- The geometry word of an entry (Table 3.1): KIND, W − 1, H − 1, the element offset, the cell column and the row. -/
def geometryWord (t : Shape) : Word :=
  let kind : BitVec 3 := match t.kind with | .row => 0 | .rect => 1 | .col => 2 | .diag => 3
  (0#20 ++ kind ++ BitVec.ofNat 12 (t.w - 1) ++ BitVec.ofNat 9 (t.h - 1) ++ BitVec.ofNat 3 (t.x0 % t.fmt.epc) ++
    BitVec.ofNat 8 (t.x0 / t.fmt.epc) ++ BitVec.ofNat 9 t.row0).setWidth 64

/-- What R58 and R62 require of an entry of a seat of `rows` rows. -/
structure FitsTable (t : Shape) (rows : Nat) : Prop where
  plane : InPlane t
  rows : t.row0 + t.h ≤ rows
  h : 1 ≤ t.h ∧ t.h ≤ 512
  w : 1 ≤ t.w ∧ t.w ≤ 4096
  thin : t.kind = .col ∨ t.kind = .diag → t.w = 1
  diag : t.kind = .diag → t.x0 + t.h ≤ 256 * t.fmt.epc
  col : t.x0 < 256 * t.fmt.epc
  row : t.row0 < 512

/-- The seat past a V-pipe instruction that takes effect at issue: VSAMPLE counts it with the entry it names (R293). -/
def counted (s : State) (q : Seat) (e : Ent) : Seat := (q.countNow e s.devtime).advance

/-- The instruction waits until every virtual processor has exited (R51). -/
def Joins (s : State) (key : Nat) (q : Seat) (i : Instr) : Prop := exec i s = .next (s.setSeat key { q with byp := none, wait := some .joined })

/-- A SHAPE trap at issue: ESHAPE names the entry, with ELEM 0 and PART 0. -/
def ShapeTraps (s : State) (key : Nat) (q : Seat) (i : Instr) (e : Ent) : Prop :=
  exec i s = .next ((s.setSeat key { q with sr := { q.sr with eshElem := 0, eshPart := false, eshEnt := e } }).takeTrap key
    ⟨codeShape, 0, 0, q.curPc⟩ false false)

end Sys2Proof.Claims

/-- R59, R62, R63, R64, R351, R399: DEFR defines the entry that a geometry word and a format word describe, where they fit the
plane, and SHRD reads them back, 0 and 0 from an undefined entry; v63 and words that describe no shape raise SHAPE. While a
fork is outstanding both first wait for it (R51). -/
def Sys2Proof.Claims.ShapeEntriesRule : Prop :=
  ∀ s key q, Ctl s key q → ∀ a b,
    (∀ d, q.forked = true → Joins s key q (.defr d a b) ∧ (a ≠ b ∨ a = 0 → Joins s key q (.shrd d a b))) ∧
    (q.forked = false → Settled q [a, b] →
    (∀ d (t : Shape), d ≠ 63 → FitsTable t q.rows → q.reg a = geometryWord t → q.reg b = BitVec.ofNat 64 t.fmt.code →
      exec (.defr d a b) s = .next (s.setSeat key ({ counted s q d with v := (q.setEntry d (some t)).v })) ∧
      ({ counted s q d with v := (q.setEntry d (some t)).v }).entry d = some t) ∧
    (∀ d, (d = 63 ∨ ∀ t : Shape, FitsTable t q.rows → ¬ (q.reg a = geometryWord t ∧ q.reg b = BitVec.ofNat 64 t.fmt.code)) →
      ShapeTraps s key q (.defr d a b) d) ∧
    (∀ e, e ≠ 63 → (a ≠ b ∨ a = 0) → ∃ q', exec (.shrd e a b) s = .next (s.setSeat key q') ∧ q' = { counted s q e with s := q'.s } ∧
      ∀ r, q'.reg r =
        if r = 0 then 0
        else if r = a then (match q.entry e with | some t => t.geometry | none => 0)
        else if r = b then (match q.entry e with | some t => BitVec.ofNat 64 (2 ^ 63 + t.fmt.code) | none => 0)
        else q.reg r) ∧
    (∀ t : Shape, FitsTable t q.rows → t.geometry = geometryWord t) ∧
    ((a ≠ b ∨ a = 0) → ShapeTraps s key q (.shrd 63 a b) 63))

/-- R65, R66, R67, R369, R397, R387: LAYOUT divides the plane into 2^n ROW strips of one format, sets MAXVL to a strip's elements,
at most 4096, and takes VL down to it; SETVL sets VL to s[sa] held between 0 and MAXVL and answers it; PZERO clears every
element of an entry. While a fork is outstanding each first waits for it (R51). -/
def Sys2Proof.Claims.LayoutsRule : Prop :=
  ∀ s key q,
    (Ctl s key q → q.forked = true → ∀ (n : BitVec 6) (f : BitVec 5) d a e,
      (n.toNat ≤ 5 → Joins s key q (.layout n f)) ∧ Joins s key q (.setvl d a) ∧ Joins s key q (.pzero e)) ∧
    (Ctl s key q → q.forked = false → q.vlBusy = false → ∀ (n : BitVec 6) (f : BitVec 5) fmt, n.toNat ≤ 5 → Fmt.ofCode f.toNat = some fmt →
      let k := 2 ^ n.toNat
      let maxvl := min 4096 (q.rows / k * (256 * fmt.epc))
      ∃ q', exec (.layout n f) s = .next (s.setSeat key q') ∧
        q' = { counted s q 0 with v := q'.v, sr := { q.sr with maxvl := maxvl, vl := min q.sr.vl maxvl } } ∧
        ∀ e : Ent, e ≠ 63 → q'.entry e =
          if e.toNat < k then some { kind := .row, row0 := e.toNat * (q.rows / k), x0 := 0, h := q.rows / k, w := 256 * fmt.epc, fmt := fmt }
          else if e.toNat < 32 then none else q.entry e) ∧
    (Ctl s key q → q.forked = false → q.vlBusy = false → ∀ (n : BitVec 6) (f : BitVec 5), n.toNat ≤ 5 → 17 ≤ f.toNat →
      ShapeTraps s key q (.layout n f) 0) ∧
    (Ctl s key q → q.forked = false → q.vlBusy = false → ∀ d a, Settled q [d, a] →
      let n := (max 0 (min (q.reg a).toInt q.sr.maxvl)).toNat
      ∃ q', exec (.setvl d a) s = .next (s.setSeat key q') ∧ q' = { counted s q 0 with s := q'.s, sr := { q.sr with vl := n } } ∧
        ∀ r, q'.reg r = if r = d ∧ r ≠ 0 then BitVec.ofNat 64 n else q.reg r) ∧
    ∀ d td, q.entry d = some td → InPlane td → Holds td q.sr.vl → Vec s key q 0 (td.count q.sr.vl) →
      WritesElems s key q (.pzero d) td (td.count q.sr.vl) (fun _ => true) (fun _ => 0) (fun _ => 0)

/-- DEFR, SHRD, LAYOUT, SETVL and PZERO.
The model's choices that it rests on: assumption 55. -/
def Obligations.ShapeTable : Prop :=
  Claims.ShapeEntriesRule ∧ Claims.LayoutsRule

namespace Sys2Proof.Claims

/-- The lanes a VFORK under a mask makes active (R45). -/
def forkLanes (q : Seat) (m : MaskNo) : List Nat := (List.range 256).filter fun l => decide (l < q.sr.vl) && active q m l

/-- A virtual processor of each lane, at an address; no fork of no lane. -/
def forkFor (a : Word) (l : List Nat) : Option Fork :=
  if l = [] then none else some ⟨l.map fun k => (k, ⟨a, [], 0, false, false⟩), l.length, [], [], []⟩

/-- The spill area of every one of those lanes translates for writing, one after another (R45, R251). -/
inductive Probes (key : Nat) (q : Seat) : List Nat → State → State → Prop where
  | nil (s : State) : Probes key q [] s s
  | cons {l : Nat} {rest : List Nat} {h : Hit} {s s' t : State} :
      s.translate (q.who key) .vstore ((q.sr.dvsp ++ 0#9) + BitVec.ofNat 64 (512 * l)) = (.ok h, s') → Probes key q rest s' t →
      Probes key q (l :: rest) s t

end Sys2Proof.Claims

/-- R44, R45, R49, R373, R421: VFORK makes a virtual processor, at s[sa] with an empty stack, of every lane below VL that its mask
selects, and none where there is none; VJOIN answers how many the last fork made once all have exited, and waits while one
has not; LEXIT ends its processor; LFETCH asks for the block of its address, which the cluster's buffer holds when it has
been fetched. A misaligned address raises ALIGN, LROW0 too near the end of the plane SHAPE, a second fork ILLOP.
The model's choices that it rests on: assumptions 20, 27, 55. -/
def Obligations.Forks : Prop :=
  (∀ s key q, Ctl s key q → q.pend = [] → q.gathers = [] → ∀ a (m : MaskNo) d,
    (q.forked = false → (q.reg a).toNat % 4 = 0 → q.sr.lrow0 + 32 ≤ q.rows → ∀ t, Probes key q (forkLanes q m) s t →
      exec (.vfork a m) s = .next (t.setSeat key { counted s q 0 with fork := forkFor (q.reg a) (forkLanes q m) })) ∧
    (q.forked = false → (q.reg a).toNat % 4 ≠ 0 → Traps s key (.vfork a m) codeAlign 0 (q.reg a) q.curPc) ∧
    (q.forked = false → (q.reg a).toNat % 4 = 0 → q.rows < q.sr.lrow0 + 32 → ShapeTraps s key q (.vfork a m) 0) ∧
    (∀ w, encode (.vfork a m) = some w → q.forked = true → Traps s key (.vfork a m) codeIllop 0 (w.setWidth 64) q.curPc) ∧
    (q.forked = true → exec (.vjoin d) s = .next (s.setSeat key { q with byp := none, wait := some .vjoin })) ∧
    (q.forked = false → ∃ q', exec (.vjoin d) s = .next (s.setSeat key q') ∧ q' = { counted s q 0 with s := q'.s, fork := none } ∧
      ∀ r, q'.reg r = if r = d ∧ r ≠ 0 then BitVec.ofNat 64 (match q.fork with | some f => f.created | none => 0) else q.reg r)) ∧
  (∀ s key lane q v, Lane s key lane q v →
    (∀ f, q.fork = some f → mapOkFrom (fun _ => true) 0 f.vps = true →
      exec .lexit s = .next (s.setSeat key { q with noWatchVp := past q lane, fork := some { f with vps := f.vps.filter fun x => x.1 ≠ lane } })) ∧
    (∀ a w, a.getLsbD 0 = true → encode (.lfetch a) = some w → LaneTraps s key lane (.lfetch a) codeIllop (w.setWidth 64) v.pc) ∧
    ∀ a f, q.fork = some f → a.getLsbD 0 = false →
      let cb := (lane / 32, (q.lanePair lane a).toNat / 512)
      (f.buffered cb.1 cb.2 ≠ none → GoesLane s key lane q v (.lfetch a) (v.pc + 4)) ∧
      ∀ l t, f.buffered cb.1 cb.2 = none → s.fetchBlock (q.who key) cb.2 = .ok (l, t) →
        ∃ q', exec (.lfetch a) s = .next (t.setSeat key q') ∧ q' = { q with fork := q'.fork, noWatchVp := past q lane } ∧
          q'.vp lane = some { v with pc := v.pc + 4 } ∧ (∀ k, k ≠ lane → q'.vp k = q.vp k) ∧
          ∀ f', q'.fork = some f' → cb ∈ f'.fetching) ∧
  ∀ s key q f cluster block l t, s.seat key = some q → q.fork = some f → (cluster, block) ∈ f.fetching →
    s.fetchBlock (q.who key) block = .ok (l, t) →
    ∃ q', exec (.laneBlockFetchDone key cluster block) s = .next (t.setSeat key q') ∧ q' = { q with fork := q'.fork } ∧
      ∃ f', q'.fork = some f' ∧ f'.buffered cluster block = some l ∧ (cluster, block) ∉ f'.fetching ∧
        f'.vps = f.vps.map fun x =>
          (x.1, if x.1 / 32 = cluster ∧ x.2.pc.toNat / 512 = block then { x.2 with waiting := false } else x.2)

/-! ### Replays -/

namespace Sys2Proof.Claims

/-- A word that a capture may hold (R134): majors 0x20 to 0x27, 0x2C and 0x2D, and MX, major 0x34, but for LDST. -/
def MayCapture (w : BitVec 32) : Prop :=
  ∃ i, decodeWord w = some i ∧ (∀ a b f g t, i ≠ .ldst a b f g t) ∧
    ((0x20 ≤ w.toNat / 2 ^ 26 ∧ w.toNat / 2 ^ 26 ≤ 0x27) ∨ w.toNat / 2 ^ 26 = 0x2C ∨ w.toNat / 2 ^ 26 = 0x2D ∨ w.toNat / 2 ^ 26 = 0x34)

/-- The n words of a run that is fetched from an address on (R391). -/
inductive Captured (who : Accessor) (pc : Word) : Word → State → List (BitVec 32) → State → Prop where
  | nil (a : Word) (s : State) : Captured who pc a s [] s
  | cons {a : Word} {w : BitVec 32} {rest : List (BitVec 32)} {s s' t : State} :
      s.fetchAt who a pc = .ok (w, s') → Captured who pc (a + 4) s' rest t → Captured who pc a s (w :: rest) t

/-- The entry that a shifted field names, or the SHAPE of it (R134, R392): at most v62. -/
def within (l : List Nat) : Prop := ∀ e ∈ l, e ≤ 62

/-- MSEQ while the replay of a seat stands at `r` (R135). -/
def mseqAt (q : Seat) (j pos : Nat) : Sregs := { q.sr with mseqAct := true, mseqJ := BitVec.ofNat 5 j, mseqPos := BitVec.ofNat 4 pos }

end Sys2Proof.Claims

/-- R133, R134, R135, R391: REPF fetches the next n words, raises ILLOP at the first that a run may not hold, and otherwise begins
the replays, with MSEQ.ACT 1; each instruction that issues takes them to the next position, the next replay, or past the
run, where ACT stays 1 while an MMT or LDST, or a replay that a trap interrupted, is stopped; and a replayed vector instruction
has j × dv added to its entry fields, with SHAPE for a field above 62. While a fork is outstanding REPF waits for it (R51).
The model's choices that it rests on: assumptions 25, 43, 55. -/
def Obligations.Replays : Prop :=
  (∀ s key q, Ctl s key q → q.forked = true → ∀ (v : BitVec 6) (n k : BitVec 5) (c : BitVec 7), n.toNat ≤ 15 →
    Joins s key q (.repf v n k c)) ∧
  (∀ s key q, Ctl s key q → q.forked = false → q.replay = none → ∀ (v : BitVec 6) (n k : BitVec 5) (c : BitVec 7), n.toNat ≤ 15 → ∀ words t,
    words.length = n.toNat + 1 → Captured (q.who key) q.pc (q.pc + 4) s words t →
    ((∀ w ∈ words, MayCapture w) → exec (.repf v n k c) s = .next (t.setSeat key { q.countNow 0 s.devtime with
      byp := none, noWatch := false, wait := none
      replay := some ⟨words, q.pc + 4, k.toNat + 1, v.toNat, c.toNat, 0, 0⟩, sr := mseqAt q 0 0 })) ∧
    ∀ i w, words[i]? = some w → ¬ MayCapture w → (∀ j u, j < i → words[j]? = some u → MayCapture u) →
      exec (.repf v n k c) s = .next (t.takeTrap key ⟨codeIllop, 0, w.setWidth 64, q.pc + BitVec.ofNat 64 (4 * (i + 1))⟩ false false)) ∧
  (∀ (q : Seat) r, q.replay = some r →
    (r.pos + 1 < r.words.length → q.advance = { q with
      byp := none, noWatch := false, wait := none, replay := some { r with pos := r.pos + 1 }, sr := mseqAt q r.j (r.pos + 1) }) ∧
    (r.words.length ≤ r.pos + 1 → r.j + 1 < r.k → q.advance = { q with
      byp := none, noWatch := false, wait := none, replay := some { r with j := r.j + 1, pos := 0 }, sr := mseqAt q (r.j + 1) 0 }) ∧
    (r.words.length ≤ r.pos + 1 → r.k ≤ r.j + 1 → q.advance = { q with
      byp := none, noWatch := false, wait := none, replay := none, pc := r.base + BitVec.ofNat 64 (4 * r.words.length)
      sr := { q.sr with mseqAct := q.replaySaved.isSome || q.mxStopped, mseqJ := 0, mseqPos := 0 } })) ∧
  ∀ s key q r, Ctl s key q → q.replay = some r → ∀ w, r.words[r.pos]? = some w →
    let k := r.j * r.dv
    let up := fun (e : Ent) => BitVec.ofNat 6 (e.toNat + k)
    (∀ f ∈ vvForms, ∀ d a b x y m, encode (f.instr d a b x y m) = some w →
      (within [d.toNat + k, a.toNat + k, b.toNat + k] → ∃ w', encode (f.instr (up d) (up a) (up b) x y m) = some w' ∧
        s.fetch ⟨key, none⟩ = some (.word w' s)) ∧
      (¬ within [d.toNat + k, a.toNat + k, b.toNat + k] → s.fetch ⟨key, none⟩ = some (.shape
        (if 62 < d.toNat + k then up d else if 62 < a.toNat + k then up a else up b)))) ∧
    ∀ a (p : BitVec 9) c x, encode (.mmt a p c x) = some w →
      (within [a.toNat + k] → p.toNat + r.j * r.dacc < 512 → ∃ w', encode (.mmt (up a) (BitVec.ofNat 9 (p.toNat + r.j * r.dacc)) c x) = some w' ∧
        s.fetch ⟨key, none⟩ = some (.word w' s)) ∧
      (¬ within [a.toNat + k] → s.fetch ⟨key, none⟩ = some (.shape (up a))) ∧
      (within [a.toNat + k] → 512 ≤ p.toNat + r.j * r.dacc → s.fetch ⟨key, none⟩ = some (.shape 0))

/-! ### Traps and the way back -/

namespace Sys2Proof.Claims

/-- The open stage of a bypass chain stands last in the queue (R72, R83). -/
def OpenStage (q : Seat) (l : List Cap) (c : Cap) : Prop :=
  q.pend = l ++ [c] ∧ c.isStage = true ∧ ∃ ch b, q.byp = some ch ∧ c.chain = some b ∧ b.pc = ch.pc

/-- What a trap leaves queued and set aside: the open stage of a bypass chain waits for the way back. -/
def Keeps (q : Seat) (pend aside : List Cap) : Prop :=
  ((∀ l c, ¬ OpenStage q l c) ∧ pend = q.pend ∧ aside = q.aside) ∨ ∃ c, OpenStage q pend c ∧ aside = q.aside ++ [c]

end Sys2Proof.Claims

/-- R241, R242, R50, R246: a trap saves its code, detail, value and PC in CAUSE, EVAL and EPC, sets STATUS.INTRAP, DEFER for a late
one and LANE for one of a virtual processor, and goes to TVEC in the seat's own mode; the position it interrupts is kept
where it is not EPC's, and the open stage of a bypass chain is set aside with it; the handler's own instructions fire watchpoints
again. With INTRAP set already, or no handler, the node fails: its seat is discarded and its launch records
cause, PC and value; only an active PREFETCH of it, which ends, writes memory (R187). A late stop of a queued command sets that command aside.
The model's choices that it rests on: assumptions 21, 22, 76. -/
def Obligations.TakingTraps : Prop :=
  (∀ (s : State) key q (t : Trap) late lane, s.seat key = some q →
    (q.status.intrap = false → q.sr.tvec ≠ 0 → (s.die (dieOf key)).baro = none →
      ∀ pend aside, Keeps q pend aside → s.takeTrap key t late lane = s.setSeat key { q with
        pend := pend, aside := aside, noWatch := false, noWatchSaved := decide (q.noWatch = true ∧ (late = true ∨ lane = true))
        noWatchVp := if lane = true then none else q.noWatchVp
        pc := q.sr.tvec ++ 0#2
        resume := if late = true ∨ lane = true then q.curPc else q.resume
        halted := false, replay := none, replaySaved := q.replay, byp := none, bypSaved := q.byp, wait := none, waitSaved := q.wait
        status := { q.status with defer := late, intrap := true, lane := lane }
        sr := { (match q.replay with | some r => mseqAt q r.j r.pos | none => q.sr) with
          causeCode := t.code, causeDetail := t.detail, epc := t.pc, eval := t.value } }) ∧
    (q.status.intrap = true ∨ q.sr.tvec = 0 → mapOkFrom (fun _ => true) 0 s.seats = true →
      (s.takeTrap key t late lane).seat key = none ∧
      ((∀ (ch : Fin 4) a x, q.chan[ch] = some a → a.cap.cmd ≠ .prefetch x) → (s.takeTrap key t late lane).mem = s.mem) ∧
      (∀ k, k ≠ key → (s.takeTrap key t late lane).seat k = s.seat k) ∧
      ∀ l, s.launch q.ctx q.launch = some l → ∃ l', (s.takeTrap key t late lane).launch q.ctx q.launch = some l' ∧
        l'.failures = l.failures ++ [⟨q.node, t.detail ++ t.code, t.pc, t.value⟩] ∧
        l'.nodes = l.nodes.map fun n => if n.addr = q.node then { n with state := .failed, image := none } else n)) ∧
  ∀ (s : State) key q c s' t c' q', s.seat key = some q → q.pend = [c] → q.gathers = [] → q.park = none → c.sysScope = false →
    (∀ m, c.cmd ≠ .qfence m) → q.byp = none → s.perform key c = .stop s' t c' → s'.seat key = some q' → q'.pend = [c] → t.code ≠ codeXlate →
    exec (.trapEntry key 0) s = .next ((s'.setSeat key { q' with pend := [], aside := q'.aside ++ [{ c' with unwatched := false }] }).takeTrap key t true false)

namespace Sys2Proof.Claims

/-- What STATUS becomes on the way back. -/
def returned (q : Seat) : Status := { q.status with defer := false, intrap := false, lane := false }

/-- The instruction that ERET resumes fires no watchpoint (R296): the one that raised WATCH, and one whose issue a trap of another
came before. -/
def watchless (q : Seat) : Bool :=
  decide (if q.status.defer = true ∨ q.status.lane = true then q.noWatchSaved = true else q.sr.causeCode = codeWatch)

/-- The position behind a precise trap: EPC + 4 after BRK and TRAP, and EPC otherwise; PC has no bits below a word (R309). -/
def behind (q : Seat) : Word :=
  (if q.sr.causeCode = codeBrk ∨ q.sr.causeCode = codeTrap then q.sr.epc + 4 else q.sr.epc) &&& ~~~3#64

end Sys2Proof.Claims

/-- R243, R353, R50: ERET outside a handler raises ILLOP. In one, with nothing queued, it clears INTRAP, DEFER and LANE and goes on
at EPC, at EPC + 4 after BRK and TRAP, and after a late trap or one of a virtual processor where the control thread stood;
the processor that trapped goes on at EPC, or behind its TRAP or BRK. Set-aside commands stand in their queues again,
oldest first, and a bypass chain and a wait go on. After a WATCH that was not late the instruction it returns to, of the
control thread or of that processor, fires no watchpoint (R296). An interrupted replay goes on, but for a precise trap whose
handler has written EPC, which leaves it. -/
def Sys2Proof.Claims.ReturningFromTrapsRule : Prop :=
  ∀ s key q, Ctl s key q →
    (∀ w, encode .eret = some w → q.status.intrap = false → Traps s key .eret codeIllop 0 (w.setWidth 64) q.curPc) ∧
    (q.status.intrap = true → q.pend = [] → q.replaySaved = none → (s.hold = true ∨ q.aside = []) →
      ∃ q', exec .eret s = .next (s.setSeat key q') ∧
        q' = { q with
          pc := if q.status.defer = true ∨ q.status.lane = true then q.resume else behind q
          replay := none, byp := q.bypSaved, bypSaved := none, wait := q.waitSaved, waitSaved := none, aside := [], status := returned q
          noWatch := watchless q, noWatchSaved := false
          noWatchVp := if q.sr.causeCode = codeWatch ∧ q.status.lane = true then q.trappedVp else q.noWatchVp
          fork := q'.fork, pend := q'.pend } ∧
        q'.pend.map (fun c => (c.cmd, c.pc)) = q.aside.map (fun c => (c.cmd, c.pc)) ∧
        (q.status.lane = false → q'.fork = q.fork) ∧
        (q.status.lane = true → ∀ f, q.fork = some f → q'.fork = some { f with vps := f.vps.map fun x =>
          (x.1, if x.2.trapped = true then { x.2 with trapped := false, pc := behind q } else x.2) })) ∧
    ∀ r, q.status.intrap = true → q.pend = [] → q.aside = [] → q.replaySaved = some r → q.status.lane = false →
      (q.status.defer = true ∨ q.sr.epc = r.base + BitVec.ofNat 64 (4 * r.pos) →
        exec .eret s = .next (s.setSeat key { q with
          pc := if q.status.defer = true then q.resume else behind q
          replay := some r, replaySaved := none, byp := q.bypSaved, bypSaved := none, wait := q.waitSaved, waitSaved := none
          status := returned q, noWatch := watchless q, noWatchSaved := false })) ∧
      (q.status.defer = false → q.sr.epc ≠ r.base + BitVec.ofNat 64 (4 * r.pos) →
        exec .eret s = .next (s.setSeat key { q with
          pc := behind q, replay := none, replaySaved := none, byp := q.bypSaved, bypSaved := none, wait := q.waitSaved
          waitSaved := none, status := returned q, noWatch := watchless q, noWatchSaved := false
          sr := { q.sr with mseqAct := false, mseqJ := 0, mseqPos := 0 } }))

namespace Sys2Proof.Claims

/-- The instructions of Table 2.6. -/
def OfLanes (i : Instr) : Prop :=
  (∃ f ∈ arithForms ++ bitForms, ∃ d a b, i = f.instr d a b) ∨ (∃ f ∈ immForms, ∃ d a k, i = f.instr d a k) ∨
  (∃ f ∈ shiftForms, ∃ d a k h, i = f.instr d a k h) ∨ (∃ d k, i = .lui d k) ∨ (∃ d a, i = .clz d a ∨ i = .popc d a) ∨
  (∃ d a b, i = .sel d a b) ∨ (∃ f ∈ loadForms, ∃ d a k, i = f.instr d a k) ∨ (∃ f ∈ storeForms, ∃ d a k, i = f.instr d a k) ∨
  (∃ f ∈ branchForms, ∃ a b o, i = f.instr a b o) ∨ (∃ o, i = .jmp o ∨ i = .jal o) ∨ i = .ret ∨
  (∃ f ∈ atomForms, ∃ d a b sc u w, i = f.instr d a b sc u w) ∨ i = .brk ∨ (∃ a, i = .trap a ∨ i = .lfetch a) ∨ i = .lexit

end Sys2Proof.Claims

/-- R408, R343, R366, R311, R309, R47, R373: TRAP raises TRAP with s[sa] in EVAL and BRK raises BRK, in the control thread and in a
virtual processor; HALT ends issue and discards set-aside commands; a word that names no instruction, an instruction
outside Table 2.6 in a virtual processor, and LEXIT and LFETCH in the control thread raise ILLOP with the word in EVAL; a
fetch that faults traps. -/
def Sys2Proof.Claims.AskedTrapsRule : Prop :=
  (∀ s key q, Ctl s key q →
    (∀ a, Settled q [a] → Traps s key (.trap a) codeTrap 0 (q.reg a) q.curPc) ∧
    Traps s key .brk codeBrk 0 0 q.curPc ∧
    ((∀ ch : Fin 4, q.chan[ch] = none) → exec .halt s = .next (s.setSeat key
      { q with byp := none, noWatch := false, wait := none, halted := true, aside := [] })) ∧
    (∀ w, decodeWord w = none → Traps s key (.wordNamingNoInstruction w) codeIllop 0 (w.setWidth 64) q.curPc) ∧
    (∀ a w, (encode (.lfetch a) = some w → Traps s key (.lfetch a) codeIllop 0 (w.setWidth 64) q.curPc) ∧
      (encode .lexit = some w → Traps s key .lexit codeIllop 0 (w.setWidth 64) q.curPc)) ∧
    ∀ f s', q.replay = none → s.translate (q.who key) .fetch q.pc = (.fault f, s') → (f.code ≠ codeXlate ∨ s.onDemand q.ctx q.pc = false) →
      Traps s key .instructionFetchFault f.code f.detail q.pc q.pc) ∧
  ∀ s key lane q v, Lane s key lane q v →
    (∀ a, LaneTraps s key lane (.trap a) codeTrap ((q.laneReg lane a).setWidth 64) v.pc) ∧ LaneTraps s key lane .brk codeBrk 0 v.pc ∧
    (∀ w, decodeWord w = none → LaneTraps s key lane (.wordNamingNoInstruction w) codeIllop (w.setWidth 64) v.pc) ∧
    (∀ i w, encode i = some w → ¬ OfLanes i → LaneTraps s key lane i codeIllop (w.setWidth 64) v.pc) ∧
    ∀ (t : Trap) f, q.fork = some f → t.code ≠ codeXlate → s.vpTrap key lane t = (s.setSeat key { q with
      fork := some { f with vps := f.vps.map fun x => (x.1, if x.1 = lane then { x.2 with trapped := true } else x.2) }
      sr := { q.sr with eshElem := BitVec.ofNat 32 lane, eshPart := false, eshEnt := 0 } }).takeTrap key t false true

/-- The instructions that raise a trap of themselves, and ERET.
The model's choices that it rests on: assumptions 21, 22, 26, 43, 76, 80. -/
def Obligations.TrapsTakenAndLeft : Prop :=
  Claims.ReturningFromTrapsRule ∧ Claims.AskedTrapsRule

/-! ### Special registers -/

namespace Sys2Proof.Claims

def modeCode : Rm → BitVec 3
  | .rne => 0 | .rtz => 1 | .rdn => 2 | .rup => 3 | .rna => 4 | .sr => 5

/-- A field of n bits in 64. -/
def field {n : Nat} (x : BitVec n) : Word := x.setWidth 64

/-- The registers of a seat with their values (Table 16.6). -/
def seatRegisters (q : Seat) : List (Nat × Word) :=
  [(0, BitVec.ofNat 64 q.sr.vl), (1, BitVec.ofNat 64 q.sr.maxvl), (2, q.sr.stripbase), (3, q.sr.seed),
   (4, field (BitVec.ofBool q.sr.ovfns ++ modeCode q.sr.mode)), (5, field q.sr.excen), (6, field q.sr.excflags),
   (7, field q.sr.qblk), (8, field q.sr.decay), (9, field q.sr.mxsa), (10, field q.sr.nmsel), (11, field q.sr.spf),
   (12, BitVec.ofNat 64 q.sr.lrow0),
   (13, field (BitVec.ofBool q.sr.mseqAct ++ q.sr.mseqJ ++ q.sr.mseqPos ++ 0#11 ++ q.sr.mseqRow)), (14, field q.sr.ldstlen),
   (32, field (BitVec.ofBool q.status.lifechg ++ BitVec.ofBool q.status.exp ++ 0#1 ++ BitVec.ofBool q.status.defer ++
     BitVec.ofBool q.status.lane ++ BitVec.ofBool q.status.intrap ++ BitVec.ofBool q.status.prv)),
   (33, field (q.sr.causeDetail ++ q.sr.causeCode)), (34, q.sr.epc), (35, q.sr.eval),
   (36, q.sr.eshElem ++ BitVec.ofBool q.sr.eshPart ++ 0#25 ++ q.sr.eshEnt), (37, q.sr.tvec ++ 0#2), (38, q.sr.rsp ++ 0#6),
   (39, q.sr.dvsp ++ 0#9), (48, q.sr.cpixCause ++ q.sr.cpixDetail ++ 0#10 ++ q.sr.cpixTag ++ q.sr.cpixElem), (49, q.tags),
   (50, q.tagfault), (64, BitVec.ofNat 64 q.handle), (65, field q.inc), (70, field q.sr.prio),
   (128, field (BitVec.ofBool q.sr.trcErr ++ q.sr.trcN)), (129, q.sr.sbase ++ 0#12), (130, field q.sr.ssize), (131, q.sr.swptr),
   (132, q.sr.srdptr), (133, q.sr.dropped), (134, q.sr.rvbase ++ 0#13), (135, q.sr.rvcnt), (513, field q.sr.cvtidx),
   (515, field (BitVec.ofNat 12 q.ctx ++ q.inc))] ++
  ((List.range 8).map fun k => (40 + k, field (q.sr.restart.getD k 0))) ++
  ((List.range 4).map fun k => (66 + k, match q.sr.gslot.getD k none with
    | some g => field (1#1 ++ 0#7 ++ g)
    | none => 0)) ++
  ((List.range 4).map fun k => (136 + 2 * k, field (q.sr.wpLow.getD k 0))) ++
  ((List.range 4).map fun k => (137 + 2 * k, q.sr.wpMode.getD k 0 ++ 0#4 ++ q.sr.wpHigh.getD k 0))

/-- The registers that time moves: those of a clock, a die, a quad and a pair. -/
def timedRegisters (s : State) (key : Nat) (q : Seat) : List (Nat × Word) :=
  let quad := s.quad (quadOfCore (coreOf key))
  let pair := s.pair (pairOfQuad (quadOfCore (coreOf key)))
  [(96, BitVec.ofNat 64 s.devtime), (97, BitVec.ofNat 64 (s.core (coreOf key)).cycle), (98, BitVec.ofNat 64 (s.devtime / 100)),
   (99, BitVec.ofNat 64 (s.die (dieOf key)).life), (100, BitVec.ofNat 64 ((if pair.locked then 256 else 0) + pair.permits)),
   (101, BitVec.ofNat 64 (quad.why.toNat * 256 + (if q.sr.claim then 16 else 0) + quad.lvl)), (102, field quad.chainperm),
   (103, BitVec.ofNat 64 (quad.clamp * 2 ^ 48 + quad.steps.toNat))]

/-- The registers that report the state of a context or a VI. -/
def sharedRegisters (s : State) (key : Nat) (q : Seat) : List (Nat × Word) :=
  (match s.ctx q.ctx with
    | some c => [(104, c.localRq.getD (dieOf key) 0), (105, c.remoteRq.getD (dieOf key) 0), (512, c.ptroot)]
    | none => []) ++
  match mapFind s.vis q.vi with
    | some v => [(514, BitVec.ofNat 64 (mapGet 0 v.cvt q.sr.cvtidx.toNat).toNat)]
    | none => []

/-- The five bits above and the five below of a register's number in the word. -/
def numberOf (h l : BitVec 5) : Nat := 32 * h.toNat + l.toNat

/-- Numbers of Table 16.6. -/
def assigned (n : Nat) : Prop :=
  n ≤ 14 ∨ 32 ≤ n ∧ n ≤ 50 ∨ 64 ≤ n ∧ n ≤ 70 ∨ 96 ≤ n ∧ n ≤ 105 ∨ 128 ≤ n ∧ n ≤ 143 ∨ 512 ≤ n ∧ n ≤ 516

end Sys2Proof.Claims

/-- R319, R320, R378, Table 16.6, R264: MFSR of a register that the number names, in a mode that may, writes its value to sd; those
that time moves are read as they stand after some more time, how much the spec leaves open; CTXLK reads the named context's CIN, or NONE. A number that
Table 16.6 does not assign raises ILLOP, and one from 512 on raises PRIV in user mode.
The model's choices that it rests on: assumption 9. -/
def Obligations.SpecialReads : Prop :=
  ∀ s key q, Ctl s key q → q.pend = [] → ∀ d h l,
    (∀ x ∈ seatRegisters q ++ sharedRegisters s key q, x.1 = numberOf h l → (x.1 < 512 ∨ q.status.prv = true) →
      Sets s key q (.mfsr d h l) d x.2) ∧
    (96 ≤ numberOf h l → numberOf h l ≤ 103 → ∃ k q0 q', let t := State.lapse { s with freeN := s.freeN + 1 } k
      exec (.mfsr d h l) s = .next (t.setSeat key q') ∧ t.seat key = some q0 ∧ q' = { q0.advance with s := q'.s } ∧
      ∀ x ∈ timedRegisters t key q0, x.1 = numberOf h l → ∀ r, q'.reg r = if r = d ∧ r ≠ 0 then x.2 else q0.reg r) ∧
    (q.status.prv = true → ∀ none_ cin,
      (match s.ctxs.find? fun x => x.2.vi = q.sr.ctxlkVi.toNat ∧ x.2.handle = q.sr.ctxlkHandle.toNat with
        | some x => none_ = false ∧ cin = BitVec.ofNat 12 x.1 ++ x.2.inc
        | none => none_ = true ∧ cin = 0) →
      let w : Word := BitVec.ofBool none_ ++ 0#13 ++ cin ++ 0#6 ++ q.sr.ctxlkVi ++ 0#3 ++ q.sr.ctxlkHandle
      ∀ i ∈ [Instr.mfsr d 16 4, .mfsrCtxlk d], ∃ q', exec i s = .next (s.setSeat key q') ∧
        q' = { q.advance with s := q'.s, sr := { q.advance.sr with ctxlkNone := none_, ctxlkCin := cin } } ∧
        ∀ r, q'.reg r = if r = d ∧ r ≠ 0 then w else q.reg r) ∧
    ∀ w, encode (.mfsr d h l) = some w →
      (¬ assigned (numberOf h l) → Traps s key (.mfsr d h l) codeIllop 0 (w.setWidth 64) q.curPc) ∧
      (assigned (numberOf h l) → 512 ≤ numberOf h l → q.status.prv = false →
        Traps s key (.mfsr d h l) codePriv 0 (w.setWidth 64) q.curPc)

namespace Sys2Proof.Claims

/-- The special registers that a write of `w` leaves in the seat, for the registers a program may write (Table 16.6, R319). -/
def writes (r : Sregs) (w : Word) : List (Nat × Sregs) :=
  [(2, { r with stripbase := w }), (3, { r with seed := w }), (5, { r with excen := w.extractLsb' 2 3 ++ 0#2 }),
   (6, { r with excflags := w.extractLsb' 0 5 }), (8, { r with decay := w.extractLsb' 0 32 }), (9, { r with mxsa := w.extractLsb' 0 6 }),
   (11, { r with spf := w.extractLsb' 0 32 }), (12, { r with lrow0 := (w.extractLsb' 0 9).toNat }),
   (33, { r with causeCode := w.extractLsb' 0 8, causeDetail := w.extractLsb' 8 8 }), (34, { r with epc := w }), (35, { r with eval := w }),
   (36, { r with eshElem := w.extractLsb' 32 32, eshPart := w.getLsbD 31, eshEnt := w.extractLsb' 0 6 }),
   (37, { r with tvec := w.extractLsb' 2 62 }), (38, { r with rsp := w.extractLsb' 6 58 }), (39, { r with dvsp := w.extractLsb' 9 55 }),
   (48, { r with cpixCause := w.extractLsb' 56 8, cpixDetail := w.extractLsb' 48 8, cpixTag := w.extractLsb' 32 6
                 cpixElem := w.extractLsb' 0 32 }),
   (0, { r with vl := min (w.extractLsb' 0 13).toNat r.maxvl }), (101, { r with claim := w.getLsbD 4 }),
   (132, if w.toNat ≤ r.swptr.toNat then { r with srdptr := w } else r), (131, r), (133, r), (135, r),
   (513, { r with cvtidx := w.extractLsb' 0 8 }), (516, { r with ctxlkVi := w.extractLsb' 16 10, ctxlkHandle := w.extractLsb' 0 13 })] ++
  (List.finRange 8).map (fun k => (40 + k.val, { r with restart := r.restart.set k (w.extractLsb' 0 32) })) ++
  (if (w.extractLsb' 0 3).toNat ≤ 5 then
    [(4, { r with ovfns := w.getLsbD 3
                  mode := match (w.extractLsb' 0 3).toNat with
                    | 0 => .rne | 1 => .rtz | 2 => .rdn | 3 => .rup | 4 => .rna | _ => .sr })] else []) ++
  (if w.extractLsb' 0 2 ≠ 3 then [(7, { r with qblk := w.extractLsb' 0 2 }), (10, { r with nmsel := w.extractLsb' 0 2 })] else []) ++
  (if w.extractLsb' 18 46 = 0 then [(128, { r with trcErr := w.getLsbD 17, trcN := w.extractLsb' 0 17 })] else []) ++
  (if w.extractLsb' 0 12 = 0 then [(129, { r with sbase := w.extractLsb' 12 52 })] else []) ++
  (if w.extractLsb' 20 44 = 0 then [(130, { r with ssize := w.extractLsb' 0 20 })] else []) ++
  (if w.extractLsb' 0 13 = 0 then [(134, { r with rvbase := w.extractLsb' 13 51 })] else []) ++
  (if w.extractLsb' 58 6 = 0 then (List.finRange 4).map fun k => (136 + 2 * k.val, { r with wpLow := r.wpLow.set k (w.extractLsb' 0 58) }) else []) ++
  (if w.extractLsb' 58 4 = 0 then (List.finRange 4).map fun k => (137 + 2 * k.val,
    { r with wpHigh := r.wpHigh.set k (w.extractLsb' 0 58), wpMode := r.wpMode.set k (w.extractLsb' 62 2) }) else [])

/-- The constructors of the rows that write one register. -/
def ownRow (a : Reg) : List (Nat × Instr) :=
  [(0, .mtsrVl a), (6, .mtsrExcflags a), (32, .mtsrStatus a), (101, .mtsrGustlvl a), (132, .mtsrSrdptr a), (512, .mtsrPtroot a),
   (514, .mtsrCvtdat a), (516, .mtsrCtxlk a)]

/-- The instruction words of a write of register n: MTSR, or the row of its own. -/
def WritesNo (a : Reg) (n : Nat) (i : Instr) : Prop := (∃ h l, numberOf h l = n ∧ i = .mtsr a h l) ∨ (n, i) ∈ ownRow a

/-- Registers with a writable field (R319, R288). -/
def Writable (n : Nat) : Prop :=
  n ∈ [0, 2, 3, 4, 5, 6, 7, 8, 9, 10, 11, 12, 32, 48, 101, 512, 513, 514, 516] ∨ 33 ≤ n ∧ n ≤ 47 ∨ 128 ≤ n ∧ n ≤ 143

end Sys2Proof.Claims

/-- R319, R378, R68, R96, R167, R239, R277, R289, R140, R189: MTSR writes the writable fields of its register; STATUS takes EXP and
LIFECHG only, PTROOT the root of the context, CVTDAT the VI's entry at CVTIDX, which counts up. A number that Table 16.6
does not assign, a register that is read-only and a reserved value raise ILLOP, a privileged number in user mode PRIV.
The model's choices that it rests on: assumption 28. -/
def Obligations.SpecialWrites : Prop :=
  ∀ s key q, Ctl s key q → q.pend = [] → q.forked = false → ∀ a i n, WritesNo a n i → (n < 512 ∨ q.status.prv = true) →
    (∀ x ∈ writes q.sr (q.reg a), x.1 = n → exec i s = .next (s.setSeat key
      ({ q with sr := x.2 } : Seat).advance)) ∧
    (n = 32 → exec i s = .next (s.setSeat key { q.advance with
      status := { q.status with exp := (q.reg a).getLsbD 5, lifechg := (q.reg a).getLsbD 6 } })) ∧
    (∀ c, n = 512 → s.ctx q.ctx = some c → exec i s = .next ((s.setCtx q.ctx
      { c with ptroot := 0#12 ++ (q.reg a).extractLsb' 14 38 ++ 0#14 }).setSeat key q.advance)) ∧
    (∀ v, n = 514 → mapFind s.vis q.vi = some v →
      ∃ t : State, exec i s = .next (t.setSeat key ({ q with sr := { q.sr with cvtidx := q.sr.cvtidx + 1 } } : Seat).advance) ∧
        t = { s with vis := t.vis } ∧ (∀ k, k ≠ q.vi → mapFind t.vis k = mapFind s.vis k) ∧
        mapFind t.vis q.vi = some { v with cvt := mapSet 0 v.cvt q.sr.cvtidx.toNat ((q.reg a).extractLsb' 0 16) }) ∧
    (∀ w h l, n = numberOf h l → i = .mtsr a h l → encode i = some w →
      (¬ assigned n ∨ ¬ Writable n ∨ (n ≠ 32 ∧ n ≠ 512 ∧ n ≠ 514 ∧ ∀ x ∈ writes q.sr (q.reg a), x.1 ≠ n) →
        Traps s key i codeIllop 0 (w.setWidth 64) q.curPc)) ∧
    ∀ q', q' = { q with status := { q.status with prv := false } } → ∀ w h l, 512 ≤ numberOf h l → assigned (numberOf h l) →
      encode (.mtsr a h l) = some w →
      Traps (s.setSeat key q') key (.mtsr a h l) codePriv 0 (w.setWidth 64) q.curPc

/-! ### The scheduler -/

namespace Sys2Proof.Claims

/-- A ready node of a running launch that waits for no page (R29, R248). -/
structure Waiting (s : State) (l : Launch) (n : Node) : Prop where
  launch : l ∈ s.launches ∧ l.state = .running
  node : n ∈ l.nodes ∧ n.state = .ready ∧ n.blocked = none

/-- effpri: PRIO and one for every millisecond of waiting, at most 7 (R34). -/
def priority (n : Node) (now : Nat) : Nat := min 7 ((n.ctl.extractLsb' 2 3).toNat + (now - n.readyAt) / 100000)

/-- The order of R34: effective priority, then the earlier ready time, then the lower VI, then the lower address. -/
def Precedes (now : Nat) (a b : Launch × Node) : Prop :=
  priority b.2 now < priority a.2 now ∨ priority b.2 now = priority a.2 now ∧
    (a.2.readyAt < b.2.readyAt ∨ a.2.readyAt = b.2.readyAt ∧
      (a.1.vi < b.1.vi ∨ a.1.vi = b.1.vi ∧ a.2.addr.toNat < b.2.addr.toNat))

/-- No node names a co-resident group (R39, R52). -/
def NoCoResidents (s : State) : Prop := ∀ l ∈ s.launches, ∀ n ∈ l.nodes, l.coGroups n = []

/-- No change of fusion of the quad is under way (R37). -/
def Fused (s : State) (quad : Nat) : Prop := ∀ t, (s.quad quad).fusedAt = some t → t + 200 ≤ s.devtime

/-- No transform routine of the seat runs (R198). -/
def NoRoutine (q : Seat) : Prop := ∀ (ch : Fin 4) a r, q.chan[ch] = some a → a.routine = some r → r.stopped = true

/-- The row-step that an MMT or LDST reaches next (R121, R127). -/
def nextRow (c : Cap) : Nat := if c.partial_ = true then c.row else 0

/-- The collector asks a seat to stop (R251). -/
def Stops (s : State) (key : Nat) (q : Seat) (c : StopCause) : State :=
  s.setSeat key { q with stopping := some c, stopSince := s.devtime, declared := false }

end Sys2Proof.Claims

/-- R34, R36, R37, R38, R41, R254: DISPATCH_BIND binds the first waiting node, in the order of R34, that finds a unit; a COMPUTE
node outside co-resident groups takes a free seat whose quad and core have its FUSE and SEAT form, and starts there at its
entry with its arguments in s1 to s8, its address in s30 and everything else 0 or undefined; RESTORE is such a binding of
a saved node, which takes up the seat it saved. An idle millisecond raises effpri.
The model's choices that it rests on: assumptions 32, 33, 69. -/
def Obligations.Dispatching : Prop :=
  ∀ s l n, Waiting s l n →
    (∀ t, s.tryBind l n = some t →
      (∀ m k, Waiting s m k → (m, k) ≠ (l, n) → Precedes s.devtime (l, n) (m, k) ∨ s.tryBind m k = none) →
      exec .dispatchBind s = .next t ∧
      ∀ key q im, n.image = some im → t.seat key = some q → q.ctx = l.ctx → q.node = n.addr →
        exec (.restore l.ctx n.addr key) s = .next t) ∧
    (0 < s.devtime - n.readyAt → (s.devtime - n.readyAt) % 100000 = 0 →
      (n.ctl.extractLsb' 2 3).toNat + (s.devtime - n.readyAt) / 100000 ≤ 7 →
      exec (.effectivePriorityAging l.ctx n.addr) s = .next s ∧ priority n (s.devtime - 1) + 1 = priority n s.devtime) ∧
    ∀ key c, n.kind = 0 → l.coGroups n = [] → s.pickSeat l n = some key → s.ctx l.ctx = some c →
      (s.seat key = none ∧ (s.quad (quadOfCore (coreOf key))).fused = n.ctl.getLsbD 6 ∧ Fused s (quadOfCore (coreOf key)) ∧
        (if s.residents (coreOf key) = [] then key % 2 = 0 else n.ctl.getLsbD 5 = false ∧ (s.core (coreOf key)).res = .dual)) ∧
      (∃ k, s.tryBind l n = some { s.bindSeat l n key with freeN := k }) ∧
      (n.image = none → ∃ q, (s.bindSeat l n key).seat key = some q ∧ q.ctx = l.ctx ∧ q.node = n.addr ∧ q.single = n.ctl.getLsbD 5 ∧
        q.pc = n.entry ∧ (∀ r : Reg, q.reg r = if 1 ≤ r.toNat ∧ r.toNat ≤ 8 then n.args.getD (r.toNat - 1) 0 else if r = 30 then n.addr else 0) ∧
        (∀ m, q.mask m = 0) ∧ (∀ e, q.entry e = none) ∧ q.plane = [] ∧ q.acc = [] ∧ q.tags = 0 ∧ q.rstack = [] ∧ q.pend = [] ∧
        q.status = { prv := c.firmware } ∧ q.sr = { gslot := n.gslots, prio := BitVec.ofNat 3 (priority n s.devtime) }) ∧
      ∀ im, n.image = some im → im.pendingTrap = none → im.fork = none → (s.bindSeat l n key).seat key = some { im with
        pend := im.pend.map fun c => { c with handed := none }
        boundAt := s.binds, sr := { im.sr with prio := BitVec.ofNat 3 (priority n s.devtime) }
        stopping := none, declared := false, park := none }

/-- R39, R40, R251, R81, R127, R253, R254, R248: PREEMPT stops the victims of a waiting node that finds no seat; without
co-resident groups the victim stands at least two priorities below, and no other candidate below it or bound after it, and
the node takes no second victim. PREEMPT_DECLARED follows once no routine runs and the queues stand still, between commands, with an
MMT or LDST before a row that it has not performed, or with a vector command between element groups, which RESTART0 to RESTART7
and ESHAPE record; and SAVE_COMPLETE then writes the dirty bytes back, keeps the seat as the node's image, and frees it. A
page that has not come after 50 µs stops its seat, and one that has no answer after 100 ms traps. -/
def Sys2Proof.Claims.PreemptingRule : Prop :=
  (∀ s key h keys, s.preemption = some (h, keys) → key ∈ keys → exec (.preempt key .dispatcher) s = .next { keys.foldl (fun t k =>
      t.mapSeat k fun q => { q with stopping := some .dispatcher, stopSince := t.devtime, declared := false }) s with
      holds := s.holds.filter s.holdLive ++ [h] } ∧
    (NoCoResidents s → ∃ l n r, Waiting s l n ∧ keys = [key] ∧ h = ⟨l.ctx, l.id, [n.addr], [(key, n.ctl.getLsbD 5, n.ctl.getLsbD 6)]⟩ ∧
      s.heldFor l n = false ∧ r ∈ s.candidates l n ∧ r.key = key ∧
      s.openSeats l n = [] ∧ r.node.boundPrio + 2 ≤ priority n s.devtime ∧
      ∀ x ∈ s.candidates l n, r.node.boundPrio < x.node.boundPrio ∨ r.node.boundPrio = x.node.boundPrio ∧ x.at_ ≤ r.at_)) ∧
  ∀ s key q, s.seat key = some q →
    (∀ c, q.stopping = some c → q.declared = false → NoRoutine q → q.byp = none →
      ((∀ x ∈ q.pend ++ q.aside, x.partial_ = false ∧ x.did = []) →
        exec (.preemptDeclared ⟨key, [], none⟩) s = .next (s.setSeat key { q with
          declared := true
          sr := { (match q.replay with | some r => mseqAt q r.j r.pos | none => q.sr) with eshPart := false } })) ∧
      ∀ x k s' x' q', q.pend = [x] → x.queue = .m → x.sysScope = false → x.did = [] → q.gathers = [] → q.park = none →
        ((∃ ctl, x.cmd = .mmt ctl) ∨ ∃ ff md g f, x.cmd = .ldst ff md g f) → k < x.rowCount →
        (k < nextRow x → exec (.preemptDeclared ⟨key, [], some k⟩) s = .fault (.notEnabled "PREEMPT_DECLARED")) ∧
        (nextRow x < k → s.perform key { x with rowLim := some k } = .part s' x' →
        s'.seat key = some q' → q'.pend = [x] → q'.byp = none → q'.replay = none → q'.aside = [] → x'.queue = .m →
        exec (.preemptDeclared ⟨key, [], some k⟩) s = .next (s'.setSeat key { q' with
          declared := true, pend := [x'], sr := { q'.sr with eshPart := false } }))) ∧
    (∀ c v x y s' x' q', q.stopping = some c → q.declared = false → NoRoutine q → q.byp = none → v ≠ [] → q.pend = [x] → x.queue = .v →
      x.partial_ = false → x.did = [] → q.gathers = [] → q.park = none → x.groupLim v = some y → y.isIdle = false → s.perform key y = .part s' x' →
      s'.seat key = some q' → q'.pend = [x] → q'.byp = none → q'.replay = none → x'.queue = .v → x'.partial_ = true →
      exec (.preemptDeclared ⟨key, v, none⟩) s = .next (s'.setSeat key { q' with
        declared := true, pend := [x']
        sr := { q'.sr with
          restart := x'.restarts.map (BitVec.ofNat 32), eshPart := true, eshEnt := x'.ent
          eshElem := BitVec.ofNat 32 (x'.restarts.toList.foldl min (x'.restarts.getD 0 0)) } })) ∧
    (q.declared = true → ∃ b, exec (.saveComplete key) s = .next (((s.writeBack (coreOf key) q.cin).mapNode q.ctx q.launch q.node fun n =>
        { n with state := .ready, readyAt := s.devtime, image := some { q with stopping := none, declared := false, home := key }, blocked := b }).freeSeat key) ∧
      (q.park = none → b = none) ∧
      ∀ p c, q.park = some p → s.ctx q.ctx = some c → (∃ r ∈ c.requests, r.node = q.node ∧ r.va = p.va) → b = some p.va) ∧
    (∀ p, q.park = some p → q.stopping = none → p.since + 5000 ≤ s.devtime →
      exec (.pageParkTimeout key) s = .next (Stops s key q .page) ∧ exec (.preempt key .page) s = .next (Stops s key q .page)) ∧
    ∀ p c r, q.park = some p → q.stopping = none → p.late = false → p.lane = none → s.ctx q.ctx = some c → c.requests = [r] →
      r.node = q.node → r.va = p.va → r.since + 10000000 ≤ s.devtime → mapOkFrom (fun _ => true) 0 s.seats = true →
      (∀ x ∈ s.seats, x.2.ctx = q.ctx → x.2.node = q.node → x.1 = key) → (∀ l ∈ s.launches, ∀ n ∈ l.nodes, n.blocked = none) →
      exec (.pageAnswerTimeout q.ctx q.node) s = .next (((s.setCtx q.ctx { c with requests := [] }).setSeat key { q with park := none }).takeTrap
        key ⟨codeXlate, 1, p.va, p.epc⟩ false false)

/-- R30, R31, R33, R304, R37, R43, R162: a COMPUTE node whose seat has halted and holds nothing finishes: its dirty bytes are
written back, its seat is free, and every successor's PREDCNT falls by one, where the node waits while the page of one
migrates, and a successor whose count cannot be reached is never released (R29); a launch of which no node is ready or running is complete, and its record carries how many nodes were never
released and its first failure; an empty quad changes between four cores and one fused core. -/
def Sys2Proof.Claims.FinishingRule : Prop :=
  (∀ s l n q, (s.launches.find? fun m => m.ctx = l.ctx ∧ m.state = .running ∧ m.nodes.any fun k => k.addr = n.addr ∧ s.canFinish k) = some l →
    l.nodes.find? (·.addr = n.addr) = some n → n.kind = 0 → s.seat n.unit = some q →
    let t := ((((s.writeBack (coreOf n.unit) q.cin).freeSeat n.unit).mapNode l.ctx l.id n.addr fun k =>
      { k with state := .finishing, image := none }).unwatch l.ctx l.id n.addr)
    let done := fun (u : State) => u.mapNode l.ctx l.id n.addr fun k => { k with state := .finished, image := none }
    (n.succ = 0 → exec (.nodeFinish l.ctx n.addr) s = .next (done t)) ∧
    ∀ bs e u, n.succ ≠ 0 → t.engineGet (t.schedWho l.ctx) 2 n.succ 4 = .ok (bs, e, u) →
      let r := State.decrementAll (t.schedWho l.ctx) l.id n.succ (min 4096 (leNat bs)) 0 u
      (∀ v, r = some v → exec (.nodeFinish l.ctx n.addr) s = .next (done v)) ∧
      (r = none → exec (.nodeFinish l.ctx n.addr) s = .fault (.notEnabled "NODE_FINISH"))) ∧
  (∀ s who launch list k i bs e t, s.engineGet who 2 (list + BitVec.ofNat 64 (8 + 8 * i)) 8 = .ok (bs, e, t) →
    let a : Word := BitVec.ofNat 64 (leNat bs) + 4
    (∀ t', a.toNat % 4 = 0 → t.translate who .atomic a = (.wait, t') → State.decrementAll who launch list (k + 1) i s = none) ∧
    (∀ f t', a.toNat % 4 = 0 → t.translate who .atomic a = (.fault f, t') → State.decrementAll who launch list (k + 1) i s =
      State.decrementAll who launch list k (i + 1) (t'.mapNode who.ctx launch (BitVec.ofNat 64 (leNat bs)) fun n =>
        if n.state = .unreleased then { n with state := .unreachable } else n)) ∧
    ∀ h t', a.toNat % 4 = 0 → t.translate who .atomic a = (.ok h, t') → h.mt = 0 →
      State.decrementAll who launch list (k + 1) i s = State.decrementAll who launch list k (i + 1)
        ((t'.homePut h.pa (leBytes 4 (leNat (t'.homeGet h.pa 4) + (2 ^ 32 - 1)))).releaseFrom t'.mem)) ∧
  (∀ s ctx launch l, s.launch ctx launch = some l → l.state = .running →
    (∀ n ∈ l.nodes, n.state ≠ .ready ∧ n.state ≠ .bound ∧ n.state ≠ .finishing) →
    ∃ addr cause pc value, exec (.launchComplete ctx launch) s = .next { s.mapLaunch ctx launch fun l => { l with state := .complete } with
      out := .completion l.vi l.peer l.seq (if l.failures = [] then 0 else 8)
        (BitVec.ofNat 64 (l.nodes.filter fun n => !n.released).length) addr cause pc value :: s.out } ∧
      (∀ f rest, l.failures = f :: rest → addr = f.node ∧ cause = f.cause ∧ pc = f.epc ∧ value = f.eval)) ∧
  ∀ (s : State) quad, quad < Config.quads → (∀ i, i < 8 → s.seat (8 * quad + i) = none) →
    (s.quad quad).power ≠ .waiting → (s.quad quad).power ≠ .ramping → (∀ t, (s.quad quad).power ≠ .lowering t true) → Fused s quad →
    ∃ t : State, exec (.fusionChange quad) s = .next t ∧ (t.quad quad).fused = !(s.quad quad).fused ∧
      (t.quad quad).fusedAt = some s.devtime ∧ t.seats = s.seats ∧
      t.launches = s.launches ∧ ∀ i, i < 4 → (t.core (4 * quad + i)).l1 = []

/-- How a seat is left: pre-empted, saved, or finished.
The model's choices that it rests on: assumptions 34, 35, 37, 70, 71, 74. -/
def Obligations.LeavingSeats : Prop :=
  Claims.PreemptingRule ∧ Claims.FinishingRule

/-! ### The command queue of a VI -/

namespace Sys2Proof.Claims

/-- A command entry (Table 15.2). -/
structure Entry where
  opc : BitVec 16
  seq : BitVec 32
  handle : Word
  a0 : Word := 0
  a1 : Word := 0
  a2 : Word := 0
  a3 : Word := 0
  a4 : Word := 0
  a5 : Word := 0

def Entry.bytes (c : Entry) : List Byte :=
  leBytes 2 c.opc.toNat ++ leBytes 2 0 ++ leBytes 4 c.seq.toNat ++ leBytes 8 c.handle.toNat ++ leBytes 8 c.a0.toNat ++
    leBytes 8 c.a1.toNat ++ leBytes 8 c.a2.toNat ++ leBytes 8 c.a3.toNat ++ leBytes 8 c.a4.toNat ++ leBytes 8 c.a5.toNat

/-- The ring of a VI holds one entry that has not been performed, `c`, and firmware serves it (R302). -/
structure Turn (s : State) (vi : Nat) (v : Vi) (c : Entry) : Prop where
  found : mapFind s.vis vi = some v
  due : v.doorbell = BitVec.ofNat 64 (v.next + 1)
  entry : s.homeGet (v.prov.ringBase + 64 * (v.next % v.prov.ringSize)) 64 = c.bytes
  serves : s.pkg.booted = true ∧ s.pkg.recovery = false ∧ s.pkg.stopped = false

/-- The commands of Table 15.3, and QUERY's three items. -/
def Listed (c : Entry) : Prop := 1 ≤ c.opc.toNat ∧ c.opc.toNat ≤ 11 ∧ (c.opc = 5 → c.a0.toNat ≤ 2)

/-- The endpoint whose write of the doorbell brought the entry whose turn it is: the doorbell's additions are kept in the order
in which they came, each with what is left of it (R302, R304). -/
def peerOf (v : Vi) : Nat := (v.rings.head?.map Prod.snd).getD 0

/-- One entry fewer is left of the oldest addition. -/
def spent : List (Nat × Nat) → List (Nat × Nat)
  | [] => []
  | (n, p) :: rest => if 1 < n then (n - 1, p) :: rest else rest

/-- The command ends with a status of Table 15.4 and a value; `t` is the package with its effect (R304). -/
def Ends (s : State) (i : Instr) (vi : Nat) (c : Entry) (status : Nat) (value node : Word) (t : State) : Prop :=
  exec i s = .next { t with
    vis := t.vis.map fun x => (x.1, if x.1 = vi then { x.2 with next := x.2.next + 1, rings := spent x.2.rings } else x.2)
    out := .completion vi (((mapFind s.vis vi).map peerOf).getD 0) c.seq status value node 0 0 0 :: t.out }

/-- A command on the context that its handle names. -/
structure OnCtx (s : State) (vi : Nat) (v : Vi) (c : Entry) (opc k : Nat) (x : Ctx) : Prop extends Turn s vi v c where
  opc : c.opc.toNat = opc
  ctx : s.ctxOf vi c.handle.toNat = some (k, x)

end Sys2Proof.Claims

/-- R302, R304, R282, R306: a doorbell adds to the counter of its VI, which has 8 bytes, and notes the endpoint that wrote it
behind those that wrote before: an entry's completion goes to the endpoint whose write brought it. Entries whose turn it is
and that Table 15.3 does not list are answered BADARG at once, and after a device stop every one STOPPED, as the doorbell
rings; in recovery a doorbell leaves its entry, listed or not, unanswered.
The model's choices that it rests on: assumptions 45, 58. -/
def Obligations.Doorbells : Prop :=
  ∀ s vi v peer n, mapFind s.vis vi = some v → s.pkg.booted = true ∨ s.pkg.recovery = true →
    let d := v.doorbell + BitVec.ofNat 64 n
    let rings := if n = 0 then v.rings else v.rings ++ [(n, peer)]
    let rung := fun (k : Nat) (r : List (Nat × Nat)) =>
      s.vis.map fun x => (x.1, if x.1 = vi then { v with doorbell := d, next := v.next + k, rings := r } else x.2)
    let first := (rings.head?.map Prod.snd).getD 0
    (∃ t w, exec (.doorbell vi ⟨peer, n⟩) s = .next t ∧ mapFind t.vis vi = some w ∧ w.doorbell = d ∧
      t = { s with vis := t.vis, out := t.out } ∧ (∀ k, k ≠ vi → mapFind t.vis k = mapFind s.vis k) ∧
      (s.pkg.stopped = true → w.doorbell = BitVec.ofNat 64 w.next)) ∧
    ∀ c, s.homeGet (v.prov.ringBase + 64 * (v.next % v.prov.ringSize)) 64 = Entry.bytes c →
      (d = BitVec.ofNat 64 v.next ∨ s.pkg.stopped = false ∧ (s.pkg.recovery = true ∨ Listed c) →
        exec (.doorbell vi ⟨peer, n⟩) s = .next { s with vis := rung 0 rings }) ∧
      (d = BitVec.ofNat 64 (v.next + 1) → s.pkg.stopped = true →
        exec (.doorbell vi ⟨peer, n⟩) s = .next { s with vis := rung 1 (spent rings), out := .completion vi first c.seq 9 0 0 0 0 0 :: s.out }) ∧
      (d = BitVec.ofNat 64 (v.next + 1) → s.pkg.stopped = false → s.pkg.recovery = false → ¬ Listed c →
        exec (.doorbell vi ⟨peer, n⟩) s = .next { s with vis := rung 1 (spent rings), out := .completion vi first c.seq 6 0 0 0 0 0 :: s.out })

namespace Sys2Proof.Claims

/-- No write of a stream of the context, into the bytes of its object that the engine owns, waits for a migration (R237). -/
def NoReset (s : State) (k : Nat) : Prop :=
  ∀ y ∈ s.streams, y.1 / 256 = k → ∀ m ∈ s.migs, m.ctx = k → m.va.toNat / 16384 = y.2.obj.toNat / 16384 →
    ∀ h ∈ m.held, ¬ (y.2.obj.toNat % 16384 ≤ h.2.1 ∧ h.2.1 < y.2.obj.toNat % 16384 + 96)

/-- The entry whose turn it was has been performed: its completion, with status OK, is the last thing the package sent (R304). -/
def Answered (t : State) (vi : Nat) (v : Vi) (c : Entry) (value : Word) : Prop :=
  t.out.head? = some (.completion vi (peerOf v) c.seq 0 value 0 0 0 0) ∧ (mapFind t.vis vi).map (·.next) = some (v.next + 1)

end Sys2Proof.Claims

/-- R302, R303, R304: every command of Table 15.3 completes. With its entry at its turn, a handle of its VI where it names one,
and the arguments that Table 15.3 asks for, a command performs, the next entry's turn comes, and the host gets its
completion with status OK. RECLAIM_COMPLETE ends a reclaim in progress (R262), once the reset of every stream of the context
has reached its object: until then no write of the reset waits for a migration (R237).
The model's choices that it rests on: assumptions 11, 13, 45, 46, 47, 48, 49. -/
def Obligations.CommandsComplete : Prop :=
  (∀ s vi v c, Turn s vi v c →
    (∀ root u, c.opc = 1 → c.handle = 0 → (∃ k, k < 4096 ∧ k ∉ s.ctxs.map (·.1)) →
      (∃ h, 1 ≤ h ∧ h ≤ 4096 ∧ ∀ x ∈ s.ctxs, x.2.vi = vi → x.2.handle ≠ h) → s.takeFrames (regionsFor 0 7) 0 16384 [root] = some u →
      ∃ t h, exec (.createCtx vi root) s = .next t ∧ Answered t vi v c h) ∧
    (∀ k x frames tables, OnCtx s vi v c 2 k x → s.mapBad k c.a0 c.a1 c.a2 c.a3 = false →
      let size := mapSize s.pkg.lg c.a0.toNat c.a1.toNat c.a2
      (c.a3 = 1 → ∃ t, exec (.map vi frames tables) s = .next t ∧ Answered t vi v c 0) ∧
      ∀ u, c.a3 = 0 → frames.length = c.a1.toNat / size →
        frames.length ≤ s.freeFrames (regionsFor (pteMt c.a2) (ptePlc c.a2)) (ptePlc c.a2) size →
        s.mapPages (ptePa x.ptroot) c.a0.toNat size c.a2 frames tables = some u →
        ∃ t, exec (.map vi frames tables) s = .next t ∧ Answered t vi v c 0) ∧
    (∀ k x table raw, OnCtx s vi v c 3 k x → c.a0.toNat % 128 = 0 → 0 < c.a1.toNat → c.a1.toNat ≤ 1048576 →
      (∀ i, i < c.a1.toNat → s.plainPage k (c.a0.toNat + 128 * i) = true) → s.groupTable (s.schedWho k) c.a2 = some table →
      raw.length = c.a1.toNat →
      (∀ i, i < c.a1.toNat → ∃ bs e t, s.engineGet (s.schedWho k) 3 (c.a0 + BitVec.ofNat 64 (128 * i)) 128 = .ok (bs, e, t) ∧
        raw[i]? = some (rawNode (c.a0 + BitVec.ofNat 64 (128 * i)) bs)) →
      (∀ i r, raw[i]? = some r → offends raw (raw.map fun r => (r.node.addr, s.succList (s.schedWho k) r.node)) table i r = false) →
      ∃ t, exec (.loadGraph vi) s = .next t ∧ Answered t vi v c (BitVec.ofNat 64 x.nextLaunch)) ∧
    (∀ k x l, OnCtx s vi v c 4 k x → s.launch k c.a0.toNat = some l → l.state = .loaded → l.inc = x.inc →
      ∃ t, exec (.launch vi) s = .next t ∧ Answered t vi v c 0) ∧
    (∀ info, c.opc = 5 → c.a0 = 0 → (c.handle = 0 ∨ (s.ctxOf vi c.handle.toNat).isSome) →
      ∃ t, exec (.queryContext vi info) s = .next t ∧ Answered t vi v c 0) ∧
    (∀ info, c.opc = 5 → c.a0 = 1 → (s.ctxOf vi c.handle.toNat).isSome →
      ∃ t, exec (.queryLaunch vi info) s = .next t ∧ Answered t vi v c 0) ∧
    (∀ nonce signature, c.opc = 5 → c.a0 = 2 → (c.handle = 0 ∨ (s.ctxOf vi c.handle.toNat).isSome) → nonce.length = 32 →
      signature.length = 17088 → ∃ t, exec (.queryAttestation vi nonce signature) s = .next t ∧ Answered t vi v c 0) ∧
    (∀ k x, OnCtx s vi v c 6 k x → x.reclaim = none → ∃ t, exec (.kill (.host vi)) s = .next t ∧ Answered t vi v c 0) ∧
    (∀ k x, OnCtx s vi v c 7 k x → x.reclaim = none → ∃ t, exec (.reclaim vi) s = .next t ∧ Answered t vi v c 0) ∧
    (∀ k x l, OnCtx s vi v c 8 k x → c.a1.toNat < 256 → mapFind s.streams (256 * k + c.a1.toNat) = none → c.a0.toNat % 512 = 0 →
      s.plainPage k c.a0.toNat = true → s.walk k c.a0.toNat = .ok l → pteMig l.word = false →
      (sobjOf (s.homeGet (ptePa l.word + c.a0.toNat % l.size) 96)).bad = false →
      ∃ t, exec (.streamNew vi) s = .next t ∧ Answered t vi v c 0) ∧
    (∀ k x signer image e u, OnCtx s vi v c 9 k x → signer = 0 ∨ signer ∈ v.prov.routineKeys →
      s.engineGet (s.schedWho k) (image.length + 1) c.a0 image.length = .ok (image, e, u) →
      ∃ t, exec (.routine vi signer (some image)) s = .next t ∧ Answered t vi v c 0) ∧
    (∀ k x d a u frames tables, OnCtx s vi v c 10 k x → (∃ y ∈ x.requests, y.va.toNat / 16384 = c.a0.toNat / 16384) →
      (x.onDemand.find? fun y => y.va ≤ c.a0.toNat ∧ c.a0.toNat < y.va + y.size) = some d →
      c.a1 = 1 ∨ c.a1 = 0 ∧ frames = [a] ∧ s.mapped k (16384 * (c.a0.toNat / 16384)) 16384 = false ∧
        s.mapPages (ptePa x.ptroot) (16384 * (c.a0.toNat / 16384)) 16384 d.attrs frames tables = some u →
      ∃ t, exec (.page vi frames tables) s = .next t ∧ Answered t vi v c 0) ∧
    ∀ k x, OnCtx s vi v c 11 k x → (∃ y ∈ s.seats, y.2.ctx = k ∧ y.2.node = c.a0 ∧ y.2.stopping = none) →
      ∃ t, exec (.dhalt vi) s = .next t ∧ Answered t vi v c 0) ∧
  ∀ (s : State) k x old t, s.ctx k = some x → x.reclaim = some (old, t) → NoReset s k →
    ∃ u, exec (.reclaimComplete k) s = .next u ∧ u.ctx k = some { x with reclaim := none }

/-- R302, R303, R304, R22, R436, R434, R263, R435, R197, R307, R248, R297: CREATE_CTX
answers the lowest handle of its VI that is free, for the lowest context that is free, with an empty table; a handle that names
no context answers BADHANDLE; MAP notes an on-demand range or maps its pages; RECLAIM completes when none is in progress;
STREAM_NEW makes a stream of a sound object; ROUTINE registers an image whose signature verifies; PAGE installs a page and
wakes its seats, or refuses it; DHALT stops a node's seat. -/
def Sys2Proof.Claims.HostCommandsRule : Prop :=
  ∀ s vi v c, Turn s vi v c →
    (∀ root u, c.opc = 1 → c.handle = 0 → s.takeFrames (regionsFor 0 7) 0 16384 [root] = some u → ∀ k h,
      k < 4096 → k ∉ s.ctxs.map (·.1) → (∀ j, j < k → j ∈ s.ctxs.map (·.1)) →
      1 ≤ h → h ≤ 4096 → (∀ x ∈ s.ctxs, x.2.vi = vi → x.2.handle ≠ h) →
      (∀ j, 1 ≤ j → j < h → ∃ x ∈ s.ctxs, x.2.vi = vi ∧ x.2.handle = j) →
      Ends s (.createCtx vi root) vi c 0 (BitVec.ofNat 64 h) 0 ((u.zero root 16384).setCtx k
        { vi := vi, handle := h, inc := 0, ptroot := BitVec.ofNat 64 root, reclaim := none, onDemand := [], requests := [], nextLaunch := 1
          localRq := Vector.replicate 4 0, remoteRq := Vector.replicate 4 0, firmware := false })) ∧
    (s.ctxOf vi c.handle.toNat = none → ∀ frames tables signer image,
      ∀ i ∈ [(2, Instr.map vi frames tables), (3, .loadGraph vi), (4, .launch vi), (6, .kill (.host vi)), (7, .reclaim vi), (8, .streamNew vi),
        (9, .routine vi signer image), (10, .page vi frames tables), (11, .dhalt vi)], c.opc.toNat = i.1 → Ends s i.2 vi c 2 0 0 s) ∧
    (∀ k x frames tables, OnCtx s vi v c 2 k x →
      (s.mapBad k c.a0 c.a1 c.a2 c.a3 = true → Ends s (.map vi frames tables) vi c 6 0 0 s) ∧
      (s.mapBad k c.a0 c.a1 c.a2 c.a3 = false → c.a3 = 1 → Ends s (.map vi frames tables) vi c 0 0 0
        (s.setCtx k { x with onDemand := x.onDemand ++ [⟨c.a0.toNat, c.a1.toNat, c.a2⟩] })) ∧
      ∀ u, s.mapBad k c.a0 c.a1 c.a2 c.a3 = false → c.a3 = 0 →
        let size := mapSize s.pkg.lg c.a0.toNat c.a1.toNat c.a2
        frames.length = c.a1.toNat / size →
        c.a1.toNat / size ≤ s.freeFrames (regionsFor (pteMt c.a2) (ptePlc c.a2)) (ptePlc c.a2) size →
        s.mapPages (ptePa x.ptroot) c.a0.toNat size c.a2 frames tables = some u → Ends s (.map vi frames tables) vi c 0 0 0 u) ∧
    (∀ k x, OnCtx s vi v c 7 k x → x.reclaim = none → Ends s (.reclaim vi) vi c 0 0 0 s) ∧
    (∀ k x l, OnCtx s vi v c 8 k x → c.a1.toNat < 256 → mapFind s.streams (256 * k + c.a1.toNat) = none → c.a0.toNat % 512 = 0 →
      s.plainPage k c.a0.toNat = true → s.walk k c.a0.toNat = .ok l → pteMig l.word = false →
      let pa := ptePa l.word + c.a0.toNat % l.size
      (sobjOf (s.homeGet pa 96)).bad = false →
      let st : Stream := ⟨c.a0, pa, [], 0, 0, 0, 0, [], 0, none, []⟩
      Ends s (.streamNew vi) vi c 0 0 0
        (((s.setStream (256 * k + c.a1.toNat) st).initFields { streamWho k x with user := false } st).zero (pa + 96) 416)) ∧
    (∀ k x signer, OnCtx s vi v c 9 k x →
      (∀ image e u, signer = 0 ∨ signer ∈ v.prov.routineKeys →
        s.engineGet (s.schedWho k) (image.length + 1) c.a0 image.length = .ok (image, e, u) →
        Ends s (.routine vi signer (some image)) vi c 0 0 0 { u with vis := u.vis.map fun y => (y.1, if y.1 = vi then
          { y.2 with routines := y.2.routines ++ [(c.handle.toNat, c.a0.toNat, image, Config.sha256 image)] } else y.2) }) ∧
      ∀ image, (signer ≠ 0 → signer ∉ v.prov.routineKeys → Ends s (.routine vi signer image) vi c 7 0 0 s) ∧
        Ends s (.routine vi signer none) vi c 7 0 0 s) ∧
    (∀ k x frames tables r d, OnCtx s vi v c 10 k x →
      (x.requests.filter fun y => y.va.toNat / 16384 = c.a0.toNat / 16384) = [r] →
      (x.onDemand.find? fun y => y.va ≤ c.a0.toNat ∧ c.a0.toNat < y.va + y.size) = some d →
      (c.a1 = 1 → Ends s (.page vi frames tables) vi c 0 0 0 (s.pageDenied k r.node r.va)) ∧
      (∀ a u, c.a1 = 0 → frames = [a] → s.mapped k (16384 * (c.a0.toNat / 16384)) 16384 = false →
        s.mapPages (ptePa x.ptroot) (16384 * (c.a0.toNat / 16384)) 16384 d.attrs frames tables = some u →
        Ends s (.page vi frames tables) vi c 0 0 0 (u.pageThere k (c.a0.toNat / 16384)) ∧
        ∀ key q p, u.seat key = some q → q.park = some p → (u.pageThere k (c.a0.toNat / 16384)).seat key = some { q with
          park := if q.ctx = k ∧ p.va.toNat / 16384 = c.a0.toNat / 16384 then none else some p })) ∧
    ∀ k x, OnCtx s vi v c 11 k x →
      (∀ key q, (s.seats.find? fun y => y.2.ctx = k ∧ y.2.node = c.a0 ∧ y.2.stopping = none) = some (key, q) →
        mapOkFrom (fun _ => true) 0 s.seats = true → Ends s (.dhalt vi) vi c 0 0 0 (Stops s key q .debug)) ∧
      ((∀ y ∈ s.seats, ¬ (y.2.ctx = k ∧ y.2.node = c.a0 ∧ y.2.stopping = none)) → Ends s (.dhalt vi) vi c 6 0 0 s)

/-- R28, R29, R304, R308, R260, R262, R361: LOAD_GRAPH reads the nodes of a graph and keeps them as the next launch, or names the
first that offends; LAUNCH starts it, releases the nodes whose PREDCNT is 0, and never those whose PREDCNT it cannot reach; QUERY
answers; KILL ends every launch and seat of its context, which goes on as a new incarnation, as a kill by privileged firmware
does, of any context, and a second KILL is BUSY until the reclaim is complete, which drops the old incarnation's lines,
translations and waiting writes, and does not complete while a stream's reset waits for a migration. A launch that was complete
before the kill, with no node ready, bound or finishing, keeps its own status (R33). -/
def Sys2Proof.Claims.GraphCommandsRule : Prop :=
  (∀ s vi v c k x, OnCtx s vi v c 3 k x →
    (c.a0.toNat % 128 ≠ 0 ∨ c.a1 = 0 ∨ 1048576 < c.a1.toNat → Ends s (.loadGraph vi) vi c 6 0 0 s) ∧
    ∀ table, c.a0.toNat % 128 = 0 → 0 < c.a1.toNat → c.a1.toNat ≤ 1048576 →
      (∀ i, i < c.a1.toNat → s.plainPage k (c.a0.toNat + 128 * i) = true) → s.groupTable (s.schedWho k) c.a2 = some table →
      ∀ raw : List RawNode, raw.length = c.a1.toNat →
      (∀ i, i < c.a1.toNat → ∃ bs e t, s.engineGet (s.schedWho k) 3 (c.a0 + BitVec.ofNat 64 (128 * i)) 128 = .ok (bs, e, t) ∧
        raw[i]? = some (rawNode (c.a0 + BitVec.ofNat 64 (128 * i)) bs)) →
      let links := raw.map fun r => (r.node.addr, s.succList (s.schedWho k) r.node)
      ((∀ i r, raw[i]? = some r → offends raw links table i r = false) →
        Ends s (.loadGraph vi) vi c 0 (BitVec.ofNat 64 x.nextLaunch) 0 ({ s with launches := s.launches ++ [(⟨k, x.nextLaunch, x.inc, vi, 0, 0,
          .loaded, raw.map RawNode.node, (List.range 256).map fun g => BitVec.ofNat 32 (table.getD g 0), [], none, [], []⟩ : Launch)] }.setCtx k
          { x with nextLaunch := x.nextLaunch + 1 })) ∧
      ∀ i r, raw[i]? = some r → offends raw links table i r = true →
        (∀ j u, j < i → raw[j]? = some u → offends raw links table j u = false) →
        Ends s (.loadGraph vi) vi c 3 0 r.node.addr s) ∧
  (∀ s vi v c k x, OnCtx s vi v c 4 k x →
    (∀ l, s.launch k c.a0.toNat = some l → l.state = .loaded → l.inc = x.inc →
      Ends s (.launch vi) vi c 0 0 0 (s.mapLaunch k l.id fun l => { l with
        seq := c.seq, peer := peerOf v, state := .running
        nodes := l.nodes.map fun n => match s.engineGet (s.schedWho k) 2 (n.addr + 4) 4 with
          | .ok (b, _, _) => if leNat b = 0 then { n with state := .ready, released := true, readyAt := s.devtime } else n
          | .error _ => if n.state = .unreleased then { n with state := .unreachable } else n })) ∧
    (s.launch k c.a0.toNat = none → Ends s (.launch vi) vi c 6 0 0 s)) ∧
  (∀ s vi v c, Turn s vi v c → c.opc = 5 →
    (∀ info, c.a0 = 0 → (c.handle = 0 ∨ (s.ctxOf vi c.handle.toNat).isSome) →
      Ends s (.queryContext vi info) vi c 0 0 0 { s with out := .query vi c.a2 info :: s.out }) ∧
    (∀ info, c.a0 = 1 → (s.ctxOf vi c.handle.toNat).isSome →
      Ends s (.queryLaunch vi info) vi c 0 0 0 { s with out := .query vi c.a2 info :: s.out }) ∧
    ∀ nonce signature, c.a0 = 2 → c.handle = 0 → nonce.length = 32 → signature.length = 17088 →
      ∃ report, Ends s (.queryAttestation vi nonce signature) vi c 0 0 0 { s with out := .query vi c.a2 report :: s.out } ∧
        report.take 4 = leBytes 4 1 ∧ (report.drop 36).take 32 = nonce ∧ report.drop (report.length - 17088) = signature ∧
        (report.drop 132).take 4 = leBytes 4 Config.rollback ∧ (report.drop 136).take 32 = digestBytes (Config.sha256 (v.routines.flatMap fun r => digestBytes r.2.2.2))) ∧
  (∀ s vi v c k x, OnCtx s vi v c 6 k x →
    (x.reclaim ≠ none → Ends s (.kill (.host vi)) vi c 5 0 0 s) ∧
    (x.reclaim = none → Ends s (.kill (.host vi)) vi c 0 0 0 (s.kill k x))) ∧
  (∀ (s : State) key q x, s.seat key = some q → s.ctx q.ctx = some x → x.reclaim = none →
    exec (.preempt key .kill) s = .next (s.kill q.ctx x)) ∧
  (∀ (s : State) k x, s.ctx k = some x → x.reclaim = none → exec (.kill (.firmware k)) s = .next (s.kill k x)) ∧
  (∀ (s : State) k x, mapOkFrom (fun _ => true) 0 s.seats = true →
    (s.kill k x).ctx k = some { x with inc := x.inc + 1, reclaim := some (x.inc, s.devtime), requests := [] } ∧
    (∀ key q, (s.kill k x).seat key = some q → q.ctx ≠ k) ∧
    (∀ key q, s.seat key = some q → q.ctx ≠ k → (s.kill k x).seat key = some q) ∧
    (∀ l ∈ (s.kill k x).launches, l.ctx = k → l.state ≠ .running ∧ l.state ≠ .loaded) ∧
    (∀ l ∈ s.launches, l.ctx ≠ k → l ∈ (s.kill k x).launches) ∧
    ∀ l ∈ s.launches, l.ctx = k → l.state = .running →
      let complete := ∀ n ∈ l.nodes, n.state ≠ .ready ∧ n.state ≠ .bound ∧ n.state ≠ .finishing
      (complete → ∃ n a b d e, Out.completion l.vi l.peer l.seq (if l.failures = [] then 0 else 8) n a b d e ∈ (s.kill k x).out) ∧
      (¬ complete → ∃ n a b d e, Out.completion l.vi l.peer l.seq 4 n a b d e ∈ (s.kill k x).out)) ∧
  ∀ (s : State) k x old t, s.ctx k = some x → x.reclaim = some (old, t) →
    (¬ NoReset s k → exec (.reclaimComplete k) s = .fault (.notEnabled "RECLAIM_COMPLETE")) ∧
    (NoReset s k → ∃ u, exec (.reclaimComplete k) s = .next u ∧
    u.ctx k = some { x with reclaim := none } ∧ u.seats = s.seats ∧ u.mem = s.mem ∧
    (∀ core, ∀ l ∈ (u.core core).l1, l.cin ≠ BitVec.ofNat 12 k ++ old) ∧
    (∀ core, ∀ l ∈ (u.core core).il1, l.1 ≠ BitVec.ofNat 12 k ++ old) ∧
    (∀ m ∈ u.migs, ∀ h ∈ m.held, h.1 ≠ BitVec.ofNat 12 k ++ old) ∧
    ∀ core, ∀ e ∈ (u.core core).tlb ++ (u.quad (core / 4)).tlb, e.cin ≠ BitVec.ofNat 12 k ++ old)

/-- The host's commands: their effects and their refusals.
The model's choices that it rests on: assumptions 11, 13, 45, 46, 47, 48, 49, 72. -/
def Obligations.Commands : Prop :=
  Claims.HostCommandsRule ∧ Claims.GraphCommandsRule

/-! ### Hosts, peers and units -/

namespace Sys2Proof.Claims

/-- A VI's context that a host's access names, on a package that serves it (R437). -/
structure Hosted (s : State) (vi handle k : Nat) (x : Ctx) : Prop where
  serves : s.pkg.booted = true ∧ s.pkg.stopped = false
  known : (mapFind s.vis vi).isSome
  named : handle ≠ 0
  ctx : s.ctxOf vi handle = some (k, x)

/-- A host's access at an address finds a page that it may reach: where its byte lies, the page's MT and PLC, and the package
with A, and D for a write, set in the entry (R437, R143). -/
structure Pages (s : State) (k : Nat) (va : Word) (write : Bool) (pa mt plc : Nat) (t : State) : Prop where
  canonical : va.toNat < 2 ^ 58
  leaf : ∃ l, s.walk k va.toNat = .ok l ∧ mt = pteMt l.word ∧ plc = ptePlc l.word ∧ pa = ptePa l.word + va.toNat % l.size ∧
    t = (s.setAD l write).1 ∧ (write = true → pteMig l.word = false)
  memory : mt ≠ 4 ∧ (write = true → mt ≠ 2 ∧ mt ≠ 3)

end Sys2Proof.Claims

/-- R437, R299, R300, R301, R14, R261, R144: a host's RMA read of a line answers its bytes, a write performs them at the home, on all four
copies of a replicated page, and an atomic answers the old word; an address with no page, or of a device, or a write of a
compressed or decoded page, is refused and changes nothing. A connection that asks for an unsupported option is refused. A
packet of no connection, from a foreign domain on a scale-up port, or with keys of no VI is dropped. A request of a stale
incarnation is dropped, be it a write, a read, an atomic or a page walk, and a response to one is discarded, at a seat, a copy
channel or a stream.
The model's choices that it rests on: assumptions 50, 51, 72. -/
def Obligations.HostsAndPeers : Prop :=
  (∀ s vi handle k x va, Hosted s vi handle k x →
    (∀ len pa mt plc t r, 0 < len → va.toNat % 64 + len ≤ 64 → Pages s k va false pa mt plc t →
      t.homeRead ⟨pa, mt, plc, 0⟩ len = .ok r →
      exec (.hostRmaRead vi handle va len) s = .next { r.st with out := .rmaData vi va r.bytes :: r.st.out }) ∧
    (∀ bs pa mt plc t, bs ≠ [] → va.toNat % 64 + bs.length ≤ 64 → Pages s k va true pa mt plc t →
      let u : State := (if plc = 5 then [0, 1, 2, 3] else [0]).foldl (fun t (d : Nat) => t.homePut (pa + d * 2 ^ 40) bs) t
      exec (.hostRmaWrite vi handle va bs) s = .next { u with out := .rmaAck vi va :: u.out }) ∧
    (∀ (f : AtomFn) (wide u : Bool) op cmp pa mt plc t, va.toNat % (if wide then 8 else 4) = 0 → Pages s k va true pa mt plc t → plc ≠ 5 → mt ≠ 1 →
      let n := if wide then 8 else 4
      let w : State := (t.homePut pa (leBytes n (atomNew f u (8 * n) (leNat (t.homeGet pa n)) op.toNat cmp.toNat))).releaseFrom t.mem
      exec (.hostAtomic vi handle va f wide u op cmp) s =
        .next { w with out := .rmaData vi va (leBytes n (leNat (t.homeGet pa n))) :: w.out }) ∧
    (∀ len bs, 0 < len → bs ≠ [] → (2 ^ 58 ≤ va.toNat ∨ (∃ f, s.walk k va.toNat = .error f) ∨ ∃ l, s.walk k va.toNat = .ok l ∧ pteMt l.word = 4) →
      exec (.hostRmaRead vi handle va len) s = .next { s with out := .rmaError vi va :: s.out } ∧
      exec (.hostRmaWrite vi handle va bs) s = .next { s with out := .rmaError vi va :: s.out }) ∧
    ∀ bs l, bs ≠ [] → va.toNat < 2 ^ 58 → s.walk k va.toNat = .ok l → (pteMt l.word = 2 ∨ pteMt l.word = 3) →
      exec (.hostRmaWrite vi handle va bs) s = .next { s with out := .rmaError vi va :: s.out }) ∧
  (∀ (s : State) port (o : ConnOpts), port < 28 → s.pkg.stopped = false →
    (o.portSpeed800 = true ∧ o.rudi = false ∧ o.uudForData = false ∧ o.rccc = false ∧ o.deferrable = false ∧ o.rendezvous = false ∧
        o.encrypted = true ∧ o.inNetworkReduction = false → ∃ p, exec (.connectionSetup port o) s = .next { s with pkg := p } ∧
      (port, o.peer) ∈ p.conns ∧ ∀ c, c ≠ (port, o.peer) → (c ∈ p.conns ↔ c ∈ s.pkg.conns)) ∧
    (o.encrypted = false ∨ o.rudi = true ∨ o.portSpeed800 = false ∨ o.inNetworkReduction = true →
      ∃ p, exec (.connectionSetup port o) s = .next { s with pkg := p, out := .refusedConnection port o.peer :: s.out } ∧
        (port, o.peer) ∉ p.conns)) ∧
  (∀ (s : State) port peer keys foreign payload, port < 28 →
    ((port, peer) ∉ s.pkg.conns ∨ foreign = true ∧ port < 24 ∨ (∀ x ∈ s.vis, x.2.prov.keySet ≠ keys) →
      exec (.packetIngress port peer keys foreign payload) s =
        .next { s with pkg := { s.pkg with dropped := s.pkg.dropped + 1 } }) ∧
    ∀ vi v, (port, peer) ∈ s.pkg.conns → ¬ (foreign = true ∧ port < 24) → (s.vis.find? fun x => x.2.prov.keySet = keys) = some (vi, v) →
      exec (.packetIngress port peer keys foreign .other) s = .next s ∧
      (∀ h va n, exec (.packetIngress port peer keys foreign (.rmaRead h va n)) s = exec (.hostRmaRead vi h va n) s) ∧
      (∀ h va b, exec (.packetIngress port peer keys foreign (.rmaWrite h va b)) s = exec (.hostRmaWrite vi h va b) s) ∧
      (∀ n, exec (.packetIngress port peer keys foreign (.doorbell n)) s = exec (.doorbell vi ⟨peer, n⟩) s) ∧
      (∀ h va f wide u op cmp, exec (.packetIngress port peer keys foreign (.atomic h va f wide u op cmp)) s =
        exec (.hostAtomic vi h va f wide u op cmp) s) ∧
      ∀ h st m pl len barge, exec (.packetIngress port peer keys foreign (.frame h st m pl len barge)) s =
        exec (.frameArrival vi h st m pl len barge) s) ∧
  (∀ (s : State) ctx (inc : BitVec 6) x, ctx < 4096 → s.ctx ctx = some x →
    (inc ≠ x.inc → ∀ pa req, exec (.unitRequestArrival (BitVec.ofNat 12 ctx ++ inc) pa req) s = .next s) ∧
    (inc = x.inc →
      (∀ pa bs, regionOf s.pkg.lg pa = .interleaved → pa % 64 + bs.length ≤ 64 →
        exec (.unitRequestArrival (BitVec.ofNat 12 ctx ++ inc) pa (.write bs)) s = .next (s.homePut pa bs)) ∧
      (∀ pa, exec (.unitRequestArrival (BitVec.ofNat 12 ctx ++ inc) pa (.read 0)) s = .next s) ∧
      (∀ pa (f : AtomFn) (wide u : Bool) op cmp, regionOf s.pkg.lg pa = .interleaved → pa % (if wide then 8 else 4) = 0 →
        let n := if wide then 8 else 4
        exec (.unitRequestArrival (BitVec.ofNat 12 ctx ++ inc) pa (.atomic f wide u op cmp)) s = .next ((s.homePut pa
          (leBytes n (atomNew f u (8 * n) (leNat (s.homeGet pa n)) op.toNat cmp.toNat))).releaseFrom s.mem)) ∧
      ∀ va store, (∀ f, s.walk ctx va = .error f →
          exec (.unitRequestArrival (BitVec.ofNat 12 ctx ++ inc) va (.walk store)) s = .next s) ∧
        ∀ l, s.walk ctx va = .ok l →
          exec (.unitRequestArrival (BitVec.ofNat 12 ctx ++ inc) va (.walk store)) s = .next (s.setAD l store).1)) ∧
  (∀ s key q cin, key < firstSaved → s.seat key = some q →
    (∀ pos, q.cin ≠ cin → exec (.responseArrival key cin (.seat pos)) s = .next s) ∧
    (∀ ch, q.cin ≠ cin → exec (.responseArrival key cin (.channel ch)) s = .next s) ∧
    ∀ pos t b, q.cin = cin → q.stopping = none → s.performAt key pos = some (t, b) →
      exec (.responseArrival key cin (.seat pos)) s = .next t) ∧
  (∀ (s : State) key pos cin, key < firstSaved → s.seat key = none → exec (.responseArrival key cin (.seat pos)) s = .next s) ∧
  ∀ (s : State) ctx handle (inc : BitVec 6) x, ctx < 4096 → handle < 256 → s.ctx ctx = some x →
    (inc ≠ x.inc ∨ mapFind s.streams (256 * ctx + handle) = none →
      exec (.responseArrival ctx (BitVec.ofNat 12 ctx ++ inc) (.stream handle)) s = .next s) ∧
    (inc = x.inc → exec (.responseArrival ctx (BitVec.ofNat 12 ctx ++ inc) (.stream handle)) s = .next s)

/-! ### Steps of the memory system -/

/-- R143, R152, R147, R155, R166, R178: a walker fills the second-level TLB of its quad; an L1 line leaves with its dirty bytes written
to their homes; a miss in a compressed page expands its tile; a tile whose age has reached LIFE expires, and a sweep marks
every such tile of a die and no other. -/
def Sys2Proof.Claims.MemoryEventsRule : Prop :=
  (∀ (s : State) quad ctx va store x, s.ctx ctx = some x → quad < 72 → va.toNat < 2 ^ 58 →
    (∀ f, s.walk ctx va.toNat = .error f → exec (.pageWalk quad ctx va store) s = .next s) ∧
    ∀ l, s.walk ctx va.toNat = .ok l → ∃ t e, exec (.pageWalk quad ctx va store) s =
        .next ((s.setAD l store).1.setQuad quad { (s.setAD l store).1.quad quad with tlb := t }) ∧ t.head? = some e ∧
      e.cin = BitVec.ofNat 12 ctx ++ x.inc ∧ e.va ≤ va.toNat ∧ va.toNat < e.va + e.size ∧ ptePa e.leaf = ptePa l.word) ∧
  (∀ (s : State) core line l, (s.core core).l1[line]? = some l → l.pa % 64 = 0 → mapOkFrom (fun _ => true) 0 l.bytes = true →
    (∀ x ∈ l.bytes, x.1 < 64) → Memory.wf s.mem = true → mapOkFrom (fun _ => true) 0 s.cores = true →
    ∃ t : State, exec (.l1Eviction core line) s = .next t ∧ (t.core core).l1 = (s.core core).l1.eraseIdx line ∧
      (∀ c, c ≠ core → t.core c = s.core c) ∧ t.seats = s.seats ∧
      ∀ pa, memGet t.mem pa = match (if pa / 64 = l.pa / 64 then mapFind l.bytes (pa % 64) else none) with
        | some (b, true) => b
        | _ => memGet s.mem pa) ∧
  (∀ (s : State) pa, mapFind s.llcExp (pa / 64 * 64) = none → regionOf s.pkg.lg pa = .interleaved →
    (∀ t, s.expandAt pa = .ok t → exec (.compressedTileFill pa) s = .next t) ∧
    ∀ f, s.expandAt pa = .error f → exec (.compressedTileFill pa) s = .next s) ∧
  (∀ (s : State) tile, (s.tile tile).expd = false → (s.die (tileDie tile)).life ≤ (s.tile tile).age s.ftick →
    exec (.tileExpiry tile) s = .next (s.setTile tile { s.tile tile with expd := true })) ∧
  ∀ (s : State) die, die < 4 → mapOkFrom (fun _ => true) 0 s.tiles = true → mapOkFrom (fun _ => true) 0 s.dies = true →
    ∃ t : State, exec (.fleetSweep die) s = .next t ∧ t.mem = s.mem ∧ t.seats = s.seats ∧
    (t.die die).lastSweep = s.devtime ∧
    ∀ k, t.tile k = if tileDie k = die ∧ (s.die die).life ≤ (s.tile k).age s.ftick then { s.tile k with expd := true } else s.tile k

/-- R160, R161, R162, R157, R261: at the end of an epoch a page of PLC 7 is queued for a die, if it is not queued or marked already,
exactly where that die sent it at least 256 requests and three quarters of all and does not hold it, and the counts start anew; a queued page is marked on a free frame of that die and leaves every TLB, once the
requests that were translated before have been performed; its bytes are copied; at the switch the page leaves every TLB
once more, and what engines wrote for it meanwhile stands in its new frame, but for the writes of an incarnation that is no
longer current, which are not performed. -/
def Sys2Proof.Claims.MigrationRule : Prop :=
  (∀ s : State, s.devtime % 100000 = 0 → exec .placementEpoch s = .next { s with migs := s.migs ++ s.epochQueue, epoch := [] } ∧
    ∀ g ∈ s.epochQueue, ∃ frame d, g.die = some d ∧ g.copied = false ∧
      let n := fun e => mapGet 0 s.epoch (4 * frame + e)
      256 ≤ n d ∧ 3 * (n 0 + n 1 + n 2 + n 3) ≤ 4 * n d ∧ regionOf s.pkg.lg (16384 * frame) ≠ .local_ d) ∧
  (∀ (s : State) k va l d, s.devtime % 100000 = 0 → va < 2 ^ 58 → s.walk k va = .ok l → ptePlc l.word = 7 → pteMig l.word = false →
    (∀ g ∈ s.migs, ¬ (g.ctx = k ∧ g.va = BitVec.ofNat 64 l.va)) → d < 4 →
    let n := fun e => mapGet 0 s.epoch (4 * (ptePa l.word / 16384) + e)
    256 ≤ n d → 3 * (n 0 + n 1 + n 2 + n 3) ≤ 4 * n d → regionOf s.pkg.lg (16384 * (ptePa l.word / 16384)) ≠ .local_ d →
    ∃ t : State, exec .placementEpoch s = .next t ∧ ∃ g ∈ t.migs, g.ctx = k ∧ g.va = BitVec.ofNat 64 l.va ∧ g.die = some d ∧ g.copied = false) ∧
  ∀ (s : State) ctx va g l, (s.migs.find? fun g => g.ctx = ctx ∧ g.va.toNat / 16384 = va.toNat / 16384) = some g → s.walk ctx va.toNat = .ok l →
    mapOkFrom (fun _ => true) 0 s.cores = true →
    (s.requestsOn (ptePa l.word) = true → ∀ d frame, g.die = some d →
      exec (.migrationMark ctx va frame) s = .fault (.notEnabled "MIGRATION_MARK")) ∧
    (∀ d frame u, g.die = some d → s.requestsOn (ptePa l.word) = false → s.takeFrames [.local_ d] 0 16384 [frame] = some u → ∃ t : State, exec (.migrationMark ctx va frame) s = .next t ∧
      t.frames = u.frames ∧ (∀ core, ∀ e ∈ (t.core core).tlb ++ (t.quad (core / 4)).tlb, e.cin.toNat / 64 = ctx → ¬ (e.va ≤ l.va ∧ l.va < e.va + e.size)) ∧
      (t.migs.find? fun g => g.ctx = ctx ∧ g.va.toNat / 16384 = va.toNat / 16384) = some { g with die := none, frame := frame }) ∧
    (g.die = none → g.copied = false → pteMt l.word ≠ 2 → Memory.wf s.mem = true → ∃ t : State, exec (.migrationCopy ctx va) s = .next t ∧
      (∀ i, i < 16384 → memGet t.mem (g.frame + i) = memGet s.mem (ptePa l.word + i)) ∧
      (∀ pa, ¬ (g.frame ≤ pa ∧ pa < g.frame + 16384) → memGet t.mem pa = memGet s.mem pa) ∧
      (t.migs.find? fun g => g.ctx = ctx ∧ g.va.toNat / 16384 = va.toNat / 16384) = some { g with copied := true }) ∧
    (g.die = none → g.copied = false → pteMt l.word = 2 → ∃ t : State, exec (.migrationCopy ctx va) s = .next t) ∧
    (g.copied = true → s.requestsOn (ptePa l.word) = true →
      exec (.migrationSwitch ctx va) s = .fault (.notEnabled "MIGRATION_SWITCH")) ∧
    (g.copied = true → s.requestsOn (ptePa l.word) = false → ∃ t : State, exec (.migrationSwitch ctx va) s = .next t ∧
      t.frames = s.frames.filter (fun f => f.1 ≠ ptePa l.word) ∧
      (∀ core, ∀ e ∈ (t.core core).tlb ++ (t.quad (core / 4)).tlb, e.cin.toNat / 64 = ctx → ¬ (e.va ≤ l.va ∧ l.va < e.va + e.size)) ∧
      (∀ x rest i y, g.held = x :: rest → rest = [] → i < x.2.2.length → Memory.wf s.mem = true → ctx < 4096 → s.ctx ctx = some y →
        x.1 = BitVec.ofNat 12 ctx ++ y.inc → memGet t.mem (g.frame + x.2.1 + i) = x.2.2.getD i 0) ∧
      (∀ y, ctx < 4096 → s.ctx ctx = some y → (∀ x ∈ g.held, ∃ inc : BitVec 6, x.1 = BitVec.ofNat 12 ctx ++ inc ∧ inc ≠ y.inc) →
        Memory.wf s.mem = true → (∀ core, (s.core core).l1 = []) →
        ∀ a, ¬ (l.pte ≤ a ∧ a < l.pte + 8) → memGet t.mem a = memGet s.mem a) ∧
      ∀ h ∈ t.migs, ¬ (h.ctx = ctx ∧ h.va.toNat / 16384 = va.toNat / 16384))

/-- The events of the memory system, and the migration of a page.
The model's choices that it rests on: assumptions 6, 7, 11, 54, 60, 78. -/
def Obligations.MemoryMoves : Prop :=
  Claims.MemoryEventsRule ∧ Claims.MigrationRule

/-! ### Power and heat -/

namespace Sys2Proof.Claims

/-- What an interval grants (Table 13.2): the levels of the lower and the upper quad, the permits charged, and WHY of a quad that
claims, given whether the die is hot, the pool locked, which quads claim and which are busy, and the permits. -/
structure Grants (hot locked cl cu bl bu : Bool) (permits : Nat) (g : Grant) : Prop where
  isHot : hot = true → g = ⟨0, 0, 0, 3⟩
  isLocked : hot = false → locked = true → g = ⟨0, 0, 0, 1⟩
  both4 : hot = false → locked = false → cl = true → cu = true → 4 ≤ permits → g = ⟨2, 2, 4, 0⟩
  both2 : hot = false → locked = false → cl = true → cu = true → 2 ≤ permits → permits < 4 → g = ⟨1, 1, 2, 0⟩
  lower : hot = false → locked = false → cl = true → cu = false → bu = true → 1 ≤ permits → g = ⟨1, 0, 1, 0⟩
  upper : hot = false → locked = false → cu = true → cl = false → bl = true → 1 ≤ permits → g = ⟨0, 1, 1, 0⟩
  alone : hot = false → locked = false → (cl = true ∧ cu = false ∧ bu = false ∨ cu = true ∧ cl = false ∧ bl = false) → g = ⟨0, 0, 0, 2⟩
  short : hot = false → locked = false → (cl = true ∧ cu = true ∧ permits < 2 ∨ permits = 0 ∧ (cl = true ∧ cu = false ∧ bu = true ∨
    cu = true ∧ cl = false ∧ bl = true)) → g = ⟨0, 0, 0, 1⟩
  neither : hot = false → locked = false → cl = false → cu = false → g.lower = 0 ∧ g.upper = 0 ∧ g.charge = 0

/-- The pool at the end of an interval (R275): it takes a permit back after every fourth calm one, and is unlocked at 16. -/
structure Refills (p q : Pair) (boosted : Bool) : Prop where
  used : boosted = true → q = { p with calm := 0 }
  calm : boosted = false → p.calm + 1 ≠ 4 → q = { p with calm := p.calm + 1 }
  fourth : boosted = false → p.calm + 1 = 4 → q = { p with
    calm := 0, permits := min 64 (p.permits + 1), locked := p.locked && decide (min 64 (p.permits + 1) < 16) }

/-- The ballast carries a quad without a seat, or one whose wake is under way, beside a partner at nominal level or below (R271,
R284). -/
def Carried (s : State) (quad : Nat) : Prop := s.busyQuad quad = false ∧ (s.quad (partnerQuad quad)).lvl = 0

/-- Half a microsecond has passed since an earlier time, where there is one. -/
def Half (last : Option Nat) (now : Nat) : Prop := ∀ t, last = some t → t + 50 ≤ now

/-- The lifetime class of a temperature (Table 7.2). -/
def lifeClass (t : Int) : Nat := if t ≤ 85 then 2000 else if t ≤ 95 then 1000 else if t ≤ 105 then 500 else 250

/-- The row of Table 13.5. -/
def heatRow (t : Int) : Nat :=
  if t < 85 then 0 else if t < 95 then 1 else if t < 105 then 2 else if t < 115 then 3 else if t < 120 then 4 else 5

end Sys2Proof.Claims

/-- R269, R270, R271, R272 to R275, R279: of the samples, one in every 0.5 µs, one outside a tenth raises the heavier quad's
clamp, one within a twentieth lowers both, and none is outside where the ballast carries a quad; an interval of 4 µs grants
what Table 13.2 says, charges the pool, and a fall from level 2 passes through 1; chaining withdraws the next pair in its
order, one in every 0.5 µs, while a clamp is up. -/
def Sys2Proof.Claims.ChargeAndBoostRule : Prop :=
  (∀ (s : State) pair lower upper t, (s.pair pair).lastSample = some t → s.devtime < t + 50 →
    exec (.balancerSample pair lower upper) s = .fault (.notEnabled "BALANCER_SAMPLE")) ∧
  (∀ (r : State) pair lower upper, pair < 36 → r.devtime % 50 = 0 → Half (r.pair pair).lastSample r.devtime →
    let s := r.setPair pair { r.pair pair with lastSample := some r.devtime }
    let k := if upper ≤ lower then 2 * pair else 2 * pair + 1
    let d := max lower upper - min lower upper
    (max lower upper < 10 * d → Carried r (2 * pair) ∨ Carried r (2 * pair + 1) →
      exec (.balancerSample pair lower upper) r = .fault (.notEnabled "BALANCER_SAMPLE")) ∧
    (max lower upper < 10 * d → ¬ Carried r (2 * pair) → ¬ Carried r (2 * pair + 1) → exec (.balancerSample pair lower upper) r = .next (s.setQuad k { s.quad k with
      clamp := min 8 ((s.quad k).clamp + 1), steps := (s.quad k).steps + 1, calm := false })) ∧
    (20 * d ≤ max lower upper → 10 * d ≤ max lower upper → exec (.balancerSample pair lower upper) r =
      .next ((s.setQuad (2 * pair) { s.quad (2 * pair) with clamp := (s.quad (2 * pair)).clamp - 1 }).setQuad (2 * pair + 1)
        { s.quad (2 * pair + 1) with clamp := (s.quad (2 * pair + 1)).clamp - 1 })) ∧
    (max lower upper < 20 * d → 10 * d ≤ max lower upper → exec (.balancerSample pair lower upper) r = .next s)) ∧
  (∀ (s : State) pair, pair < 36 → s.devtime % 400 = 0 → (s.pair pair).lastInterval ≠ some s.devtime →
    mapOkFrom (fun _ => true) 0 s.pairs = true → mapOkFrom (fun _ => true) 0 s.quads = true →
    let lo := 2 * pair
    let hi := 2 * pair + 1
    ∃ (t : State) (p : Pair) (g : Grant), exec (.gustInterval pair) s = .next t ∧
      Refills (s.pair pair) p (decide ((s.quad lo).lvl ≠ 0 ∨ (s.quad hi).lvl ≠ 0)) ∧
      Grants (s.die (dieOfQuad lo)).hot p.locked (s.claims lo) (s.claims hi) (s.busyQuad lo) (s.busyQuad hi) p.permits g ∧
      t.pair pair = { p with permits := p.permits - g.charge, locked := p.locked || decide (0 < g.charge ∧ p.permits ≤ g.charge)
                             lastInterval := some s.devtime } ∧
      (t.quad lo).lvl = (if (s.quad lo).lvl = 2 ∧ g.lower = 0 then 1 else g.lower) ∧
      (t.quad hi).lvl = (if (s.quad hi).lvl = 2 ∧ g.upper = 0 then 1 else g.upper) ∧
      (t.quad lo).why = (if s.claims lo then g.why else 0) ∧ (t.quad hi).why = (if s.claims hi then g.why else 0)) ∧
  ∀ (s : State) quad excess, quad < 72 → s.devtime % 50 = 0 → Half (s.quad quad).lastWithdraw s.devtime → (0 < (s.quad quad).clamp ∨ excess = true) →
    (∀ i l, [1, 0, 2, 3, 4, 5].filter (fun k => (s.quad quad).chainperm.getLsbD k) = i :: l →
      exec (.chainWithdraw quad excess) s = .next (s.setQuad quad { s.quad quad with
        chainperm := (s.quad quad).chainperm &&& ~~~(1#6 <<< i), calm := false, lastWithdraw := some s.devtime })) ∧
    ((s.quad quad).chainperm = 0 → exec (.chainWithdraw quad excess) s = .next (s.setQuad quad { s.quad quad with
      calm := false, lastWithdraw := some s.devtime }))

/-- R165, R177, R276, R280, R282, Table 7.2, Table 13.5: each sensor is read once a millisecond; a junction reading lowers LIFE at once to the class of a hotter die, and raises
it only to a class whose bound every reading of the past 100 ms stays 5 °C below; when LIFE changes, the seats of contexts
with fleeting pages on the die are told. A stack moves to a hotter row at once, and at 120 °C the device stops. -/
def Sys2Proof.Claims.HeatRule : Prop :=
  (∀ (s : State) die temp, die < 4 → s.pkg.booted = true → (∀ r l, (s.die die).readings = r :: l → r.1 + 100000 ≤ s.devtime) → mapOkFrom (fun _ => true) 0 s.dies = true →
    let past := (s.devtime, temp) :: (s.die die).readings.filter fun r => decide (s.devtime < r.1 + 10000000)
    ∃ t : State, exec (.junctionReading die temp) s = .next t ∧ t.mem = s.mem ∧ (t.die die).hot = decide (100 < temp) ∧
      (t.die die).readings = past ∧
      (lifeClass temp < (s.die die).life → (t.die die).life = lifeClass temp) ∧
      ((s.die die).life ≤ lifeClass temp → (∀ c ∈ [(2000, 85), (1000, 95), (500, (105 : Int))], (s.die die).life < c.1 →
        ∃ r ∈ past, c.2 < r.2 + 5) → (t.die die).life = (s.die die).life) ∧
      (∀ c ∈ [(2000, 85), (1000, 95), (500, (105 : Int))], (s.die die).life ≤ lifeClass temp → (s.die die).life < c.1 →
        (∀ r ∈ past, r.2 + 5 ≤ c.2) → c.1 ≤ (t.die die).life) ∧
      ((s.die die).life < (t.die die).life → ∃ c ∈ [(2000, 85), (1000, 95), (500, (105 : Int))],
        (t.die die).life = c.1 ∧ ∀ r ∈ past, r.2 + 5 ≤ c.2) ∧
      ((t.die die).life = (s.die die).life → t.seats = s.seats ∧ t.tiles = s.tiles) ∧
      ((t.die die).life ≠ (s.die die).life → ∀ key q, s.seat key = some q → t.seat key = some (if s.fleetingOn q.ctx die then
        { q with status := { q.status with lifechg := true }, tags := q.tags ||| (1#64 <<< 63) } else q))) ∧
  ∀ (s : State) stack temp, stack < 12 → s.pkg.booted = true → (∀ t, (s.stack stack).readAt = some t → t + 100000 ≤ s.devtime) → mapOkFrom (fun _ => true) 0 s.hbm = true →
    ∃ t : State, exec (.hbmThermalReading stack temp) s = .next t ∧ t.mem = s.mem ∧ t.seats = s.seats ∧ (t.stack stack).code = temp ∧
      (t.stack stack).readAt = some s.devtime ∧
      ((s.stack stack).row < heatRow temp → (t.stack stack).row = heatRow temp) ∧
      (heatRow temp = (s.stack stack).row → (t.stack stack).row = (s.stack stack).row) ∧
      (heatRow temp < (s.stack stack).row → (t.stack stack).row = (s.stack stack).row ∨
        (t.stack stack).row + 1 = (s.stack stack).row ∧ (s.stack stack).readings.length = 9) ∧
      (120 ≤ temp → t.pkg.stopped = true) ∧ (temp < 120 → t.pkg = s.pkg)

/-- R283, R284: a quad that holds for a microsecond lowers its voltage, keeps its state in retention, and is gated 20 µs after its
hold began; a wake waits for the in-rush arbiter of its die, which starts at most two ramps at once, in the order of their
coming; a ramp takes 4 µs. -/
def Sys2Proof.Claims.PowerGatingRule : Prop :=
  ∀ (s : State) quad, let x := s.quad quad
    (x.power = .hold → x.since + 100 ≤ s.devtime →
      exec (.holdRetention quad) s = .next (s.setQuad quad { x with power := .lowering s.devtime false })) ∧
    (x.power = .hold → s.devtime < x.since + 100 → exec (.holdRetention quad) s = .fault (.notEnabled "HOLD_RETENTION")) ∧
    (∀ t, x.power = .lowering t false →
      exec (.retentionLoweringComplete quad) s = .next (s.setQuad quad { x with power := .retention })) ∧
    (∀ t, x.power = .lowering t true → exec (.retentionLoweringComplete quad) s = .next ((s.setQuad quad { x with power := .waiting }).setDie
      (dieOfQuad quad) { s.die (dieOfQuad quad) with wakes := (s.die (dieOfQuad quad)).wakes ++ [quad] })) ∧
    (x.power = .retention → x.since + 2000 ≤ s.devtime →
      exec (.holdGate quad) s = .next (s.setQuad quad { x with power := .gated })) ∧
    (x.power = .ramping → x.since + 400 ≤ s.devtime →
      exec (.wakeRampComplete quad) s = .next (s.setQuad quad { x with power := .on })) ∧
    (x.power = .ramping → s.devtime < x.since + 400 → exec (.wakeRampComplete quad) s = .fault (.notEnabled "WAKE_RAMP_COMPLETE")) ∧
    ∀ die rest, (s.die die).wakes = quad :: rest → x.power = .waiting →
      let ramps := ((List.range 18).filter fun i => (s.quad (18 * die + i)).power == .ramping).length
      (ramps < 2 → exec (.wakeRampStart die) s = .next ((s.setDie die { s.die die with wakes := rest }).setQuad quad
        { x with power := .ramping, since := s.devtime })) ∧
      (2 ≤ ramps → exec (.wakeRampStart die) s = .fault (.notEnabled "WAKE_RAMP_START"))

/-- The events of the power and thermal controllers.
The model's choices that it rests on: assumptions 52, 53. -/
def Obligations.PowerAndHeat : Prop :=
  Claims.ChargeAndBoostRule ∧ Claims.HeatRule ∧ Claims.PowerGatingRule

/-! ### Errors, traces and boot -/

namespace Sys2Proof.Claims

/-- The device stops: every VI is told, and every entry of its ring whose turn has not come is answered (R259, R304). -/
structure Stopped (s : State) (unit : Nat) (t : State) : Prop where
  all : t = { s with pkg := { s.pkg with stopped := true }, vis := t.vis, out := t.out }
  told : ∀ x ∈ s.vis, Out.error x.1 unit ∈ t.out
  answered : ∀ vi w, mapFind t.vis vi = some w → w.doorbell = BitVec.ofNat 64 w.next
  exact : (∀ x ∈ s.vis, x.2.doorbell = BitVec.ofNat 64 x.2.next) →
    t.vis = s.vis ∧ t.out = (s.vis.map fun x => Out.error x.1 unit).reverse ++ s.out

/-- The error is of a seat that no stop holds, with no transform routine at work and no bypass chain begun (R81, R83, R198). -/
structure Unstopped (q : Seat) : Prop where
  stopping : q.stopping = none
  chain : q.byp = none
  routine : NoRoutine q

/-- The seat after an asynchronous stop between its commands (R81). -/
def betweenCommands (q : Seat) : Seat := { q with sr := { q.sr with eshPart := q.sr.eshPart && q.aside.any (·.partial_) } }

end Sys2Proof.Claims

/-- R257, R258, R259, R180, R21: an engine that has not acknowledged a stop for 20,000 ticks, a reclaim of 50,000 and an error of
shared state stop the device, which names a class of unit to every VI and performs nothing more; a corrected error only
counts; an uncorrectable error in a seat's data, which EVAL names by its cell or by its address (Table 11.3), leaves that
datum open and takes a late ECC trap, at the row of an MMT or LDST whose own read meets it; one in a fleeting tile that is not
live is never reported. -/
def Sys2Proof.Claims.ErrorsRule : Prop :=
  (∀ s key q c, s.seat key = some q → q.stopping = some c → q.declared = false →
    (q.stopSince + 20000 ≤ s.devtime → ∃ t, exec (.collectorWatchdog key) s = .next t ∧ Stopped s unitCollector t) ∧
    (s.devtime < q.stopSince + 20000 → exec (.collectorWatchdog key) s = .fault (.notEnabled "COLLECTOR_WATCHDOG"))) ∧
  (∀ s ctx x old t, s.ctx ctx = some x → x.reclaim = some (old, t) → t + 50000 ≤ s.devtime →
    ∃ t, exec (.reclaimWatchdog ctx) s = .next t ∧ Stopped s unitReclaim t) ∧
  (∀ s unit, s.pkg.stopped = false → ∃ t, exec (.deviceStop unit) s = .next t ∧ Stopped s unit t) ∧
  (∀ s : State, s.pkg.stopped = true → s.agenda = [] → step s = .fault .deviceStopped) ∧
  (∀ (s : State) unit, exec (.eccCorrected unit) s = .next { s with pkg := { s.pkg with
    corrected := mapInsert s.pkg.corrected unit (mapGet 0 s.pkg.corrected unit + 1) } }) ∧
  (∀ s key q value, s.seat key = some q → q.pend = [] → Unstopped q →
    let traps := fun (n : Nat) => ∃ k pc, exec (.eccUncorrectable key n value ⟨none, ⟨[], none⟩, none⟩) s =
      .next ((State.setSeat { s with freeN := k } key (betweenCommands q)).takeTrap key ⟨codeEcc, BitVec.ofNat 8 n, value, pc⟩ true false)
    (value.toNat < 256 * q.rows → traps 1) ∧ (value.toNat < 128 * q.rows → traps 2) ∧
    (∀ t, some t ∈ q.buf.toList → value.toNat < 128 * t.k → traps 3) ∧
    (∀ l, s.walk q.ctx value.toNat = .ok l → ptePlc l.word ≠ 5 → let pa := ptePa l.word + value.toNat % l.size
      ((∃ x ∈ (s.core (coreOf key)).l1, x.cin = q.cin ∧ x.pa = pa / 64 * 64) → traps 4) ∧
      (regionOf s.pkg.lg pa = .interleaved → traps 5 ∧ traps 6) ∧
      ∀ d, regionOf s.pkg.lg pa = .fleeting d → (s.liveAt pa = true → traps 7) ∧
        (s.liveAt pa = false → exec (.eccUncorrectable key 7 value ⟨none, ⟨[], none⟩, none⟩) s = .fault (.notEnabled "ECC_UNCORRECTABLE"))) ∧
    ∀ cell, cell < 256 * q.rows → value.toNat = cell → ∃ k pc x, exec (.eccUncorrectable key 1 value ⟨some cell, ⟨[], none⟩, none⟩) s =
      .next ((State.setSeat { s with freeN := k } key (betweenCommands { q with plane := mapSet 0 q.plane cell x })).takeTrap
        key ⟨codeEcc, 1, value, pc⟩ true false)) ∧
  ∀ s key q value c e s' c' q', key < firstSaved → s.seat key = some q → q.stopping = none → q.byp = none → q.pend = [c] → q.gathers = [] →
    q.park = none → c.sysScope = false → c.chain = none → (if c.partial_ then c.row else 0) ≤ e → e < c.rowCount →
    s.perform key { c with rowLim := some e } = .part s' c' → s'.seat key = some q' → q'.pend = [c] →
    let traps := fun (n : Nat) (r : Seat) => exec (.eccUncorrectable key n value ⟨none, ⟨[], none⟩, some (.queued 0 e)⟩) s =
      .next ((s'.setSeat key { r with pend := [], aside := r.aside ++ [c'] }).takeTrap key ⟨codeEcc, BitVec.ofNat 8 n, value, c.pc⟩ true false)
    (∀ ctl, c.cmd = .mmt ctl → value.toNat < 128 * q.rows → traps 2 { q' with sr := { q'.sr with
      mseqRow := BitVec.ofNat 11 e, mseqAct := true, eshElem := BitVec.ofNat 32 e, eshPart := false, eshEnt := c.aEnt } }) ∧
    ∀ ff md g f l, c.cmd = .ldst ff md g f → s.walk q.ctx value.toNat = .ok l → ptePlc l.word ≠ 5 →
      regionOf s.pkg.lg (ptePa l.word + value.toNat % l.size) = .interleaved → traps 5 q'

/-- R289, R290, R291, R293, R298, R407, R162: TMARK writes a MARK record of s[sa], behind the samples of what has completed, and none
with SSIZE.PAGES 0; a record that does
not fit counts in DROPPED, and one that does goes to SBASE + SWPTR, or waits while that page migrates; a completed sampled
instruction writes its VSAMPLE, with its entry, VL, PC and time and the elements of each lane cluster; firmware arms a die's Barograph, a host's command is a stop trigger, and P cycles after the trigger it freezes. -/
def Sys2Proof.Claims.TracesRule : Prop :=
  (∀ s key q, Ctl s key q → (s.die (dieOf key)).baro = none → ∀ a, Settled q [a] →
    let r := (s.setSeat key q.advance).writeRecord key
      ([0x18, 0x30, 0, 0, 0, 0, 0, 0] ++ leBytes 8 (q.reg a).toNat ++ leBytes 8 s.devtime)
    (q.sr.ssize = 0 → Passes s key q (.tmark a)) ∧
    (q.sr.ssize ≠ 0 → q.samples = [] → ∀ t, r = some t → exec (.tmark a) s = .next t) ∧
    (q.sr.ssize ≠ 0 → q.samples ≠ [] ∨ r = none → exec (.tmark a) s = .next (s.stall key))) ∧
  (∀ s key q rec, s.seat key = some q →
    (q.sr.trcErr = true → s.writeRecord key rec = some s) ∧
    (q.sr.trcErr = false → 0 < q.sr.swptr.toNat % 4096 → q.sr.swptr.toNat % 4096 + rec.length ≤ 4096 →
      let room := 4096 * q.sr.ssize.toNat
      let used := q.sr.swptr.toNat - q.sr.srdptr.toNat
      (room < rec.length + used →
        s.writeRecord key rec = some (s.setSeat key { q with sr := { q.sr with dropped := q.sr.dropped + 1 } })) ∧
      let va := (q.sr.sbase ++ 0#12) + BitVec.ofNat 64 (q.sr.swptr.toNat % room)
      (∀ t, rec.length + used ≤ room → s.translate (q.engine key) .estore va = (.wait, t) → s.writeRecord key rec = none) ∧
      ∀ h t, rec.length + used ≤ room → s.translate (q.engine key) .estore va = (.ok h, t) →
        s.writeRecord key rec =
          some ((t.homePut h.pa rec).setSeat key { q with sr := { q.sr with swptr := q.sr.swptr + BitVec.ofNat 64 rec.length } })) ∧
    (∀ c rest counts total, q.samples = c :: rest → c.vl < 2 ^ 32 → ∃ rec, rec.length = 96 ∧
      rec.take 4 = [0x60, 0x20] ++ leBytes 2 c.ent.toNat ∧
      (rec.drop 4).take 20 = leBytes 4 c.vl ++ leBytes 8 c.pc.toNat ++ leBytes 8 c.time ∧
      (∀ k, k < 8 → (rec.drop (36 + 8 * k)).take 2 = leBytes 2 (c.elems.getD k 0)) ∧
      ∀ t, (s.setSeat key { q with samples := rest }).writeRecord key rec = some t →
        exec (.vsampleWrite key counts total) s = .next t)) ∧
  (∀ (s : State) die core vi start stop post, die < 4 → core < 288 → dieOfCore core = die → (mapFind s.vis vi).isSome → post ≤ 65535 →
    start ≠ .anyTrap → start ≠ .hostCommand → stop ≠ .immediate →
    exec (.barographArm die core vi start stop post) s = .next (s.setDie die { s.die die with
      baro := some ⟨core, vi, start, stop, post, decide (start = .immediate), none, false, 0, 0, false, []⟩ })) ∧
  ∀ (s : State) die b, (s.die die).baro = some b → b.frozen = false →
    (b.running = true → b.stopAt = none → b.stop = .hostCommand →
      exec (.barographStopCommand die) s = .next (s.setDie die { s.die die with baro := some { b with stopAt := some b.written } })) ∧
    (∀ n, b.stopAt = some n → b.written = n + b.post →
      exec (.barographFreeze die) s = .next (s.setDie die { s.die die with baro := some { b with frozen := true } }))

/-- Errors of the package, and the tracing units.
The model's choices that it rests on: assumptions 28, 29, 36, 55, 57, 58, 75. -/
def Obligations.ErrorsAndTraces : Prop :=
  Claims.ErrorsRule ∧ Claims.TracesRule

namespace Sys2Proof.Claims

/-- Requests of a context, or with 4096 of every context, that were translated and are still to be performed (R406). -/
def Unperformed (s : State) (ctx : Nat) : Prop :=
  ∃ q ∈ s.seats.map (·.2) ++ s.saved.map (·.2.2.2), (ctx = 4096 ∨ q.ctx = ctx) ∧
    ((∃ c ∈ q.pend ++ q.aside, c.pa ≠ none ∨ ∃ h, c.handed = some h ∧ h ≠ []) ∨ ∃ g ∈ q.gathers, g.hits ≠ [])

end Sys2Proof.Claims

/-- R139, R301, R302, R306, R406, R144: a boot whose image does not verify, or is older than the rollback counter, leaves the package in recovery; another starts firmware with the LG of
the provisioning record; a record written now takes effect at the next reset; a VI is provisioned once, with an address and
keys of its own and a ring in free memory. TLBI, which is privileged, drops the translations it covers, and waits for the requests of the
context that were made with a translation, wherever they stand: in the queues of a seat, set aside, saved, or in a gather.
The model's choices that it rests on: assumptions 4, 40, 51, 56, 59. -/
def Obligations.BootAndProvisioning : Prop :=
  (∀ (s : State) junctions hbm, s.pkg.booted = false → s.pkg.recovery = false →
    (∀ version, version = none ∨ (∃ n, version = some n ∧ n < Config.rollback) →
      exec (.boot version junctions hbm) s = .next { s with pkg := { s.pkg with recovery := true } }) ∧
    (∀ version, Config.rollback ≤ version → junctions.length = 4 → hbm.length = 12 → ∃ t : State,
      exec (.boot (some version) junctions hbm) s = .next t ∧ t.pkg.booted = true ∧
      t.pkg.lg = (match s.pkg.lgRecord with | some n => if n ≤ 192 then n else 0 | none => 0) ∧ t.mem = s.mem ∧ t.vis = s.vis ∧
      t.ctxs = s.ctxs)) ∧
  (∀ (s : State) lg, exec (.provisioningRecordWrite lg) s = .next { s with pkg := { s.pkg with lgRecord := lg } }) ∧
  (∀ (s : State) vi p, vi < 1024 → mapFind s.vis vi = none → 16 ≤ p.ringSize → p.ringSize ≤ 4096 → p.domain < 144 →
    (∀ x ∈ s.vis, x.2.prov.keySet ≠ p.keySet ∧ x.2.prov.fabricAddr ≠ p.fabricAddr) → p.ringBase + 64 * p.ringSize ≤ 4 * (192 - s.pkg.lg) * gib →
    (∀ f ∈ s.frames, p.ringBase + 64 * p.ringSize ≤ f.1 ∨ f.1 + f.2 ≤ p.ringBase) →
    (∀ x ∈ s.vis, p.ringBase + 64 * p.ringSize ≤ x.2.prov.ringBase ∨ x.2.prov.ringBase + 64 * x.2.prov.ringSize ≤ p.ringBase) →
    exec (.viProvisioning vi p) s = .next { s with
      vis := mapInsert s.vis vi ⟨p, 0, 0, [], [], [], 0⟩, pkg := { s.pkg with domain := p.domain } }) ∧
  ∀ s key q, Ctl s key q → ∀ a, Settled q [a] →
    (∀ (f : BitVec 2) w, encode (.tlbi a f) = some w → q.status.prv = false → Traps s key (.tlbi a f) codePriv 0 (w.setWidth 64) q.curPc) ∧
    (q.status.prv = true → ∀ (f : BitVec 2) ctx (va : Option Nat),
      (f = 0 ∧ (q.reg a).extractLsb' 44 8 = 0 ∧ ctx = ((q.reg a).extractLsb' 52 12).toNat ∧
          va = some (((q.reg a).extractLsb' 0 44).toNat * 2 ^ 14) ∨
        f = 1 ∧ q.reg a = BitVec.ofNat 64 ctx ∧ ctx < 4096 ∧ va = none ∨ f = 2 ∧ q.reg a = 0 ∧ ctx = 4096 ∧ va = none) →
      ∃ t : State, (¬ Unperformed s ctx → exec (.tlbi a f) s = .next (t.setSeat key q.advance)) ∧
        (Unperformed s ctx → exec (.tlbi a f) s = .next (t.setSeat key { q with wait := some (.tlbi ctx), byp := none })) ∧
        t.mem = s.mem ∧ t.seats = s.seats ∧
        ∀ core e, (e ∈ (t.core core).tlb ↔ e ∈ (s.core core).tlb ∧
          ¬ ((ctx = 4096 ∨ e.cin.toNat / 64 = ctx) ∧ ∀ x, va = some x → e.va ≤ x ∧ x < e.va + e.size)))

/-! ### Steps, words and what every step keeps -/

namespace Sys2Proof.Claims

/-- The control thread of seat `key` has the turn, nothing comes before it, and it can issue (R42, R47). -/
structure HasTurn (s : State) (key : Nat) (q : Seat) : Prop extends Ctl s key q where
  runs : s.pkg.stopped = false
  booted : s.pkg.recovery = false
  agenda : s.agenda = []
  issues : s.canIssue ⟨key, none⟩ = true
  replay : q.replay = none

/-- The virtual processor of a lane has the turn likewise. -/
structure LaneTurn (s : State) (key lane : Nat) (q : Seat) (v : Vp) : Prop extends Lane s key lane q v where
  runs : s.pkg.stopped = false
  booted : s.pkg.recovery = false
  agenda : s.agenda = []
  issues : s.canIssue ⟨key, some lane⟩ = true

/-- The turn passes to the next thread of the round that can issue, and the step is over. -/
def Passed (t : Thread) : Host.Outcome State Fault Refusal → Host.Outcome State Fault Refusal
  | .next u => .next { u with thr := u.after t }
  | .fault e => .fault e
  | .refused e => .refused e

end Sys2Proof.Claims

/-- R138, R309, R311, R42, R49: one step of a thread that has the turn fetches the four bytes at its position, a virtual processor
from its cluster's buffer, whose turn passes to the next lane, and is `exec` of the instruction they name, after which the turn passes on; a word that names no
instruction runs as the row of the table that says so.
The model's choices that it rests on: assumptions 2, 8. -/
def Obligations.StepRunsDecoded : Prop :=
  (∀ s key q, HasTurn s key q → (s.die (dieOf key)).baro = none → (∀ o, s.seat (otherSeat key) = some o → o.wait ≠ some .yield) →
    ∀ w t, s.fetchAt (q.who key) q.pc q.pc = .ok (w, t) →
      (∀ i, decodeWord w = some i → step s = Passed ⟨key, none⟩ (exec i t)) ∧
      (decodeWord w = none → step s = Passed ⟨key, none⟩ (exec (.wordNamingNoInstruction w) t))) ∧
  (∀ s key q, HasTurn s key q → (s.die (dieOf key)).baro = none → (∀ o, s.seat (otherSeat key) = some o → o.wait ≠ some .yield) →
    ∀ h t, s.translate (q.who key) .fetch q.pc = (.ok h, t) → h.mt = 0 →
      ∃ u : State, s.fetchAt (q.who key) q.pc q.pc =
          .ok (wordOfBytes (memGet t.mem h.pa) (memGet t.mem (h.pa + 1)) (memGet t.mem (h.pa + 2)) (memGet t.mem (h.pa + 3)), u) ∧
        u = { t with cores := u.cores, epoch := u.epoch }) ∧
  (∀ s key q, HasTurn s key q → (s.die (dieOf key)).baro = none → (∀ o, s.seat (otherSeat key) = some o → o.wait ≠ some .yield) →
    ∀ t, s.fetchAt (q.who key) q.pc q.pc = .error t → step s = Passed ⟨key, none⟩ (exec .instructionFetchFault s)) ∧
  ∀ s key lane q v f l, LaneTurn s key lane q v → (∀ o, s.seat (otherSeat key) = some o → o.wait ≠ some .yield) →
    q.fork = some f → f.buffered (lane / 32) (v.pc.toNat / 512) = some l →
    let k := v.pc.toNat % 512
    let w := wordOfBytes (l.getD k 0) (l.getD (k + 1) 0) (l.getD (k + 2) 0) (l.getD (k + 3) 0)
    let turned := { f with turn := mapInsert f.turn (lane / 32) (lane + 1) }
    let t := s.setSeat key { q with fork := some (turned.touch (lane / 32) (v.pc.toNat / 512) l) }
    (∀ i, decodeWord w = some i → step s = Passed ⟨key, some lane⟩ (exec i t)) ∧
    (decodeWord w = none → step s = Passed ⟨key, some lane⟩ (exec (.wordNamingNoInstruction w) t))

/-- Table 16.1 and the words written out in the spec's programs: one instruction for each format and each group, and the two
words of R311. -/
def Obligations.WordsDecode : Prop :=
  decodeWord 0x01291000#32 = some (.add 9 9 2) ∧ decodeWord 0x0442FFFF#32 = some (.addImm 2 2 (-1)) ∧
  decodeWord 0x50400004#32 = some (.beq 2 0 4) ∧ decodeWord 0x6BFFFFFD#32 = some (.jmp (-3)) ∧
  decodeWord 0x7183FFFE#32 = some (.strip 12 1 (-2)) ∧ decodeWord 0x4D210000#32 = some (.stD 9 1 0) ∧
  decodeWord 0x79255046#32 = some (.acas 9 5 10 0 1) ∧ decodeWord 0x7C0538C1#32 = some (.pub 5 7 3) ∧
  decodeWord 0x7C000043#32 = some (.fence 1) ∧ decodeWord 0x80104040#32 = some (.vadd 1 1 0 0 1 0) ∧
  decodeWord 0x94004000#32 = some (.vrsum 0 1 0 0) ∧ decodeWord 0x9E9FEA00#32 = some (.vqnt 41 63 42 0) ∧
  decodeWord 0xA2180243#32 = some (.cpix 33 32 1 1 3) ∧ decodeWord 0xB4101400#32 = some (.vbcast 1 10 0) ∧
  decodeWord 0xC2008000#32 = some (.vld 32 1 0) ∧ decodeWord 0xCA10C401#32 = some (.vstxO 33 1 34 0 0 0) ∧
  decodeWord 0xD2802900#32 = some (.mmr 40 5 1 0) ∧ decodeWord 0xD4500802#32 = some (.layout 5 2) ∧
  decodeWord 0xD4101C45#32 = some (.repf 1 0 7 8) ∧ decodeWord 0xE4060000#32 = some (.twall 6) ∧
  decodeWord 0xE9211803#32 = some (.srecv 9 1 3) ∧ decodeWord 0xF0050040#32 = some (.vfork 5 1) ∧
  decodeWord 0xF4000004#32 = some .halt ∧ decodeWord 0x00000000#32 = some (.add 0 0 0) ∧ decodeWord 0xFFFFFFFF#32 = none

/-- R309, R310, R311: the four bytes of every well-formed instruction decode to it, with every value its fields admit, and what
follows is left; and a word that decodes at all is the word of its instruction, which is well-formed: no bit is dropped, and
no two words name one instruction. -/
def Obligations.EncodingRoundTrip : Prop :=
  (∀ i w rest, i.wf = true → encode i = some w → decode (bytesOfWord w ++ rest) = .ok (i, rest)) ∧
  ∀ w i, decodeWord w = some i → i.wf = true ∧ encode i = some w

/-- R101, R86: an integer element of an arithmetic function is the exact result of the exact sources, its low bits without .sat and
the nearest value of the destination's range with .sat; a quotient truncates toward zero, a divisor of 0 gives 0 and raises
DZ, and nothing else raises a flag. -/
def Sys2Proof.Claims.IntegerElementsRule : Prop :=
  ∀ (e : RoundEnv) (x : ElemIn), x.fd.cls = .integer → x.fa.cls = .integer → x.fb.cls = .integer →
    let a := intValue x.fa x.a
    let b := intValue x.fb x.b
    let c := intValue x.fd x.c
    let out := fun (v : Int) => (v % 2 ^ x.fd.width).toNat
    let near := fun (v : Int) => if v < (intRange x.fd).1 then (intRange x.fd).1 else if (intRange x.fd).2 < v then (intRange x.fd).2 else v
    elemFn .add e false x = (out (a + b), 0) ∧ elemFn .sub e false x = (out (a - b), 0) ∧
    elemFn .mul e false x = (out (a * b), 0) ∧ elemFn .fma e false x = (out (a * b + c), 0) ∧
    elemFn .fms e false x = (out (a * b - c), 0) ∧
    elemFn .div e false x = (if b = 0 then 0 else out (a.tdiv b), if b = 0 then 0x08#5 else 0) ∧
    elemFn .min e false x = (out (if a ≤ b then a else b), 0) ∧ elemFn .max e false x = (out (if a ≤ b then b else a), 0) ∧
    elemFn .neg e false x = (out (-a), 0) ∧ elemFn .abs e false x = (out (if a < 0 then -a else a), 0) ∧
    elemFn .addSat e false x = (out (near (a + b)), 0) ∧ elemFn .subSat e false x = (out (near (a - b)), 0) ∧
    elemFn .mulSat e false x = (out (near (a * b)), 0)

/-- Integer elements and integer reductions in whole numbers. -/
def Obligations.IntegerResults : Prop :=
  Claims.IntegerElementsRule ∧ Claims.IntegerReductionsRule

/-- R84, R88, R85: a value that a float format holds is delivered to the format as its own code, in every rounding mode and with
no flag, signed zeros and infinities included; a NaN is delivered as the canonical NaN, and to E2M1 as +0 with NV. -/
def Sys2Proof.Claims.RepresentableValuesRule : Prop :=
  ∀ (f : Fmt) (c : Nat) (e : RoundEnv) (n : Word), f.cls = .float → c < 2 ^ f.width →
    ((∀ s, floatValue f c ≠ .nan s) → deliver (floatValue f c) f e n = (c, 0)) ∧
    (∀ s, deliver (.nan s) f e n = if f = .mxfp4 then (0, 0x10#5) else ((Machine.Fmt.nanCode f), 0)) ∧
    (f ≠ .mxfp4 → ∃ s, floatValue f (Machine.Fmt.nanCode f) = .nan s)

/-- What a float result is delivered as, and the arithmetic functions on float elements (R84, R85, R88 to R94, R98 to R100).
The model's choices that it rests on: assumptions 17, 63. -/
def Obligations.FloatResults : Prop :=
  Claims.DeliveriesRule ∧ Claims.FloatElementsRule ∧ Claims.RepresentableValuesRule

namespace Sys2Proof.Claims

/-- Keys strictly rise. -/
def Rising {α : Type} (m : Sparse α) : Prop := mapOkFrom (fun _ => true) 0 m = true

/-- A seat, or the image of a saved one: its plane and its accumulators list no zero, each once, its virtual processors stand in
the order of their lanes, every entry ends within the plane's columns, and MAXVL is at most 4096 (R56, R58, R62, R66, R119). -/
structure SeatTidy (q : Seat) : Prop where
  plane : mapWf 0#32 q.plane = true
  acc : mapWf 0#32 q.acc = true
  vps : ∀ f, q.fork = some f → Rising f.vps
  entries : ∀ e t, q.entry e = some t → InPlane t
  maxvl : q.sr.maxvl ≤ 4096

/-- Memory, seats, images and the units of the package stand in their canonical forms. -/
structure Tidy (s : State) : Prop where
  mem : Memory.wf s.mem = true
  seats : Rising s.seats
  cores : Rising s.cores
  quads : Rising s.quads
  pairs : Rising s.pairs
  dies : Rising s.dies
  hbm : Rising s.hbm
  tiles : Rising s.tiles
  seat : ∀ key q, s.seat key = some q → SeatTidy q
  image : ∀ l ∈ s.launches, ∀ n ∈ l.nodes, ∀ q, n.image = some q → SeatTidy q

end Sys2Proof.Claims

/-- Memory keeps its canonical form in every step: each byte is listed once, in the order of the addresses, and none that
holds what an unlisted byte reads as (assumption 3).
The model's choices that it rests on: assumption 3. -/
def Obligations.MemoryStaysCanonical : Prop :=
  ∀ s s', Memory.wf s.mem = true → step s = .next s' → Memory.wf s'.mem = true

/-- R56, R58, R62, R66, R119: every step keeps memory, the planes, the accumulators, the shape tables, MAXVL and the tables of the
package's units in their forms: what the statements about one instruction ask of its state holds along every run. -/
def Obligations.StateStaysTidy : Prop :=
  ∀ s s', Tidy s → step s = .next s' → Tidy s'

/-- R147, R148, R203: every step keeps the L1s in order: lines aligned, one for each address and kind, in the slice of their address,
and none dirty but of raw lines. -/
def Obligations.LinesStayOrderly : Prop :=
  ∀ s s', Tidy s → (∀ core, Orderly s core) → step s = .next s' → ∀ core, Orderly s' core

/-- R306, R38, Table 16.6, R163, R165, R275, R283: what reset leaves, in the values the spec gives: no seat is bound and nothing is
loaded; LIFE is 2000; every fleeting tile is expired; every pair has its 64 permits; CHAINPERM is 0x3F. -/
def Obligations.ResetState : Prop :=
  (∀ key, State.reset.seat key = none) ∧ (∀ ctx, State.reset.ctx ctx = none) ∧ State.reset.launches = [] ∧
  State.reset.devtime = 0 ∧ State.reset.pkg.stopped = false ∧
  (∀ d, (State.reset.die d).life = 2000 ∧ (State.reset.die d).hot = false ∧ (State.reset.die d).baro = none) ∧
  (∀ t, (State.reset.tile t).expd = true) ∧ (∀ c, (State.reset.core c).res = .empty ∧ (State.reset.core c).l1 = []) ∧
  (∀ p, (State.reset.pair p).permits = 64) ∧ (∀ k, (State.reset.quad k).chainperm = 0x3F#6 ∧ (State.reset.quad k).steps = 0)

/-- The forms that every step keeps hold after reset. -/
def Obligations.ResetTidy : Prop := Tidy State.reset ∧ ∀ core, Orderly State.reset core
end

