-- ==== Sys2Proof/Laws/State.lean ====
section
/-!
SUPPORT. Sys2Proof/Laws/State.lean: what each named update of the state and of a seat leaves in every field, true by
unfolding; so that no proof about an instruction unfolds a record update.
-/
namespace Sys2Proof.Machine

/-! ### Updates of the state -/

@[simp] theorem State.setCore_mem (s : State) (c : Nat) (x : Core) : (s.setCore c x).mem = s.mem := rfl
@[simp] theorem State.setCore_tiles (s : State) (c : Nat) (x : Core) : (s.setCore c x).tiles = s.tiles := rfl
@[simp] theorem State.setCore_llcExp (s : State) (c : Nat) (x : Core) : (s.setCore c x).llcExp = s.llcExp := rfl
@[simp] theorem State.setCore_cores (s : State) (c : Nat) (x : Core) : (s.setCore c x).cores = mapSet {} s.cores c x := rfl
@[simp] theorem State.setCore_seats (s : State) (c : Nat) (x : Core) : (s.setCore c x).seats = s.seats := rfl
@[simp] theorem State.setCore_ctxs (s : State) (c : Nat) (x : Core) : (s.setCore c x).ctxs = s.ctxs := rfl
@[simp] theorem State.setCore_vis (s : State) (c : Nat) (x : Core) : (s.setCore c x).vis = s.vis := rfl
@[simp] theorem State.setCore_launches (s : State) (c : Nat) (x : Core) : (s.setCore c x).launches = s.launches := rfl
@[simp] theorem State.setCore_streams (s : State) (c : Nat) (x : Core) : (s.setCore c x).streams = s.streams := rfl
@[simp] theorem State.setCore_colls (s : State) (c : Nat) (x : Core) : (s.setCore c x).colls = s.colls := rfl
@[simp] theorem State.setCore_quads (s : State) (c : Nat) (x : Core) : (s.setCore c x).quads = s.quads := rfl
@[simp] theorem State.setCore_pairs (s : State) (c : Nat) (x : Core) : (s.setCore c x).pairs = s.pairs := rfl
@[simp] theorem State.setCore_dies (s : State) (c : Nat) (x : Core) : (s.setCore c x).dies = s.dies := rfl
@[simp] theorem State.setCore_hbm (s : State) (c : Nat) (x : Core) : (s.setCore c x).hbm = s.hbm := rfl
@[simp] theorem State.setCore_frrs (s : State) (c : Nat) (x : Core) : (s.setCore c x).frrs = s.frrs := rfl
@[simp] theorem State.setCore_pkg (s : State) (c : Nat) (x : Core) : (s.setCore c x).pkg = s.pkg := rfl
@[simp] theorem State.setCore_migs (s : State) (c : Nat) (x : Core) : (s.setCore c x).migs = s.migs := rfl
@[simp] theorem State.setCore_frames (s : State) (c : Nat) (x : Core) : (s.setCore c x).frames = s.frames := rfl
@[simp] theorem State.setCore_holds (s : State) (c : Nat) (x : Core) : (s.setCore c x).holds = s.holds := rfl
@[simp] theorem State.setCore_binds (s : State) (c : Nat) (x : Core) : (s.setCore c x).binds = s.binds := rfl
@[simp] theorem State.setCore_epoch (s : State) (c : Nat) (x : Core) : (s.setCore c x).epoch = s.epoch := rfl
@[simp] theorem State.setCore_devtime (s : State) (c : Nat) (x : Core) : (s.setCore c x).devtime = s.devtime := rfl
@[simp] theorem State.setCore_out (s : State) (c : Nat) (x : Core) : (s.setCore c x).out = s.out := rfl
@[simp] theorem State.setCore_thr (s : State) (c : Nat) (x : Core) : (s.setCore c x).thr = s.thr := rfl
@[simp] theorem State.setCore_hold (s : State) (c : Nat) (x : Core) : (s.setCore c x).hold = s.hold := rfl
@[simp] theorem State.setCore_agenda (s : State) (c : Nat) (x : Core) : (s.setCore c x).agenda = s.agenda := rfl
@[simp] theorem State.setCore_freeN (s : State) (c : Nat) (x : Core) : (s.setCore c x).freeN = s.freeN := rfl

@[simp] theorem State.setQuad_mem (s : State) (k : Nat) (x : Quad) : (s.setQuad k x).mem = s.mem := rfl
@[simp] theorem State.setQuad_tiles (s : State) (k : Nat) (x : Quad) : (s.setQuad k x).tiles = s.tiles := rfl
@[simp] theorem State.setQuad_llcExp (s : State) (k : Nat) (x : Quad) : (s.setQuad k x).llcExp = s.llcExp := rfl
@[simp] theorem State.setQuad_cores (s : State) (k : Nat) (x : Quad) : (s.setQuad k x).cores = s.cores := rfl
@[simp] theorem State.setQuad_seats (s : State) (k : Nat) (x : Quad) : (s.setQuad k x).seats = s.seats := rfl
@[simp] theorem State.setQuad_ctxs (s : State) (k : Nat) (x : Quad) : (s.setQuad k x).ctxs = s.ctxs := rfl
@[simp] theorem State.setQuad_vis (s : State) (k : Nat) (x : Quad) : (s.setQuad k x).vis = s.vis := rfl
@[simp] theorem State.setQuad_launches (s : State) (k : Nat) (x : Quad) : (s.setQuad k x).launches = s.launches := rfl
@[simp] theorem State.setQuad_streams (s : State) (k : Nat) (x : Quad) : (s.setQuad k x).streams = s.streams := rfl
@[simp] theorem State.setQuad_colls (s : State) (k : Nat) (x : Quad) : (s.setQuad k x).colls = s.colls := rfl
@[simp] theorem State.setQuad_quads (s : State) (k : Nat) (x : Quad) : (s.setQuad k x).quads = mapSet {} s.quads k x := rfl
@[simp] theorem State.setQuad_pairs (s : State) (k : Nat) (x : Quad) : (s.setQuad k x).pairs = s.pairs := rfl
@[simp] theorem State.setQuad_dies (s : State) (k : Nat) (x : Quad) : (s.setQuad k x).dies = s.dies := rfl
@[simp] theorem State.setQuad_hbm (s : State) (k : Nat) (x : Quad) : (s.setQuad k x).hbm = s.hbm := rfl
@[simp] theorem State.setQuad_frrs (s : State) (k : Nat) (x : Quad) : (s.setQuad k x).frrs = s.frrs := rfl
@[simp] theorem State.setQuad_pkg (s : State) (k : Nat) (x : Quad) : (s.setQuad k x).pkg = s.pkg := rfl
@[simp] theorem State.setQuad_migs (s : State) (k : Nat) (x : Quad) : (s.setQuad k x).migs = s.migs := rfl
@[simp] theorem State.setQuad_frames (s : State) (k : Nat) (x : Quad) : (s.setQuad k x).frames = s.frames := rfl
@[simp] theorem State.setQuad_holds (s : State) (k : Nat) (x : Quad) : (s.setQuad k x).holds = s.holds := rfl
@[simp] theorem State.setQuad_binds (s : State) (k : Nat) (x : Quad) : (s.setQuad k x).binds = s.binds := rfl
@[simp] theorem State.setQuad_epoch (s : State) (k : Nat) (x : Quad) : (s.setQuad k x).epoch = s.epoch := rfl
@[simp] theorem State.setQuad_devtime (s : State) (k : Nat) (x : Quad) : (s.setQuad k x).devtime = s.devtime := rfl
@[simp] theorem State.setQuad_out (s : State) (k : Nat) (x : Quad) : (s.setQuad k x).out = s.out := rfl
@[simp] theorem State.setQuad_thr (s : State) (k : Nat) (x : Quad) : (s.setQuad k x).thr = s.thr := rfl
@[simp] theorem State.setQuad_hold (s : State) (k : Nat) (x : Quad) : (s.setQuad k x).hold = s.hold := rfl
@[simp] theorem State.setQuad_agenda (s : State) (k : Nat) (x : Quad) : (s.setQuad k x).agenda = s.agenda := rfl
@[simp] theorem State.setQuad_freeN (s : State) (k : Nat) (x : Quad) : (s.setQuad k x).freeN = s.freeN := rfl

@[simp] theorem State.setPair_mem (s : State) (k : Nat) (x : Pair) : (s.setPair k x).mem = s.mem := rfl
@[simp] theorem State.setPair_tiles (s : State) (k : Nat) (x : Pair) : (s.setPair k x).tiles = s.tiles := rfl
@[simp] theorem State.setPair_llcExp (s : State) (k : Nat) (x : Pair) : (s.setPair k x).llcExp = s.llcExp := rfl
@[simp] theorem State.setPair_cores (s : State) (k : Nat) (x : Pair) : (s.setPair k x).cores = s.cores := rfl
@[simp] theorem State.setPair_seats (s : State) (k : Nat) (x : Pair) : (s.setPair k x).seats = s.seats := rfl
@[simp] theorem State.setPair_ctxs (s : State) (k : Nat) (x : Pair) : (s.setPair k x).ctxs = s.ctxs := rfl
@[simp] theorem State.setPair_vis (s : State) (k : Nat) (x : Pair) : (s.setPair k x).vis = s.vis := rfl
@[simp] theorem State.setPair_launches (s : State) (k : Nat) (x : Pair) : (s.setPair k x).launches = s.launches := rfl
@[simp] theorem State.setPair_streams (s : State) (k : Nat) (x : Pair) : (s.setPair k x).streams = s.streams := rfl
@[simp] theorem State.setPair_colls (s : State) (k : Nat) (x : Pair) : (s.setPair k x).colls = s.colls := rfl
@[simp] theorem State.setPair_quads (s : State) (k : Nat) (x : Pair) : (s.setPair k x).quads = s.quads := rfl
@[simp] theorem State.setPair_pairs (s : State) (k : Nat) (x : Pair) : (s.setPair k x).pairs = mapSet {} s.pairs k x := rfl
@[simp] theorem State.setPair_dies (s : State) (k : Nat) (x : Pair) : (s.setPair k x).dies = s.dies := rfl
@[simp] theorem State.setPair_hbm (s : State) (k : Nat) (x : Pair) : (s.setPair k x).hbm = s.hbm := rfl
@[simp] theorem State.setPair_frrs (s : State) (k : Nat) (x : Pair) : (s.setPair k x).frrs = s.frrs := rfl
@[simp] theorem State.setPair_pkg (s : State) (k : Nat) (x : Pair) : (s.setPair k x).pkg = s.pkg := rfl
@[simp] theorem State.setPair_migs (s : State) (k : Nat) (x : Pair) : (s.setPair k x).migs = s.migs := rfl
@[simp] theorem State.setPair_frames (s : State) (k : Nat) (x : Pair) : (s.setPair k x).frames = s.frames := rfl
@[simp] theorem State.setPair_holds (s : State) (k : Nat) (x : Pair) : (s.setPair k x).holds = s.holds := rfl
@[simp] theorem State.setPair_binds (s : State) (k : Nat) (x : Pair) : (s.setPair k x).binds = s.binds := rfl
@[simp] theorem State.setPair_epoch (s : State) (k : Nat) (x : Pair) : (s.setPair k x).epoch = s.epoch := rfl
@[simp] theorem State.setPair_devtime (s : State) (k : Nat) (x : Pair) : (s.setPair k x).devtime = s.devtime := rfl
@[simp] theorem State.setPair_out (s : State) (k : Nat) (x : Pair) : (s.setPair k x).out = s.out := rfl
@[simp] theorem State.setPair_thr (s : State) (k : Nat) (x : Pair) : (s.setPair k x).thr = s.thr := rfl
@[simp] theorem State.setPair_hold (s : State) (k : Nat) (x : Pair) : (s.setPair k x).hold = s.hold := rfl
@[simp] theorem State.setPair_agenda (s : State) (k : Nat) (x : Pair) : (s.setPair k x).agenda = s.agenda := rfl
@[simp] theorem State.setPair_freeN (s : State) (k : Nat) (x : Pair) : (s.setPair k x).freeN = s.freeN := rfl

@[simp] theorem State.setDie_mem (s : State) (k : Nat) (x : Die) : (s.setDie k x).mem = s.mem := rfl
@[simp] theorem State.setDie_tiles (s : State) (k : Nat) (x : Die) : (s.setDie k x).tiles = s.tiles := rfl
@[simp] theorem State.setDie_llcExp (s : State) (k : Nat) (x : Die) : (s.setDie k x).llcExp = s.llcExp := rfl
@[simp] theorem State.setDie_cores (s : State) (k : Nat) (x : Die) : (s.setDie k x).cores = s.cores := rfl
@[simp] theorem State.setDie_seats (s : State) (k : Nat) (x : Die) : (s.setDie k x).seats = s.seats := rfl
@[simp] theorem State.setDie_ctxs (s : State) (k : Nat) (x : Die) : (s.setDie k x).ctxs = s.ctxs := rfl
@[simp] theorem State.setDie_vis (s : State) (k : Nat) (x : Die) : (s.setDie k x).vis = s.vis := rfl
@[simp] theorem State.setDie_launches (s : State) (k : Nat) (x : Die) : (s.setDie k x).launches = s.launches := rfl
@[simp] theorem State.setDie_streams (s : State) (k : Nat) (x : Die) : (s.setDie k x).streams = s.streams := rfl
@[simp] theorem State.setDie_colls (s : State) (k : Nat) (x : Die) : (s.setDie k x).colls = s.colls := rfl
@[simp] theorem State.setDie_quads (s : State) (k : Nat) (x : Die) : (s.setDie k x).quads = s.quads := rfl
@[simp] theorem State.setDie_pairs (s : State) (k : Nat) (x : Die) : (s.setDie k x).pairs = s.pairs := rfl
@[simp] theorem State.setDie_dies (s : State) (k : Nat) (x : Die) : (s.setDie k x).dies = mapSet {} s.dies k x := rfl
@[simp] theorem State.setDie_hbm (s : State) (k : Nat) (x : Die) : (s.setDie k x).hbm = s.hbm := rfl
@[simp] theorem State.setDie_frrs (s : State) (k : Nat) (x : Die) : (s.setDie k x).frrs = s.frrs := rfl
@[simp] theorem State.setDie_pkg (s : State) (k : Nat) (x : Die) : (s.setDie k x).pkg = s.pkg := rfl
@[simp] theorem State.setDie_migs (s : State) (k : Nat) (x : Die) : (s.setDie k x).migs = s.migs := rfl
@[simp] theorem State.setDie_frames (s : State) (k : Nat) (x : Die) : (s.setDie k x).frames = s.frames := rfl
@[simp] theorem State.setDie_holds (s : State) (k : Nat) (x : Die) : (s.setDie k x).holds = s.holds := rfl
@[simp] theorem State.setDie_binds (s : State) (k : Nat) (x : Die) : (s.setDie k x).binds = s.binds := rfl
@[simp] theorem State.setDie_epoch (s : State) (k : Nat) (x : Die) : (s.setDie k x).epoch = s.epoch := rfl
@[simp] theorem State.setDie_devtime (s : State) (k : Nat) (x : Die) : (s.setDie k x).devtime = s.devtime := rfl
@[simp] theorem State.setDie_out (s : State) (k : Nat) (x : Die) : (s.setDie k x).out = s.out := rfl
@[simp] theorem State.setDie_thr (s : State) (k : Nat) (x : Die) : (s.setDie k x).thr = s.thr := rfl
@[simp] theorem State.setDie_hold (s : State) (k : Nat) (x : Die) : (s.setDie k x).hold = s.hold := rfl
@[simp] theorem State.setDie_agenda (s : State) (k : Nat) (x : Die) : (s.setDie k x).agenda = s.agenda := rfl
@[simp] theorem State.setDie_freeN (s : State) (k : Nat) (x : Die) : (s.setDie k x).freeN = s.freeN := rfl

@[simp] theorem State.setStack_mem (s : State) (k : Nat) (x : Stack) : (s.setStack k x).mem = s.mem := rfl
@[simp] theorem State.setStack_tiles (s : State) (k : Nat) (x : Stack) : (s.setStack k x).tiles = s.tiles := rfl
@[simp] theorem State.setStack_llcExp (s : State) (k : Nat) (x : Stack) : (s.setStack k x).llcExp = s.llcExp := rfl
@[simp] theorem State.setStack_cores (s : State) (k : Nat) (x : Stack) : (s.setStack k x).cores = s.cores := rfl
@[simp] theorem State.setStack_seats (s : State) (k : Nat) (x : Stack) : (s.setStack k x).seats = s.seats := rfl
@[simp] theorem State.setStack_ctxs (s : State) (k : Nat) (x : Stack) : (s.setStack k x).ctxs = s.ctxs := rfl
@[simp] theorem State.setStack_vis (s : State) (k : Nat) (x : Stack) : (s.setStack k x).vis = s.vis := rfl
@[simp] theorem State.setStack_launches (s : State) (k : Nat) (x : Stack) : (s.setStack k x).launches = s.launches := rfl
@[simp] theorem State.setStack_streams (s : State) (k : Nat) (x : Stack) : (s.setStack k x).streams = s.streams := rfl
@[simp] theorem State.setStack_colls (s : State) (k : Nat) (x : Stack) : (s.setStack k x).colls = s.colls := rfl
@[simp] theorem State.setStack_quads (s : State) (k : Nat) (x : Stack) : (s.setStack k x).quads = s.quads := rfl
@[simp] theorem State.setStack_pairs (s : State) (k : Nat) (x : Stack) : (s.setStack k x).pairs = s.pairs := rfl
@[simp] theorem State.setStack_dies (s : State) (k : Nat) (x : Stack) : (s.setStack k x).dies = s.dies := rfl
@[simp] theorem State.setStack_hbm (s : State) (k : Nat) (x : Stack) : (s.setStack k x).hbm = mapSet {} s.hbm k x := rfl
@[simp] theorem State.setStack_frrs (s : State) (k : Nat) (x : Stack) : (s.setStack k x).frrs = s.frrs := rfl
@[simp] theorem State.setStack_pkg (s : State) (k : Nat) (x : Stack) : (s.setStack k x).pkg = s.pkg := rfl
@[simp] theorem State.setStack_migs (s : State) (k : Nat) (x : Stack) : (s.setStack k x).migs = s.migs := rfl
@[simp] theorem State.setStack_frames (s : State) (k : Nat) (x : Stack) : (s.setStack k x).frames = s.frames := rfl
@[simp] theorem State.setStack_holds (s : State) (k : Nat) (x : Stack) : (s.setStack k x).holds = s.holds := rfl
@[simp] theorem State.setStack_binds (s : State) (k : Nat) (x : Stack) : (s.setStack k x).binds = s.binds := rfl
@[simp] theorem State.setStack_epoch (s : State) (k : Nat) (x : Stack) : (s.setStack k x).epoch = s.epoch := rfl
@[simp] theorem State.setStack_devtime (s : State) (k : Nat) (x : Stack) : (s.setStack k x).devtime = s.devtime := rfl
@[simp] theorem State.setStack_out (s : State) (k : Nat) (x : Stack) : (s.setStack k x).out = s.out := rfl
@[simp] theorem State.setStack_thr (s : State) (k : Nat) (x : Stack) : (s.setStack k x).thr = s.thr := rfl
@[simp] theorem State.setStack_hold (s : State) (k : Nat) (x : Stack) : (s.setStack k x).hold = s.hold := rfl
@[simp] theorem State.setStack_agenda (s : State) (k : Nat) (x : Stack) : (s.setStack k x).agenda = s.agenda := rfl
@[simp] theorem State.setStack_freeN (s : State) (k : Nat) (x : Stack) : (s.setStack k x).freeN = s.freeN := rfl

@[simp] theorem State.setTile_mem (s : State) (k : Nat) (x : FTile) : (s.setTile k x).mem = s.mem := rfl
@[simp] theorem State.setTile_tiles (s : State) (k : Nat) (x : FTile) : (s.setTile k x).tiles = mapSet {} s.tiles k x := rfl
@[simp] theorem State.setTile_llcExp (s : State) (k : Nat) (x : FTile) : (s.setTile k x).llcExp = s.llcExp := rfl
@[simp] theorem State.setTile_cores (s : State) (k : Nat) (x : FTile) : (s.setTile k x).cores = s.cores := rfl
@[simp] theorem State.setTile_seats (s : State) (k : Nat) (x : FTile) : (s.setTile k x).seats = s.seats := rfl
@[simp] theorem State.setTile_ctxs (s : State) (k : Nat) (x : FTile) : (s.setTile k x).ctxs = s.ctxs := rfl
@[simp] theorem State.setTile_vis (s : State) (k : Nat) (x : FTile) : (s.setTile k x).vis = s.vis := rfl
@[simp] theorem State.setTile_launches (s : State) (k : Nat) (x : FTile) : (s.setTile k x).launches = s.launches := rfl
@[simp] theorem State.setTile_streams (s : State) (k : Nat) (x : FTile) : (s.setTile k x).streams = s.streams := rfl
@[simp] theorem State.setTile_colls (s : State) (k : Nat) (x : FTile) : (s.setTile k x).colls = s.colls := rfl
@[simp] theorem State.setTile_quads (s : State) (k : Nat) (x : FTile) : (s.setTile k x).quads = s.quads := rfl
@[simp] theorem State.setTile_pairs (s : State) (k : Nat) (x : FTile) : (s.setTile k x).pairs = s.pairs := rfl
@[simp] theorem State.setTile_dies (s : State) (k : Nat) (x : FTile) : (s.setTile k x).dies = s.dies := rfl
@[simp] theorem State.setTile_hbm (s : State) (k : Nat) (x : FTile) : (s.setTile k x).hbm = s.hbm := rfl
@[simp] theorem State.setTile_frrs (s : State) (k : Nat) (x : FTile) : (s.setTile k x).frrs = s.frrs := rfl
@[simp] theorem State.setTile_pkg (s : State) (k : Nat) (x : FTile) : (s.setTile k x).pkg = s.pkg := rfl
@[simp] theorem State.setTile_migs (s : State) (k : Nat) (x : FTile) : (s.setTile k x).migs = s.migs := rfl
@[simp] theorem State.setTile_frames (s : State) (k : Nat) (x : FTile) : (s.setTile k x).frames = s.frames := rfl
@[simp] theorem State.setTile_holds (s : State) (k : Nat) (x : FTile) : (s.setTile k x).holds = s.holds := rfl
@[simp] theorem State.setTile_binds (s : State) (k : Nat) (x : FTile) : (s.setTile k x).binds = s.binds := rfl
@[simp] theorem State.setTile_epoch (s : State) (k : Nat) (x : FTile) : (s.setTile k x).epoch = s.epoch := rfl
@[simp] theorem State.setTile_devtime (s : State) (k : Nat) (x : FTile) : (s.setTile k x).devtime = s.devtime := rfl
@[simp] theorem State.setTile_out (s : State) (k : Nat) (x : FTile) : (s.setTile k x).out = s.out := rfl
@[simp] theorem State.setTile_thr (s : State) (k : Nat) (x : FTile) : (s.setTile k x).thr = s.thr := rfl
@[simp] theorem State.setTile_hold (s : State) (k : Nat) (x : FTile) : (s.setTile k x).hold = s.hold := rfl
@[simp] theorem State.setTile_agenda (s : State) (k : Nat) (x : FTile) : (s.setTile k x).agenda = s.agenda := rfl
@[simp] theorem State.setTile_freeN (s : State) (k : Nat) (x : FTile) : (s.setTile k x).freeN = s.freeN := rfl

@[simp] theorem State.setSeat_mem (s : State) (k : Nat) (q : Seat) : (s.setSeat k q).mem = s.mem := rfl
@[simp] theorem State.setSeat_tiles (s : State) (k : Nat) (q : Seat) : (s.setSeat k q).tiles = s.tiles := rfl
@[simp] theorem State.setSeat_llcExp (s : State) (k : Nat) (q : Seat) : (s.setSeat k q).llcExp = s.llcExp := rfl
@[simp] theorem State.setSeat_cores (s : State) (k : Nat) (q : Seat) : (s.setSeat k q).cores = s.cores := rfl
@[simp] theorem State.setSeat_seats (s : State) (k : Nat) (q : Seat) : (s.setSeat k q).seats = mapInsert s.seats k q := rfl
@[simp] theorem State.setSeat_ctxs (s : State) (k : Nat) (q : Seat) : (s.setSeat k q).ctxs = s.ctxs := rfl
@[simp] theorem State.setSeat_vis (s : State) (k : Nat) (q : Seat) : (s.setSeat k q).vis = s.vis := rfl
@[simp] theorem State.setSeat_launches (s : State) (k : Nat) (q : Seat) : (s.setSeat k q).launches = s.launches := rfl
@[simp] theorem State.setSeat_streams (s : State) (k : Nat) (q : Seat) : (s.setSeat k q).streams = s.streams := rfl
@[simp] theorem State.setSeat_colls (s : State) (k : Nat) (q : Seat) : (s.setSeat k q).colls = s.colls := rfl
@[simp] theorem State.setSeat_quads (s : State) (k : Nat) (q : Seat) : (s.setSeat k q).quads = s.quads := rfl
@[simp] theorem State.setSeat_pairs (s : State) (k : Nat) (q : Seat) : (s.setSeat k q).pairs = s.pairs := rfl
@[simp] theorem State.setSeat_dies (s : State) (k : Nat) (q : Seat) : (s.setSeat k q).dies = s.dies := rfl
@[simp] theorem State.setSeat_hbm (s : State) (k : Nat) (q : Seat) : (s.setSeat k q).hbm = s.hbm := rfl
@[simp] theorem State.setSeat_frrs (s : State) (k : Nat) (q : Seat) : (s.setSeat k q).frrs = s.frrs := rfl
@[simp] theorem State.setSeat_pkg (s : State) (k : Nat) (q : Seat) : (s.setSeat k q).pkg = s.pkg := rfl
@[simp] theorem State.setSeat_migs (s : State) (k : Nat) (q : Seat) : (s.setSeat k q).migs = s.migs := rfl
@[simp] theorem State.setSeat_frames (s : State) (k : Nat) (q : Seat) : (s.setSeat k q).frames = s.frames := rfl
@[simp] theorem State.setSeat_holds (s : State) (k : Nat) (q : Seat) : (s.setSeat k q).holds = s.holds := rfl
@[simp] theorem State.setSeat_binds (s : State) (k : Nat) (q : Seat) : (s.setSeat k q).binds = s.binds := rfl
@[simp] theorem State.setSeat_epoch (s : State) (k : Nat) (q : Seat) : (s.setSeat k q).epoch = s.epoch := rfl
@[simp] theorem State.setSeat_devtime (s : State) (k : Nat) (q : Seat) : (s.setSeat k q).devtime = s.devtime := rfl
@[simp] theorem State.setSeat_out (s : State) (k : Nat) (q : Seat) : (s.setSeat k q).out = s.out := rfl
@[simp] theorem State.setSeat_thr (s : State) (k : Nat) (q : Seat) : (s.setSeat k q).thr = s.thr := rfl
@[simp] theorem State.setSeat_hold (s : State) (k : Nat) (q : Seat) : (s.setSeat k q).hold = s.hold := rfl
@[simp] theorem State.setSeat_agenda (s : State) (k : Nat) (q : Seat) : (s.setSeat k q).agenda = s.agenda := rfl
@[simp] theorem State.setSeat_freeN (s : State) (k : Nat) (q : Seat) : (s.setSeat k q).freeN = s.freeN := rfl

@[simp] theorem State.dropSeat_mem (s : State) (k : Nat) : (s.dropSeat k).mem = s.mem := rfl
@[simp] theorem State.dropSeat_tiles (s : State) (k : Nat) : (s.dropSeat k).tiles = s.tiles := rfl
@[simp] theorem State.dropSeat_llcExp (s : State) (k : Nat) : (s.dropSeat k).llcExp = s.llcExp := rfl
@[simp] theorem State.dropSeat_cores (s : State) (k : Nat) : (s.dropSeat k).cores = s.cores := rfl
@[simp] theorem State.dropSeat_seats (s : State) (k : Nat) : (s.dropSeat k).seats = mapErase s.seats k := rfl
@[simp] theorem State.dropSeat_ctxs (s : State) (k : Nat) : (s.dropSeat k).ctxs = s.ctxs := rfl
@[simp] theorem State.dropSeat_vis (s : State) (k : Nat) : (s.dropSeat k).vis = s.vis := rfl
@[simp] theorem State.dropSeat_launches (s : State) (k : Nat) : (s.dropSeat k).launches = s.launches := rfl
@[simp] theorem State.dropSeat_streams (s : State) (k : Nat) : (s.dropSeat k).streams = s.streams := rfl
@[simp] theorem State.dropSeat_colls (s : State) (k : Nat) : (s.dropSeat k).colls = s.colls := rfl
@[simp] theorem State.dropSeat_quads (s : State) (k : Nat) : (s.dropSeat k).quads = s.quads := rfl
@[simp] theorem State.dropSeat_pairs (s : State) (k : Nat) : (s.dropSeat k).pairs = s.pairs := rfl
@[simp] theorem State.dropSeat_dies (s : State) (k : Nat) : (s.dropSeat k).dies = s.dies := rfl
@[simp] theorem State.dropSeat_hbm (s : State) (k : Nat) : (s.dropSeat k).hbm = s.hbm := rfl
@[simp] theorem State.dropSeat_frrs (s : State) (k : Nat) : (s.dropSeat k).frrs = s.frrs := rfl
@[simp] theorem State.dropSeat_pkg (s : State) (k : Nat) : (s.dropSeat k).pkg = s.pkg := rfl
@[simp] theorem State.dropSeat_migs (s : State) (k : Nat) : (s.dropSeat k).migs = s.migs := rfl
@[simp] theorem State.dropSeat_frames (s : State) (k : Nat) : (s.dropSeat k).frames = s.frames := rfl
@[simp] theorem State.dropSeat_holds (s : State) (k : Nat) : (s.dropSeat k).holds = s.holds := rfl
@[simp] theorem State.dropSeat_binds (s : State) (k : Nat) : (s.dropSeat k).binds = s.binds := rfl
@[simp] theorem State.dropSeat_epoch (s : State) (k : Nat) : (s.dropSeat k).epoch = s.epoch := rfl
@[simp] theorem State.dropSeat_devtime (s : State) (k : Nat) : (s.dropSeat k).devtime = s.devtime := rfl
@[simp] theorem State.dropSeat_out (s : State) (k : Nat) : (s.dropSeat k).out = s.out := rfl
@[simp] theorem State.dropSeat_thr (s : State) (k : Nat) : (s.dropSeat k).thr = s.thr := rfl
@[simp] theorem State.dropSeat_hold (s : State) (k : Nat) : (s.dropSeat k).hold = s.hold := rfl
@[simp] theorem State.dropSeat_agenda (s : State) (k : Nat) : (s.dropSeat k).agenda = s.agenda := rfl
@[simp] theorem State.dropSeat_freeN (s : State) (k : Nat) : (s.dropSeat k).freeN = s.freeN := rfl

@[simp] theorem State.setCtx_mem (s : State) (c : Nat) (x : Ctx) : (s.setCtx c x).mem = s.mem := rfl
@[simp] theorem State.setCtx_tiles (s : State) (c : Nat) (x : Ctx) : (s.setCtx c x).tiles = s.tiles := rfl
@[simp] theorem State.setCtx_llcExp (s : State) (c : Nat) (x : Ctx) : (s.setCtx c x).llcExp = s.llcExp := rfl
@[simp] theorem State.setCtx_cores (s : State) (c : Nat) (x : Ctx) : (s.setCtx c x).cores = s.cores := rfl
@[simp] theorem State.setCtx_seats (s : State) (c : Nat) (x : Ctx) : (s.setCtx c x).seats = s.seats := rfl
@[simp] theorem State.setCtx_ctxs (s : State) (c : Nat) (x : Ctx) : (s.setCtx c x).ctxs = mapInsert s.ctxs c x := rfl
@[simp] theorem State.setCtx_vis (s : State) (c : Nat) (x : Ctx) : (s.setCtx c x).vis = s.vis := rfl
@[simp] theorem State.setCtx_launches (s : State) (c : Nat) (x : Ctx) : (s.setCtx c x).launches = s.launches := rfl
@[simp] theorem State.setCtx_streams (s : State) (c : Nat) (x : Ctx) : (s.setCtx c x).streams = s.streams := rfl
@[simp] theorem State.setCtx_colls (s : State) (c : Nat) (x : Ctx) : (s.setCtx c x).colls = s.colls := rfl
@[simp] theorem State.setCtx_quads (s : State) (c : Nat) (x : Ctx) : (s.setCtx c x).quads = s.quads := rfl
@[simp] theorem State.setCtx_pairs (s : State) (c : Nat) (x : Ctx) : (s.setCtx c x).pairs = s.pairs := rfl
@[simp] theorem State.setCtx_dies (s : State) (c : Nat) (x : Ctx) : (s.setCtx c x).dies = s.dies := rfl
@[simp] theorem State.setCtx_hbm (s : State) (c : Nat) (x : Ctx) : (s.setCtx c x).hbm = s.hbm := rfl
@[simp] theorem State.setCtx_frrs (s : State) (c : Nat) (x : Ctx) : (s.setCtx c x).frrs = s.frrs := rfl
@[simp] theorem State.setCtx_pkg (s : State) (c : Nat) (x : Ctx) : (s.setCtx c x).pkg = s.pkg := rfl
@[simp] theorem State.setCtx_migs (s : State) (c : Nat) (x : Ctx) : (s.setCtx c x).migs = s.migs := rfl
@[simp] theorem State.setCtx_frames (s : State) (c : Nat) (x : Ctx) : (s.setCtx c x).frames = s.frames := rfl
@[simp] theorem State.setCtx_holds (s : State) (c : Nat) (x : Ctx) : (s.setCtx c x).holds = s.holds := rfl
@[simp] theorem State.setCtx_binds (s : State) (c : Nat) (x : Ctx) : (s.setCtx c x).binds = s.binds := rfl
@[simp] theorem State.setCtx_epoch (s : State) (c : Nat) (x : Ctx) : (s.setCtx c x).epoch = s.epoch := rfl
@[simp] theorem State.setCtx_devtime (s : State) (c : Nat) (x : Ctx) : (s.setCtx c x).devtime = s.devtime := rfl
@[simp] theorem State.setCtx_out (s : State) (c : Nat) (x : Ctx) : (s.setCtx c x).out = s.out := rfl
@[simp] theorem State.setCtx_thr (s : State) (c : Nat) (x : Ctx) : (s.setCtx c x).thr = s.thr := rfl
@[simp] theorem State.setCtx_hold (s : State) (c : Nat) (x : Ctx) : (s.setCtx c x).hold = s.hold := rfl
@[simp] theorem State.setCtx_agenda (s : State) (c : Nat) (x : Ctx) : (s.setCtx c x).agenda = s.agenda := rfl
@[simp] theorem State.setCtx_freeN (s : State) (c : Nat) (x : Ctx) : (s.setCtx c x).freeN = s.freeN := rfl

@[simp] theorem State.setStream_mem (s : State) (k : Nat) (x : Stream) : (s.setStream k x).mem = s.mem := rfl
@[simp] theorem State.setStream_tiles (s : State) (k : Nat) (x : Stream) : (s.setStream k x).tiles = s.tiles := rfl
@[simp] theorem State.setStream_llcExp (s : State) (k : Nat) (x : Stream) : (s.setStream k x).llcExp = s.llcExp := rfl
@[simp] theorem State.setStream_cores (s : State) (k : Nat) (x : Stream) : (s.setStream k x).cores = s.cores := rfl
@[simp] theorem State.setStream_seats (s : State) (k : Nat) (x : Stream) : (s.setStream k x).seats = s.seats := rfl
@[simp] theorem State.setStream_ctxs (s : State) (k : Nat) (x : Stream) : (s.setStream k x).ctxs = s.ctxs := rfl
@[simp] theorem State.setStream_vis (s : State) (k : Nat) (x : Stream) : (s.setStream k x).vis = s.vis := rfl
@[simp] theorem State.setStream_launches (s : State) (k : Nat) (x : Stream) : (s.setStream k x).launches = s.launches := rfl
@[simp] theorem State.setStream_streams (s : State) (k : Nat) (x : Stream) : (s.setStream k x).streams = mapInsert s.streams k x := rfl
@[simp] theorem State.setStream_colls (s : State) (k : Nat) (x : Stream) : (s.setStream k x).colls = s.colls := rfl
@[simp] theorem State.setStream_quads (s : State) (k : Nat) (x : Stream) : (s.setStream k x).quads = s.quads := rfl
@[simp] theorem State.setStream_pairs (s : State) (k : Nat) (x : Stream) : (s.setStream k x).pairs = s.pairs := rfl
@[simp] theorem State.setStream_dies (s : State) (k : Nat) (x : Stream) : (s.setStream k x).dies = s.dies := rfl
@[simp] theorem State.setStream_hbm (s : State) (k : Nat) (x : Stream) : (s.setStream k x).hbm = s.hbm := rfl
@[simp] theorem State.setStream_frrs (s : State) (k : Nat) (x : Stream) : (s.setStream k x).frrs = s.frrs := rfl
@[simp] theorem State.setStream_pkg (s : State) (k : Nat) (x : Stream) : (s.setStream k x).pkg = s.pkg := rfl
@[simp] theorem State.setStream_migs (s : State) (k : Nat) (x : Stream) : (s.setStream k x).migs = s.migs := rfl
@[simp] theorem State.setStream_frames (s : State) (k : Nat) (x : Stream) : (s.setStream k x).frames = s.frames := rfl
@[simp] theorem State.setStream_holds (s : State) (k : Nat) (x : Stream) : (s.setStream k x).holds = s.holds := rfl
@[simp] theorem State.setStream_binds (s : State) (k : Nat) (x : Stream) : (s.setStream k x).binds = s.binds := rfl
@[simp] theorem State.setStream_epoch (s : State) (k : Nat) (x : Stream) : (s.setStream k x).epoch = s.epoch := rfl
@[simp] theorem State.setStream_devtime (s : State) (k : Nat) (x : Stream) : (s.setStream k x).devtime = s.devtime := rfl
@[simp] theorem State.setStream_out (s : State) (k : Nat) (x : Stream) : (s.setStream k x).out = s.out := rfl
@[simp] theorem State.setStream_thr (s : State) (k : Nat) (x : Stream) : (s.setStream k x).thr = s.thr := rfl
@[simp] theorem State.setStream_hold (s : State) (k : Nat) (x : Stream) : (s.setStream k x).hold = s.hold := rfl
@[simp] theorem State.setStream_agenda (s : State) (k : Nat) (x : Stream) : (s.setStream k x).agenda = s.agenda := rfl
@[simp] theorem State.setStream_freeN (s : State) (k : Nat) (x : Stream) : (s.setStream k x).freeN = s.freeN := rfl

@[simp] theorem State.homePut_mem (s : State) (pa : Nat) (bs : List Byte) : (s.homePut pa bs).mem = memPut s.mem pa bs := rfl
@[simp] theorem State.homePut_tiles (s : State) (pa : Nat) (bs : List Byte) : (s.homePut pa bs).tiles = s.tiles := rfl
@[simp] theorem State.homePut_llcExp (s : State) (pa : Nat) (bs : List Byte) : (s.homePut pa bs).llcExp = s.llcExp := rfl
@[simp] theorem State.homePut_cores (s : State) (pa : Nat) (bs : List Byte) : (s.homePut pa bs).cores = s.cores := rfl
@[simp] theorem State.homePut_seats (s : State) (pa : Nat) (bs : List Byte) : (s.homePut pa bs).seats = s.seats := rfl
@[simp] theorem State.homePut_ctxs (s : State) (pa : Nat) (bs : List Byte) : (s.homePut pa bs).ctxs = s.ctxs := rfl
@[simp] theorem State.homePut_vis (s : State) (pa : Nat) (bs : List Byte) : (s.homePut pa bs).vis = s.vis := rfl
@[simp] theorem State.homePut_launches (s : State) (pa : Nat) (bs : List Byte) : (s.homePut pa bs).launches = s.launches := rfl
@[simp] theorem State.homePut_streams (s : State) (pa : Nat) (bs : List Byte) : (s.homePut pa bs).streams = s.streams := rfl
@[simp] theorem State.homePut_colls (s : State) (pa : Nat) (bs : List Byte) : (s.homePut pa bs).colls = s.colls := rfl
@[simp] theorem State.homePut_quads (s : State) (pa : Nat) (bs : List Byte) : (s.homePut pa bs).quads = s.quads := rfl
@[simp] theorem State.homePut_pairs (s : State) (pa : Nat) (bs : List Byte) : (s.homePut pa bs).pairs = s.pairs := rfl
@[simp] theorem State.homePut_dies (s : State) (pa : Nat) (bs : List Byte) : (s.homePut pa bs).dies = s.dies := rfl
@[simp] theorem State.homePut_hbm (s : State) (pa : Nat) (bs : List Byte) : (s.homePut pa bs).hbm = s.hbm := rfl
@[simp] theorem State.homePut_frrs (s : State) (pa : Nat) (bs : List Byte) : (s.homePut pa bs).frrs = s.frrs := rfl
@[simp] theorem State.homePut_pkg (s : State) (pa : Nat) (bs : List Byte) : (s.homePut pa bs).pkg = s.pkg := rfl
@[simp] theorem State.homePut_migs (s : State) (pa : Nat) (bs : List Byte) : (s.homePut pa bs).migs = s.migs := rfl
@[simp] theorem State.homePut_frames (s : State) (pa : Nat) (bs : List Byte) : (s.homePut pa bs).frames = s.frames := rfl
@[simp] theorem State.homePut_holds (s : State) (pa : Nat) (bs : List Byte) : (s.homePut pa bs).holds = s.holds := rfl
@[simp] theorem State.homePut_binds (s : State) (pa : Nat) (bs : List Byte) : (s.homePut pa bs).binds = s.binds := rfl
@[simp] theorem State.homePut_epoch (s : State) (pa : Nat) (bs : List Byte) : (s.homePut pa bs).epoch = s.epoch := rfl
@[simp] theorem State.homePut_devtime (s : State) (pa : Nat) (bs : List Byte) : (s.homePut pa bs).devtime = s.devtime := rfl
@[simp] theorem State.homePut_out (s : State) (pa : Nat) (bs : List Byte) : (s.homePut pa bs).out = s.out := rfl
@[simp] theorem State.homePut_thr (s : State) (pa : Nat) (bs : List Byte) : (s.homePut pa bs).thr = s.thr := rfl
@[simp] theorem State.homePut_hold (s : State) (pa : Nat) (bs : List Byte) : (s.homePut pa bs).hold = s.hold := rfl
@[simp] theorem State.homePut_agenda (s : State) (pa : Nat) (bs : List Byte) : (s.homePut pa bs).agenda = s.agenda := rfl
@[simp] theorem State.homePut_freeN (s : State) (pa : Nat) (bs : List Byte) : (s.homePut pa bs).freeN = s.freeN := rfl

@[simp] theorem State.zero_tiles (s : State) (a n : Nat) : (s.zero a n).tiles = s.tiles := rfl
@[simp] theorem State.zero_llcExp (s : State) (a n : Nat) : (s.zero a n).llcExp = s.llcExp := rfl
@[simp] theorem State.zero_cores (s : State) (a n : Nat) : (s.zero a n).cores = s.cores := rfl
@[simp] theorem State.zero_seats (s : State) (a n : Nat) : (s.zero a n).seats = s.seats := rfl
@[simp] theorem State.zero_ctxs (s : State) (a n : Nat) : (s.zero a n).ctxs = s.ctxs := rfl
@[simp] theorem State.zero_vis (s : State) (a n : Nat) : (s.zero a n).vis = s.vis := rfl
@[simp] theorem State.zero_launches (s : State) (a n : Nat) : (s.zero a n).launches = s.launches := rfl
@[simp] theorem State.zero_streams (s : State) (a n : Nat) : (s.zero a n).streams = s.streams := rfl
@[simp] theorem State.zero_colls (s : State) (a n : Nat) : (s.zero a n).colls = s.colls := rfl
@[simp] theorem State.zero_quads (s : State) (a n : Nat) : (s.zero a n).quads = s.quads := rfl
@[simp] theorem State.zero_pairs (s : State) (a n : Nat) : (s.zero a n).pairs = s.pairs := rfl
@[simp] theorem State.zero_dies (s : State) (a n : Nat) : (s.zero a n).dies = s.dies := rfl
@[simp] theorem State.zero_hbm (s : State) (a n : Nat) : (s.zero a n).hbm = s.hbm := rfl
@[simp] theorem State.zero_frrs (s : State) (a n : Nat) : (s.zero a n).frrs = s.frrs := rfl
@[simp] theorem State.zero_pkg (s : State) (a n : Nat) : (s.zero a n).pkg = s.pkg := rfl
@[simp] theorem State.zero_migs (s : State) (a n : Nat) : (s.zero a n).migs = s.migs := rfl
@[simp] theorem State.zero_frames (s : State) (a n : Nat) : (s.zero a n).frames = s.frames := rfl
@[simp] theorem State.zero_holds (s : State) (a n : Nat) : (s.zero a n).holds = s.holds := rfl
@[simp] theorem State.zero_binds (s : State) (a n : Nat) : (s.zero a n).binds = s.binds := rfl
@[simp] theorem State.zero_epoch (s : State) (a n : Nat) : (s.zero a n).epoch = s.epoch := rfl
@[simp] theorem State.zero_devtime (s : State) (a n : Nat) : (s.zero a n).devtime = s.devtime := rfl
@[simp] theorem State.zero_out (s : State) (a n : Nat) : (s.zero a n).out = s.out := rfl
@[simp] theorem State.zero_thr (s : State) (a n : Nat) : (s.zero a n).thr = s.thr := rfl
@[simp] theorem State.zero_hold (s : State) (a n : Nat) : (s.zero a n).hold = s.hold := rfl
@[simp] theorem State.zero_agenda (s : State) (a n : Nat) : (s.zero a n).agenda = s.agenda := rfl
@[simp] theorem State.zero_freeN (s : State) (a n : Nat) : (s.zero a n).freeN = s.freeN := rfl

@[simp] theorem State.mapNode_mem (s : State) (c l : Nat) (a : Word) (f : Node → Node) : (s.mapNode c l a f).mem = s.mem := rfl
@[simp] theorem State.mapNode_tiles (s : State) (c l : Nat) (a : Word) (f : Node → Node) : (s.mapNode c l a f).tiles = s.tiles := rfl
@[simp] theorem State.mapNode_llcExp (s : State) (c l : Nat) (a : Word) (f : Node → Node) : (s.mapNode c l a f).llcExp = s.llcExp := rfl
@[simp] theorem State.mapNode_cores (s : State) (c l : Nat) (a : Word) (f : Node → Node) : (s.mapNode c l a f).cores = s.cores := rfl
@[simp] theorem State.mapNode_seats (s : State) (c l : Nat) (a : Word) (f : Node → Node) : (s.mapNode c l a f).seats = s.seats := rfl
@[simp] theorem State.mapNode_ctxs (s : State) (c l : Nat) (a : Word) (f : Node → Node) : (s.mapNode c l a f).ctxs = s.ctxs := rfl
@[simp] theorem State.mapNode_vis (s : State) (c l : Nat) (a : Word) (f : Node → Node) : (s.mapNode c l a f).vis = s.vis := rfl
@[simp] theorem State.mapNode_streams (s : State) (c l : Nat) (a : Word) (f : Node → Node) : (s.mapNode c l a f).streams = s.streams := rfl
@[simp] theorem State.mapNode_colls (s : State) (c l : Nat) (a : Word) (f : Node → Node) : (s.mapNode c l a f).colls = s.colls := rfl
@[simp] theorem State.mapNode_quads (s : State) (c l : Nat) (a : Word) (f : Node → Node) : (s.mapNode c l a f).quads = s.quads := rfl
@[simp] theorem State.mapNode_pairs (s : State) (c l : Nat) (a : Word) (f : Node → Node) : (s.mapNode c l a f).pairs = s.pairs := rfl
@[simp] theorem State.mapNode_dies (s : State) (c l : Nat) (a : Word) (f : Node → Node) : (s.mapNode c l a f).dies = s.dies := rfl
@[simp] theorem State.mapNode_hbm (s : State) (c l : Nat) (a : Word) (f : Node → Node) : (s.mapNode c l a f).hbm = s.hbm := rfl
@[simp] theorem State.mapNode_frrs (s : State) (c l : Nat) (a : Word) (f : Node → Node) : (s.mapNode c l a f).frrs = s.frrs := rfl
@[simp] theorem State.mapNode_pkg (s : State) (c l : Nat) (a : Word) (f : Node → Node) : (s.mapNode c l a f).pkg = s.pkg := rfl
@[simp] theorem State.mapNode_migs (s : State) (c l : Nat) (a : Word) (f : Node → Node) : (s.mapNode c l a f).migs = s.migs := rfl
@[simp] theorem State.mapNode_frames (s : State) (c l : Nat) (a : Word) (f : Node → Node) : (s.mapNode c l a f).frames = s.frames := rfl
@[simp] theorem State.mapNode_holds (s : State) (c l : Nat) (a : Word) (f : Node → Node) : (s.mapNode c l a f).holds = s.holds := rfl
@[simp] theorem State.mapNode_binds (s : State) (c l : Nat) (a : Word) (f : Node → Node) : (s.mapNode c l a f).binds = s.binds := rfl
@[simp] theorem State.mapNode_epoch (s : State) (c l : Nat) (a : Word) (f : Node → Node) : (s.mapNode c l a f).epoch = s.epoch := rfl
@[simp] theorem State.mapNode_devtime (s : State) (c l : Nat) (a : Word) (f : Node → Node) : (s.mapNode c l a f).devtime = s.devtime := rfl
@[simp] theorem State.mapNode_out (s : State) (c l : Nat) (a : Word) (f : Node → Node) : (s.mapNode c l a f).out = s.out := rfl
@[simp] theorem State.mapNode_thr (s : State) (c l : Nat) (a : Word) (f : Node → Node) : (s.mapNode c l a f).thr = s.thr := rfl
@[simp] theorem State.mapNode_hold (s : State) (c l : Nat) (a : Word) (f : Node → Node) : (s.mapNode c l a f).hold = s.hold := rfl
@[simp] theorem State.mapNode_agenda (s : State) (c l : Nat) (a : Word) (f : Node → Node) : (s.mapNode c l a f).agenda = s.agenda := rfl
@[simp] theorem State.mapNode_freeN (s : State) (c l : Nat) (a : Word) (f : Node → Node) : (s.mapNode c l a f).freeN = s.freeN := rfl

@[simp] theorem State.mapLaunch_mem (s : State) (c l : Nat) (f : Launch → Launch) : (s.mapLaunch c l f).mem = s.mem := rfl
@[simp] theorem State.mapLaunch_tiles (s : State) (c l : Nat) (f : Launch → Launch) : (s.mapLaunch c l f).tiles = s.tiles := rfl
@[simp] theorem State.mapLaunch_llcExp (s : State) (c l : Nat) (f : Launch → Launch) : (s.mapLaunch c l f).llcExp = s.llcExp := rfl
@[simp] theorem State.mapLaunch_cores (s : State) (c l : Nat) (f : Launch → Launch) : (s.mapLaunch c l f).cores = s.cores := rfl
@[simp] theorem State.mapLaunch_seats (s : State) (c l : Nat) (f : Launch → Launch) : (s.mapLaunch c l f).seats = s.seats := rfl
@[simp] theorem State.mapLaunch_ctxs (s : State) (c l : Nat) (f : Launch → Launch) : (s.mapLaunch c l f).ctxs = s.ctxs := rfl
@[simp] theorem State.mapLaunch_vis (s : State) (c l : Nat) (f : Launch → Launch) : (s.mapLaunch c l f).vis = s.vis := rfl
@[simp] theorem State.mapLaunch_streams (s : State) (c l : Nat) (f : Launch → Launch) : (s.mapLaunch c l f).streams = s.streams := rfl
@[simp] theorem State.mapLaunch_colls (s : State) (c l : Nat) (f : Launch → Launch) : (s.mapLaunch c l f).colls = s.colls := rfl
@[simp] theorem State.mapLaunch_quads (s : State) (c l : Nat) (f : Launch → Launch) : (s.mapLaunch c l f).quads = s.quads := rfl
@[simp] theorem State.mapLaunch_pairs (s : State) (c l : Nat) (f : Launch → Launch) : (s.mapLaunch c l f).pairs = s.pairs := rfl
@[simp] theorem State.mapLaunch_dies (s : State) (c l : Nat) (f : Launch → Launch) : (s.mapLaunch c l f).dies = s.dies := rfl
@[simp] theorem State.mapLaunch_hbm (s : State) (c l : Nat) (f : Launch → Launch) : (s.mapLaunch c l f).hbm = s.hbm := rfl
@[simp] theorem State.mapLaunch_frrs (s : State) (c l : Nat) (f : Launch → Launch) : (s.mapLaunch c l f).frrs = s.frrs := rfl
@[simp] theorem State.mapLaunch_pkg (s : State) (c l : Nat) (f : Launch → Launch) : (s.mapLaunch c l f).pkg = s.pkg := rfl
@[simp] theorem State.mapLaunch_migs (s : State) (c l : Nat) (f : Launch → Launch) : (s.mapLaunch c l f).migs = s.migs := rfl
@[simp] theorem State.mapLaunch_frames (s : State) (c l : Nat) (f : Launch → Launch) : (s.mapLaunch c l f).frames = s.frames := rfl
@[simp] theorem State.mapLaunch_holds (s : State) (c l : Nat) (f : Launch → Launch) : (s.mapLaunch c l f).holds = s.holds := rfl
@[simp] theorem State.mapLaunch_binds (s : State) (c l : Nat) (f : Launch → Launch) : (s.mapLaunch c l f).binds = s.binds := rfl
@[simp] theorem State.mapLaunch_epoch (s : State) (c l : Nat) (f : Launch → Launch) : (s.mapLaunch c l f).epoch = s.epoch := rfl
@[simp] theorem State.mapLaunch_devtime (s : State) (c l : Nat) (f : Launch → Launch) : (s.mapLaunch c l f).devtime = s.devtime := rfl
@[simp] theorem State.mapLaunch_out (s : State) (c l : Nat) (f : Launch → Launch) : (s.mapLaunch c l f).out = s.out := rfl
@[simp] theorem State.mapLaunch_thr (s : State) (c l : Nat) (f : Launch → Launch) : (s.mapLaunch c l f).thr = s.thr := rfl
@[simp] theorem State.mapLaunch_hold (s : State) (c l : Nat) (f : Launch → Launch) : (s.mapLaunch c l f).hold = s.hold := rfl
@[simp] theorem State.mapLaunch_agenda (s : State) (c l : Nat) (f : Launch → Launch) : (s.mapLaunch c l f).agenda = s.agenda := rfl
@[simp] theorem State.mapLaunch_freeN (s : State) (c l : Nat) (f : Launch → Launch) : (s.mapLaunch c l f).freeN = s.freeN := rfl

@[simp] theorem State.mapVi_mem (s : State) (v : Nat) (f : Vi → Vi) : (s.mapVi v f).mem = s.mem := rfl
@[simp] theorem State.mapVi_tiles (s : State) (v : Nat) (f : Vi → Vi) : (s.mapVi v f).tiles = s.tiles := rfl
@[simp] theorem State.mapVi_llcExp (s : State) (v : Nat) (f : Vi → Vi) : (s.mapVi v f).llcExp = s.llcExp := rfl
@[simp] theorem State.mapVi_cores (s : State) (v : Nat) (f : Vi → Vi) : (s.mapVi v f).cores = s.cores := rfl
@[simp] theorem State.mapVi_seats (s : State) (v : Nat) (f : Vi → Vi) : (s.mapVi v f).seats = s.seats := rfl
@[simp] theorem State.mapVi_ctxs (s : State) (v : Nat) (f : Vi → Vi) : (s.mapVi v f).ctxs = s.ctxs := rfl
@[simp] theorem State.mapVi_launches (s : State) (v : Nat) (f : Vi → Vi) : (s.mapVi v f).launches = s.launches := rfl
@[simp] theorem State.mapVi_streams (s : State) (v : Nat) (f : Vi → Vi) : (s.mapVi v f).streams = s.streams := rfl
@[simp] theorem State.mapVi_colls (s : State) (v : Nat) (f : Vi → Vi) : (s.mapVi v f).colls = s.colls := rfl
@[simp] theorem State.mapVi_quads (s : State) (v : Nat) (f : Vi → Vi) : (s.mapVi v f).quads = s.quads := rfl
@[simp] theorem State.mapVi_pairs (s : State) (v : Nat) (f : Vi → Vi) : (s.mapVi v f).pairs = s.pairs := rfl
@[simp] theorem State.mapVi_dies (s : State) (v : Nat) (f : Vi → Vi) : (s.mapVi v f).dies = s.dies := rfl
@[simp] theorem State.mapVi_hbm (s : State) (v : Nat) (f : Vi → Vi) : (s.mapVi v f).hbm = s.hbm := rfl
@[simp] theorem State.mapVi_frrs (s : State) (v : Nat) (f : Vi → Vi) : (s.mapVi v f).frrs = s.frrs := rfl
@[simp] theorem State.mapVi_pkg (s : State) (v : Nat) (f : Vi → Vi) : (s.mapVi v f).pkg = s.pkg := rfl
@[simp] theorem State.mapVi_migs (s : State) (v : Nat) (f : Vi → Vi) : (s.mapVi v f).migs = s.migs := rfl
@[simp] theorem State.mapVi_frames (s : State) (v : Nat) (f : Vi → Vi) : (s.mapVi v f).frames = s.frames := rfl
@[simp] theorem State.mapVi_holds (s : State) (v : Nat) (f : Vi → Vi) : (s.mapVi v f).holds = s.holds := rfl
@[simp] theorem State.mapVi_binds (s : State) (v : Nat) (f : Vi → Vi) : (s.mapVi v f).binds = s.binds := rfl
@[simp] theorem State.mapVi_epoch (s : State) (v : Nat) (f : Vi → Vi) : (s.mapVi v f).epoch = s.epoch := rfl
@[simp] theorem State.mapVi_devtime (s : State) (v : Nat) (f : Vi → Vi) : (s.mapVi v f).devtime = s.devtime := rfl
@[simp] theorem State.mapVi_out (s : State) (v : Nat) (f : Vi → Vi) : (s.mapVi v f).out = s.out := rfl
@[simp] theorem State.mapVi_thr (s : State) (v : Nat) (f : Vi → Vi) : (s.mapVi v f).thr = s.thr := rfl
@[simp] theorem State.mapVi_hold (s : State) (v : Nat) (f : Vi → Vi) : (s.mapVi v f).hold = s.hold := rfl
@[simp] theorem State.mapVi_agenda (s : State) (v : Nat) (f : Vi → Vi) : (s.mapVi v f).agenda = s.agenda := rfl
@[simp] theorem State.mapVi_freeN (s : State) (v : Nat) (f : Vi → Vi) : (s.mapVi v f).freeN = s.freeN := rfl

@[simp] theorem State.mapColl_mem (s : State) (p : CollPart) (f : CollPart → CollPart) : (s.mapColl p f).mem = s.mem := rfl
@[simp] theorem State.mapColl_tiles (s : State) (p : CollPart) (f : CollPart → CollPart) : (s.mapColl p f).tiles = s.tiles := rfl
@[simp] theorem State.mapColl_llcExp (s : State) (p : CollPart) (f : CollPart → CollPart) : (s.mapColl p f).llcExp = s.llcExp := rfl
@[simp] theorem State.mapColl_cores (s : State) (p : CollPart) (f : CollPart → CollPart) : (s.mapColl p f).cores = s.cores := rfl
@[simp] theorem State.mapColl_seats (s : State) (p : CollPart) (f : CollPart → CollPart) : (s.mapColl p f).seats = s.seats := rfl
@[simp] theorem State.mapColl_ctxs (s : State) (p : CollPart) (f : CollPart → CollPart) : (s.mapColl p f).ctxs = s.ctxs := rfl
@[simp] theorem State.mapColl_vis (s : State) (p : CollPart) (f : CollPart → CollPart) : (s.mapColl p f).vis = s.vis := rfl
@[simp] theorem State.mapColl_launches (s : State) (p : CollPart) (f : CollPart → CollPart) : (s.mapColl p f).launches = s.launches := rfl
@[simp] theorem State.mapColl_streams (s : State) (p : CollPart) (f : CollPart → CollPart) : (s.mapColl p f).streams = s.streams := rfl
@[simp] theorem State.mapColl_quads (s : State) (p : CollPart) (f : CollPart → CollPart) : (s.mapColl p f).quads = s.quads := rfl
@[simp] theorem State.mapColl_pairs (s : State) (p : CollPart) (f : CollPart → CollPart) : (s.mapColl p f).pairs = s.pairs := rfl
@[simp] theorem State.mapColl_dies (s : State) (p : CollPart) (f : CollPart → CollPart) : (s.mapColl p f).dies = s.dies := rfl
@[simp] theorem State.mapColl_hbm (s : State) (p : CollPart) (f : CollPart → CollPart) : (s.mapColl p f).hbm = s.hbm := rfl
@[simp] theorem State.mapColl_frrs (s : State) (p : CollPart) (f : CollPart → CollPart) : (s.mapColl p f).frrs = s.frrs := rfl
@[simp] theorem State.mapColl_pkg (s : State) (p : CollPart) (f : CollPart → CollPart) : (s.mapColl p f).pkg = s.pkg := rfl
@[simp] theorem State.mapColl_migs (s : State) (p : CollPart) (f : CollPart → CollPart) : (s.mapColl p f).migs = s.migs := rfl
@[simp] theorem State.mapColl_frames (s : State) (p : CollPart) (f : CollPart → CollPart) : (s.mapColl p f).frames = s.frames := rfl
@[simp] theorem State.mapColl_holds (s : State) (p : CollPart) (f : CollPart → CollPart) : (s.mapColl p f).holds = s.holds := rfl
@[simp] theorem State.mapColl_binds (s : State) (p : CollPart) (f : CollPart → CollPart) : (s.mapColl p f).binds = s.binds := rfl
@[simp] theorem State.mapColl_epoch (s : State) (p : CollPart) (f : CollPart → CollPart) : (s.mapColl p f).epoch = s.epoch := rfl
@[simp] theorem State.mapColl_devtime (s : State) (p : CollPart) (f : CollPart → CollPart) : (s.mapColl p f).devtime = s.devtime := rfl
@[simp] theorem State.mapColl_out (s : State) (p : CollPart) (f : CollPart → CollPart) : (s.mapColl p f).out = s.out := rfl
@[simp] theorem State.mapColl_thr (s : State) (p : CollPart) (f : CollPart → CollPart) : (s.mapColl p f).thr = s.thr := rfl
@[simp] theorem State.mapColl_hold (s : State) (p : CollPart) (f : CollPart → CollPart) : (s.mapColl p f).hold = s.hold := rfl
@[simp] theorem State.mapColl_agenda (s : State) (p : CollPart) (f : CollPart → CollPart) : (s.mapColl p f).agenda = s.agenda := rfl
@[simp] theorem State.mapColl_freeN (s : State) (p : CollPart) (f : CollPart → CollPart) : (s.mapColl p f).freeN = s.freeN := rfl

@[simp] theorem State.unwatch_mem (s : State) (c l : Nat) (a : Word) : (s.unwatch c l a).mem = s.mem := rfl
@[simp] theorem State.unwatch_tiles (s : State) (c l : Nat) (a : Word) : (s.unwatch c l a).tiles = s.tiles := rfl
@[simp] theorem State.unwatch_llcExp (s : State) (c l : Nat) (a : Word) : (s.unwatch c l a).llcExp = s.llcExp := rfl
@[simp] theorem State.unwatch_cores (s : State) (c l : Nat) (a : Word) : (s.unwatch c l a).cores = s.cores := rfl
@[simp] theorem State.unwatch_seats (s : State) (c l : Nat) (a : Word) : (s.unwatch c l a).seats = s.seats := rfl
@[simp] theorem State.unwatch_ctxs (s : State) (c l : Nat) (a : Word) : (s.unwatch c l a).ctxs = s.ctxs := rfl
@[simp] theorem State.unwatch_vis (s : State) (c l : Nat) (a : Word) : (s.unwatch c l a).vis = s.vis := rfl
@[simp] theorem State.unwatch_launches (s : State) (c l : Nat) (a : Word) : (s.unwatch c l a).launches = s.launches := rfl
@[simp] theorem State.unwatch_colls (s : State) (c l : Nat) (a : Word) : (s.unwatch c l a).colls = s.colls := rfl
@[simp] theorem State.unwatch_quads (s : State) (c l : Nat) (a : Word) : (s.unwatch c l a).quads = s.quads := rfl
@[simp] theorem State.unwatch_pairs (s : State) (c l : Nat) (a : Word) : (s.unwatch c l a).pairs = s.pairs := rfl
@[simp] theorem State.unwatch_dies (s : State) (c l : Nat) (a : Word) : (s.unwatch c l a).dies = s.dies := rfl
@[simp] theorem State.unwatch_hbm (s : State) (c l : Nat) (a : Word) : (s.unwatch c l a).hbm = s.hbm := rfl
@[simp] theorem State.unwatch_frrs (s : State) (c l : Nat) (a : Word) : (s.unwatch c l a).frrs = s.frrs := rfl
@[simp] theorem State.unwatch_pkg (s : State) (c l : Nat) (a : Word) : (s.unwatch c l a).pkg = s.pkg := rfl
@[simp] theorem State.unwatch_migs (s : State) (c l : Nat) (a : Word) : (s.unwatch c l a).migs = s.migs := rfl
@[simp] theorem State.unwatch_frames (s : State) (c l : Nat) (a : Word) : (s.unwatch c l a).frames = s.frames := rfl
@[simp] theorem State.unwatch_holds (s : State) (c l : Nat) (a : Word) : (s.unwatch c l a).holds = s.holds := rfl
@[simp] theorem State.unwatch_binds (s : State) (c l : Nat) (a : Word) : (s.unwatch c l a).binds = s.binds := rfl
@[simp] theorem State.unwatch_epoch (s : State) (c l : Nat) (a : Word) : (s.unwatch c l a).epoch = s.epoch := rfl
@[simp] theorem State.unwatch_devtime (s : State) (c l : Nat) (a : Word) : (s.unwatch c l a).devtime = s.devtime := rfl
@[simp] theorem State.unwatch_out (s : State) (c l : Nat) (a : Word) : (s.unwatch c l a).out = s.out := rfl
@[simp] theorem State.unwatch_thr (s : State) (c l : Nat) (a : Word) : (s.unwatch c l a).thr = s.thr := rfl
@[simp] theorem State.unwatch_hold (s : State) (c l : Nat) (a : Word) : (s.unwatch c l a).hold = s.hold := rfl
@[simp] theorem State.unwatch_agenda (s : State) (c l : Nat) (a : Word) : (s.unwatch c l a).agenda = s.agenda := rfl
@[simp] theorem State.unwatch_freeN (s : State) (c l : Nat) (a : Word) : (s.unwatch c l a).freeN = s.freeN := rfl

@[simp] theorem State.expire_mem (s : State) (t : Nat) : (s.expire t).mem = s.mem := rfl
@[simp] theorem State.expire_llcExp (s : State) (t : Nat) : (s.expire t).llcExp = s.llcExp := rfl
@[simp] theorem State.expire_cores (s : State) (t : Nat) : (s.expire t).cores = s.cores := rfl
@[simp] theorem State.expire_seats (s : State) (t : Nat) : (s.expire t).seats = s.seats := rfl
@[simp] theorem State.expire_ctxs (s : State) (t : Nat) : (s.expire t).ctxs = s.ctxs := rfl
@[simp] theorem State.expire_vis (s : State) (t : Nat) : (s.expire t).vis = s.vis := rfl
@[simp] theorem State.expire_launches (s : State) (t : Nat) : (s.expire t).launches = s.launches := rfl
@[simp] theorem State.expire_streams (s : State) (t : Nat) : (s.expire t).streams = s.streams := rfl
@[simp] theorem State.expire_colls (s : State) (t : Nat) : (s.expire t).colls = s.colls := rfl
@[simp] theorem State.expire_quads (s : State) (t : Nat) : (s.expire t).quads = s.quads := rfl
@[simp] theorem State.expire_pairs (s : State) (t : Nat) : (s.expire t).pairs = s.pairs := rfl
@[simp] theorem State.expire_dies (s : State) (t : Nat) : (s.expire t).dies = s.dies := rfl
@[simp] theorem State.expire_hbm (s : State) (t : Nat) : (s.expire t).hbm = s.hbm := rfl
@[simp] theorem State.expire_frrs (s : State) (t : Nat) : (s.expire t).frrs = s.frrs := rfl
@[simp] theorem State.expire_pkg (s : State) (t : Nat) : (s.expire t).pkg = s.pkg := rfl
@[simp] theorem State.expire_migs (s : State) (t : Nat) : (s.expire t).migs = s.migs := rfl
@[simp] theorem State.expire_frames (s : State) (t : Nat) : (s.expire t).frames = s.frames := rfl
@[simp] theorem State.expire_holds (s : State) (t : Nat) : (s.expire t).holds = s.holds := rfl
@[simp] theorem State.expire_binds (s : State) (t : Nat) : (s.expire t).binds = s.binds := rfl
@[simp] theorem State.expire_epoch (s : State) (t : Nat) : (s.expire t).epoch = s.epoch := rfl
@[simp] theorem State.expire_devtime (s : State) (t : Nat) : (s.expire t).devtime = s.devtime := rfl
@[simp] theorem State.expire_out (s : State) (t : Nat) : (s.expire t).out = s.out := rfl
@[simp] theorem State.expire_thr (s : State) (t : Nat) : (s.expire t).thr = s.thr := rfl
@[simp] theorem State.expire_hold (s : State) (t : Nat) : (s.expire t).hold = s.hold := rfl
@[simp] theorem State.expire_agenda (s : State) (t : Nat) : (s.expire t).agenda = s.agenda := rfl
@[simp] theorem State.expire_freeN (s : State) (t : Nat) : (s.expire t).freeN = s.freeN := rfl

/-! ### Updates of a seat -/

@[simp] theorem Seat.setReg_ctx (q : Seat) (r : Reg) (w : Word) : (q.setReg r w).ctx = q.ctx := by unfold Seat.setReg; split <;> rfl
@[simp] theorem Seat.setReg_inc (q : Seat) (r : Reg) (w : Word) : (q.setReg r w).inc = q.inc := by unfold Seat.setReg; split <;> rfl
@[simp] theorem Seat.setReg_vi (q : Seat) (r : Reg) (w : Word) : (q.setReg r w).vi = q.vi := by unfold Seat.setReg; split <;> rfl
@[simp] theorem Seat.setReg_handle (q : Seat) (r : Reg) (w : Word) : (q.setReg r w).handle = q.handle := by unfold Seat.setReg; split <;> rfl
@[simp] theorem Seat.setReg_node (q : Seat) (r : Reg) (w : Word) : (q.setReg r w).node = q.node := by unfold Seat.setReg; split <;> rfl
@[simp] theorem Seat.setReg_launch (q : Seat) (r : Reg) (w : Word) : (q.setReg r w).launch = q.launch := by unfold Seat.setReg; split <;> rfl
@[simp] theorem Seat.setReg_single (q : Seat) (r : Reg) (w : Word) : (q.setReg r w).single = q.single := by unfold Seat.setReg; split <;> rfl
@[simp] theorem Seat.setReg_fuse (q : Seat) (r : Reg) (w : Word) : (q.setReg r w).fuse = q.fuse := by unfold Seat.setReg; split <;> rfl
@[simp] theorem Seat.setReg_boundAt (q : Seat) (r : Reg) (w : Word) : (q.setReg r w).boundAt = q.boundAt := by unfold Seat.setReg; split <;> rfl
@[simp] theorem Seat.setReg_pc (q : Seat) (r : Reg) (w : Word) : (q.setReg r w).pc = q.pc := by unfold Seat.setReg; split <;> rfl
@[simp] theorem Seat.setReg_m (q : Seat) (r : Reg) (w : Word) : (q.setReg r w).m = q.m := by unfold Seat.setReg; split <;> rfl
@[simp] theorem Seat.setReg_v (q : Seat) (r : Reg) (w : Word) : (q.setReg r w).v = q.v := by unfold Seat.setReg; split <;> rfl
@[simp] theorem Seat.setReg_plane (q : Seat) (r : Reg) (w : Word) : (q.setReg r w).plane = q.plane := by unfold Seat.setReg; split <;> rfl
@[simp] theorem Seat.setReg_acc (q : Seat) (r : Reg) (w : Word) : (q.setReg r w).acc = q.acc := by unfold Seat.setReg; split <;> rfl
@[simp] theorem Seat.setReg_buf (q : Seat) (r : Reg) (w : Word) : (q.setReg r w).buf = q.buf := by unfold Seat.setReg; split <;> rfl
@[simp] theorem Seat.setReg_active (q : Seat) (r : Reg) (w : Word) : (q.setReg r w).active = q.active := by unfold Seat.setReg; split <;> rfl
@[simp] theorem Seat.setReg_status (q : Seat) (r : Reg) (w : Word) : (q.setReg r w).status = q.status := by unfold Seat.setReg; split <;> rfl
@[simp] theorem Seat.setReg_sr (q : Seat) (r : Reg) (w : Word) : (q.setReg r w).sr = q.sr := by unfold Seat.setReg; split <;> rfl
@[simp] theorem Seat.setReg_tags (q : Seat) (r : Reg) (w : Word) : (q.setReg r w).tags = q.tags := by unfold Seat.setReg; split <;> rfl
@[simp] theorem Seat.setReg_tagfault (q : Seat) (r : Reg) (w : Word) : (q.setReg r w).tagfault = q.tagfault := by unfold Seat.setReg; split <;> rfl
@[simp] theorem Seat.setReg_rstack (q : Seat) (r : Reg) (w : Word) : (q.setReg r w).rstack = q.rstack := by unfold Seat.setReg; split <;> rfl
@[simp] theorem Seat.setReg_pend (q : Seat) (r : Reg) (w : Word) : (q.setReg r w).pend = q.pend := by unfold Seat.setReg; split <;> rfl
@[simp] theorem Seat.setReg_aside (q : Seat) (r : Reg) (w : Word) : (q.setReg r w).aside = q.aside := by unfold Seat.setReg; split <;> rfl
@[simp] theorem Seat.setReg_resume (q : Seat) (r : Reg) (w : Word) : (q.setReg r w).resume = q.resume := by unfold Seat.setReg; split <;> rfl
@[simp] theorem Seat.setReg_chan (q : Seat) (r : Reg) (w : Word) : (q.setReg r w).chan = q.chan := by unfold Seat.setReg; split <;> rfl
@[simp] theorem Seat.setReg_gathers (q : Seat) (r : Reg) (w : Word) : (q.setReg r w).gathers = q.gathers := by unfold Seat.setReg; split <;> rfl
@[simp] theorem Seat.setReg_fork (q : Seat) (r : Reg) (w : Word) : (q.setReg r w).fork = q.fork := by unfold Seat.setReg; split <;> rfl
@[simp] theorem Seat.setReg_replay (q : Seat) (r : Reg) (w : Word) : (q.setReg r w).replay = q.replay := by unfold Seat.setReg; split <;> rfl
@[simp] theorem Seat.setReg_replaySaved (q : Seat) (r : Reg) (w : Word) : (q.setReg r w).replaySaved = q.replaySaved := by unfold Seat.setReg; split <;> rfl
@[simp] theorem Seat.setReg_byp (q : Seat) (r : Reg) (w : Word) : (q.setReg r w).byp = q.byp := by unfold Seat.setReg; split <;> rfl
@[simp] theorem Seat.setReg_bypSaved (q : Seat) (r : Reg) (w : Word) : (q.setReg r w).bypSaved = q.bypSaved := by unfold Seat.setReg; split <;> rfl
@[simp] theorem Seat.setReg_halted (q : Seat) (r : Reg) (w : Word) : (q.setReg r w).halted = q.halted := by unfold Seat.setReg; split <;> rfl
@[simp] theorem Seat.setReg_wait (q : Seat) (r : Reg) (w : Word) : (q.setReg r w).wait = q.wait := by unfold Seat.setReg; split <;> rfl
@[simp] theorem Seat.setReg_waitSaved (q : Seat) (r : Reg) (w : Word) : (q.setReg r w).waitSaved = q.waitSaved := by unfold Seat.setReg; split <;> rfl
@[simp] theorem Seat.setReg_park (q : Seat) (r : Reg) (w : Word) : (q.setReg r w).park = q.park := by unfold Seat.setReg; split <;> rfl
@[simp] theorem Seat.setReg_yielded (q : Seat) (r : Reg) (w : Word) : (q.setReg r w).yielded = q.yielded := by unfold Seat.setReg; split <;> rfl
@[simp] theorem Seat.setReg_noWatch (q : Seat) (r : Reg) (w : Word) : (q.setReg r w).noWatch = q.noWatch := by unfold Seat.setReg; split <;> rfl
@[simp] theorem Seat.setReg_noWatchSaved (q : Seat) (r : Reg) (w : Word) : (q.setReg r w).noWatchSaved = q.noWatchSaved := by unfold Seat.setReg; split <;> rfl
@[simp] theorem Seat.setReg_noWatchVp (q : Seat) (r : Reg) (w : Word) : (q.setReg r w).noWatchVp = q.noWatchVp := by unfold Seat.setReg; split <;> rfl
@[simp] theorem Seat.setReg_sampleCnt (q : Seat) (r : Reg) (w : Word) : (q.setReg r w).sampleCnt = q.sampleCnt := by unfold Seat.setReg; split <;> rfl
@[simp] theorem Seat.setReg_samples (q : Seat) (r : Reg) (w : Word) : (q.setReg r w).samples = q.samples := by unfold Seat.setReg; split <;> rfl
@[simp] theorem Seat.setReg_tagsOut (q : Seat) (r : Reg) (w : Word) : (q.setReg r w).tagsOut = q.tagsOut := by unfold Seat.setReg; split <;> rfl
@[simp] theorem Seat.setReg_home (q : Seat) (r : Reg) (w : Word) : (q.setReg r w).home = q.home := by unfold Seat.setReg; split <;> rfl
@[simp] theorem Seat.setReg_stopping (q : Seat) (r : Reg) (w : Word) : (q.setReg r w).stopping = q.stopping := by unfold Seat.setReg; split <;> rfl
@[simp] theorem Seat.setReg_stopSince (q : Seat) (r : Reg) (w : Word) : (q.setReg r w).stopSince = q.stopSince := by unfold Seat.setReg; split <;> rfl
@[simp] theorem Seat.setReg_declared (q : Seat) (r : Reg) (w : Word) : (q.setReg r w).declared = q.declared := by unfold Seat.setReg; split <;> rfl
@[simp] theorem Seat.setReg_pendingTrap (q : Seat) (r : Reg) (w : Word) : (q.setReg r w).pendingTrap = q.pendingTrap := by unfold Seat.setReg; split <;> rfl

@[simp] theorem Seat.setMask_ctx (q : Seat) (k : MaskNo) (x : Mask) : (q.setMask k x).ctx = q.ctx := rfl
@[simp] theorem Seat.setMask_inc (q : Seat) (k : MaskNo) (x : Mask) : (q.setMask k x).inc = q.inc := rfl
@[simp] theorem Seat.setMask_vi (q : Seat) (k : MaskNo) (x : Mask) : (q.setMask k x).vi = q.vi := rfl
@[simp] theorem Seat.setMask_handle (q : Seat) (k : MaskNo) (x : Mask) : (q.setMask k x).handle = q.handle := rfl
@[simp] theorem Seat.setMask_node (q : Seat) (k : MaskNo) (x : Mask) : (q.setMask k x).node = q.node := rfl
@[simp] theorem Seat.setMask_launch (q : Seat) (k : MaskNo) (x : Mask) : (q.setMask k x).launch = q.launch := rfl
@[simp] theorem Seat.setMask_single (q : Seat) (k : MaskNo) (x : Mask) : (q.setMask k x).single = q.single := rfl
@[simp] theorem Seat.setMask_fuse (q : Seat) (k : MaskNo) (x : Mask) : (q.setMask k x).fuse = q.fuse := rfl
@[simp] theorem Seat.setMask_boundAt (q : Seat) (k : MaskNo) (x : Mask) : (q.setMask k x).boundAt = q.boundAt := rfl
@[simp] theorem Seat.setMask_pc (q : Seat) (k : MaskNo) (x : Mask) : (q.setMask k x).pc = q.pc := rfl
@[simp] theorem Seat.setMask_s (q : Seat) (k : MaskNo) (x : Mask) : (q.setMask k x).s = q.s := rfl
@[simp] theorem Seat.setMask_v (q : Seat) (k : MaskNo) (x : Mask) : (q.setMask k x).v = q.v := rfl
@[simp] theorem Seat.setMask_plane (q : Seat) (k : MaskNo) (x : Mask) : (q.setMask k x).plane = q.plane := rfl
@[simp] theorem Seat.setMask_acc (q : Seat) (k : MaskNo) (x : Mask) : (q.setMask k x).acc = q.acc := rfl
@[simp] theorem Seat.setMask_buf (q : Seat) (k : MaskNo) (x : Mask) : (q.setMask k x).buf = q.buf := rfl
@[simp] theorem Seat.setMask_active (q : Seat) (k : MaskNo) (x : Mask) : (q.setMask k x).active = q.active := rfl
@[simp] theorem Seat.setMask_status (q : Seat) (k : MaskNo) (x : Mask) : (q.setMask k x).status = q.status := rfl
@[simp] theorem Seat.setMask_sr (q : Seat) (k : MaskNo) (x : Mask) : (q.setMask k x).sr = q.sr := rfl
@[simp] theorem Seat.setMask_tags (q : Seat) (k : MaskNo) (x : Mask) : (q.setMask k x).tags = q.tags := rfl
@[simp] theorem Seat.setMask_tagfault (q : Seat) (k : MaskNo) (x : Mask) : (q.setMask k x).tagfault = q.tagfault := rfl
@[simp] theorem Seat.setMask_rstack (q : Seat) (k : MaskNo) (x : Mask) : (q.setMask k x).rstack = q.rstack := rfl
@[simp] theorem Seat.setMask_pend (q : Seat) (k : MaskNo) (x : Mask) : (q.setMask k x).pend = q.pend := rfl
@[simp] theorem Seat.setMask_aside (q : Seat) (k : MaskNo) (x : Mask) : (q.setMask k x).aside = q.aside := rfl
@[simp] theorem Seat.setMask_resume (q : Seat) (k : MaskNo) (x : Mask) : (q.setMask k x).resume = q.resume := rfl
@[simp] theorem Seat.setMask_chan (q : Seat) (k : MaskNo) (x : Mask) : (q.setMask k x).chan = q.chan := rfl
@[simp] theorem Seat.setMask_gathers (q : Seat) (k : MaskNo) (x : Mask) : (q.setMask k x).gathers = q.gathers := rfl
@[simp] theorem Seat.setMask_fork (q : Seat) (k : MaskNo) (x : Mask) : (q.setMask k x).fork = q.fork := rfl
@[simp] theorem Seat.setMask_replay (q : Seat) (k : MaskNo) (x : Mask) : (q.setMask k x).replay = q.replay := rfl
@[simp] theorem Seat.setMask_replaySaved (q : Seat) (k : MaskNo) (x : Mask) : (q.setMask k x).replaySaved = q.replaySaved := rfl
@[simp] theorem Seat.setMask_byp (q : Seat) (k : MaskNo) (x : Mask) : (q.setMask k x).byp = q.byp := rfl
@[simp] theorem Seat.setMask_bypSaved (q : Seat) (k : MaskNo) (x : Mask) : (q.setMask k x).bypSaved = q.bypSaved := rfl
@[simp] theorem Seat.setMask_halted (q : Seat) (k : MaskNo) (x : Mask) : (q.setMask k x).halted = q.halted := rfl
@[simp] theorem Seat.setMask_wait (q : Seat) (k : MaskNo) (x : Mask) : (q.setMask k x).wait = q.wait := rfl
@[simp] theorem Seat.setMask_waitSaved (q : Seat) (k : MaskNo) (x : Mask) : (q.setMask k x).waitSaved = q.waitSaved := rfl
@[simp] theorem Seat.setMask_park (q : Seat) (k : MaskNo) (x : Mask) : (q.setMask k x).park = q.park := rfl
@[simp] theorem Seat.setMask_yielded (q : Seat) (k : MaskNo) (x : Mask) : (q.setMask k x).yielded = q.yielded := rfl
@[simp] theorem Seat.setMask_noWatch (q : Seat) (k : MaskNo) (x : Mask) : (q.setMask k x).noWatch = q.noWatch := rfl
@[simp] theorem Seat.setMask_noWatchSaved (q : Seat) (k : MaskNo) (x : Mask) : (q.setMask k x).noWatchSaved = q.noWatchSaved := rfl
@[simp] theorem Seat.setMask_noWatchVp (q : Seat) (k : MaskNo) (x : Mask) : (q.setMask k x).noWatchVp = q.noWatchVp := rfl
@[simp] theorem Seat.setMask_sampleCnt (q : Seat) (k : MaskNo) (x : Mask) : (q.setMask k x).sampleCnt = q.sampleCnt := rfl
@[simp] theorem Seat.setMask_samples (q : Seat) (k : MaskNo) (x : Mask) : (q.setMask k x).samples = q.samples := rfl
@[simp] theorem Seat.setMask_tagsOut (q : Seat) (k : MaskNo) (x : Mask) : (q.setMask k x).tagsOut = q.tagsOut := rfl
@[simp] theorem Seat.setMask_home (q : Seat) (k : MaskNo) (x : Mask) : (q.setMask k x).home = q.home := rfl
@[simp] theorem Seat.setMask_stopping (q : Seat) (k : MaskNo) (x : Mask) : (q.setMask k x).stopping = q.stopping := rfl
@[simp] theorem Seat.setMask_stopSince (q : Seat) (k : MaskNo) (x : Mask) : (q.setMask k x).stopSince = q.stopSince := rfl
@[simp] theorem Seat.setMask_declared (q : Seat) (k : MaskNo) (x : Mask) : (q.setMask k x).declared = q.declared := rfl
@[simp] theorem Seat.setMask_pendingTrap (q : Seat) (k : MaskNo) (x : Mask) : (q.setMask k x).pendingTrap = q.pendingTrap := rfl

@[simp] theorem Seat.setEntry_ctx (q : Seat) (e : Ent) (t : Option Shape) : (q.setEntry e t).ctx = q.ctx := by unfold Seat.setEntry; split <;> rfl
@[simp] theorem Seat.setEntry_inc (q : Seat) (e : Ent) (t : Option Shape) : (q.setEntry e t).inc = q.inc := by unfold Seat.setEntry; split <;> rfl
@[simp] theorem Seat.setEntry_vi (q : Seat) (e : Ent) (t : Option Shape) : (q.setEntry e t).vi = q.vi := by unfold Seat.setEntry; split <;> rfl
@[simp] theorem Seat.setEntry_handle (q : Seat) (e : Ent) (t : Option Shape) : (q.setEntry e t).handle = q.handle := by unfold Seat.setEntry; split <;> rfl
@[simp] theorem Seat.setEntry_node (q : Seat) (e : Ent) (t : Option Shape) : (q.setEntry e t).node = q.node := by unfold Seat.setEntry; split <;> rfl
@[simp] theorem Seat.setEntry_launch (q : Seat) (e : Ent) (t : Option Shape) : (q.setEntry e t).launch = q.launch := by unfold Seat.setEntry; split <;> rfl
@[simp] theorem Seat.setEntry_single (q : Seat) (e : Ent) (t : Option Shape) : (q.setEntry e t).single = q.single := by unfold Seat.setEntry; split <;> rfl
@[simp] theorem Seat.setEntry_fuse (q : Seat) (e : Ent) (t : Option Shape) : (q.setEntry e t).fuse = q.fuse := by unfold Seat.setEntry; split <;> rfl
@[simp] theorem Seat.setEntry_boundAt (q : Seat) (e : Ent) (t : Option Shape) : (q.setEntry e t).boundAt = q.boundAt := by unfold Seat.setEntry; split <;> rfl
@[simp] theorem Seat.setEntry_pc (q : Seat) (e : Ent) (t : Option Shape) : (q.setEntry e t).pc = q.pc := by unfold Seat.setEntry; split <;> rfl
@[simp] theorem Seat.setEntry_s (q : Seat) (e : Ent) (t : Option Shape) : (q.setEntry e t).s = q.s := by unfold Seat.setEntry; split <;> rfl
@[simp] theorem Seat.setEntry_m (q : Seat) (e : Ent) (t : Option Shape) : (q.setEntry e t).m = q.m := by unfold Seat.setEntry; split <;> rfl
@[simp] theorem Seat.setEntry_plane (q : Seat) (e : Ent) (t : Option Shape) : (q.setEntry e t).plane = q.plane := by unfold Seat.setEntry; split <;> rfl
@[simp] theorem Seat.setEntry_acc (q : Seat) (e : Ent) (t : Option Shape) : (q.setEntry e t).acc = q.acc := by unfold Seat.setEntry; split <;> rfl
@[simp] theorem Seat.setEntry_buf (q : Seat) (e : Ent) (t : Option Shape) : (q.setEntry e t).buf = q.buf := by unfold Seat.setEntry; split <;> rfl
@[simp] theorem Seat.setEntry_active (q : Seat) (e : Ent) (t : Option Shape) : (q.setEntry e t).active = q.active := by unfold Seat.setEntry; split <;> rfl
@[simp] theorem Seat.setEntry_status (q : Seat) (e : Ent) (t : Option Shape) : (q.setEntry e t).status = q.status := by unfold Seat.setEntry; split <;> rfl
@[simp] theorem Seat.setEntry_sr (q : Seat) (e : Ent) (t : Option Shape) : (q.setEntry e t).sr = q.sr := by unfold Seat.setEntry; split <;> rfl
@[simp] theorem Seat.setEntry_tags (q : Seat) (e : Ent) (t : Option Shape) : (q.setEntry e t).tags = q.tags := by unfold Seat.setEntry; split <;> rfl
@[simp] theorem Seat.setEntry_tagfault (q : Seat) (e : Ent) (t : Option Shape) : (q.setEntry e t).tagfault = q.tagfault := by unfold Seat.setEntry; split <;> rfl
@[simp] theorem Seat.setEntry_rstack (q : Seat) (e : Ent) (t : Option Shape) : (q.setEntry e t).rstack = q.rstack := by unfold Seat.setEntry; split <;> rfl
@[simp] theorem Seat.setEntry_pend (q : Seat) (e : Ent) (t : Option Shape) : (q.setEntry e t).pend = q.pend := by unfold Seat.setEntry; split <;> rfl
@[simp] theorem Seat.setEntry_aside (q : Seat) (e : Ent) (t : Option Shape) : (q.setEntry e t).aside = q.aside := by unfold Seat.setEntry; split <;> rfl
@[simp] theorem Seat.setEntry_resume (q : Seat) (e : Ent) (t : Option Shape) : (q.setEntry e t).resume = q.resume := by unfold Seat.setEntry; split <;> rfl
@[simp] theorem Seat.setEntry_chan (q : Seat) (e : Ent) (t : Option Shape) : (q.setEntry e t).chan = q.chan := by unfold Seat.setEntry; split <;> rfl
@[simp] theorem Seat.setEntry_gathers (q : Seat) (e : Ent) (t : Option Shape) : (q.setEntry e t).gathers = q.gathers := by unfold Seat.setEntry; split <;> rfl
@[simp] theorem Seat.setEntry_fork (q : Seat) (e : Ent) (t : Option Shape) : (q.setEntry e t).fork = q.fork := by unfold Seat.setEntry; split <;> rfl
@[simp] theorem Seat.setEntry_replay (q : Seat) (e : Ent) (t : Option Shape) : (q.setEntry e t).replay = q.replay := by unfold Seat.setEntry; split <;> rfl
@[simp] theorem Seat.setEntry_replaySaved (q : Seat) (e : Ent) (t : Option Shape) : (q.setEntry e t).replaySaved = q.replaySaved := by unfold Seat.setEntry; split <;> rfl
@[simp] theorem Seat.setEntry_byp (q : Seat) (e : Ent) (t : Option Shape) : (q.setEntry e t).byp = q.byp := by unfold Seat.setEntry; split <;> rfl
@[simp] theorem Seat.setEntry_bypSaved (q : Seat) (e : Ent) (t : Option Shape) : (q.setEntry e t).bypSaved = q.bypSaved := by unfold Seat.setEntry; split <;> rfl
@[simp] theorem Seat.setEntry_halted (q : Seat) (e : Ent) (t : Option Shape) : (q.setEntry e t).halted = q.halted := by unfold Seat.setEntry; split <;> rfl
@[simp] theorem Seat.setEntry_wait (q : Seat) (e : Ent) (t : Option Shape) : (q.setEntry e t).wait = q.wait := by unfold Seat.setEntry; split <;> rfl
@[simp] theorem Seat.setEntry_waitSaved (q : Seat) (e : Ent) (t : Option Shape) : (q.setEntry e t).waitSaved = q.waitSaved := by unfold Seat.setEntry; split <;> rfl
@[simp] theorem Seat.setEntry_park (q : Seat) (e : Ent) (t : Option Shape) : (q.setEntry e t).park = q.park := by unfold Seat.setEntry; split <;> rfl
@[simp] theorem Seat.setEntry_yielded (q : Seat) (e : Ent) (t : Option Shape) : (q.setEntry e t).yielded = q.yielded := by unfold Seat.setEntry; split <;> rfl
@[simp] theorem Seat.setEntry_noWatch (q : Seat) (e : Ent) (t : Option Shape) : (q.setEntry e t).noWatch = q.noWatch := by unfold Seat.setEntry; split <;> rfl
@[simp] theorem Seat.setEntry_noWatchSaved (q : Seat) (e : Ent) (t : Option Shape) : (q.setEntry e t).noWatchSaved = q.noWatchSaved := by unfold Seat.setEntry; split <;> rfl
@[simp] theorem Seat.setEntry_noWatchVp (q : Seat) (e : Ent) (t : Option Shape) : (q.setEntry e t).noWatchVp = q.noWatchVp := by unfold Seat.setEntry; split <;> rfl
@[simp] theorem Seat.setEntry_sampleCnt (q : Seat) (e : Ent) (t : Option Shape) : (q.setEntry e t).sampleCnt = q.sampleCnt := by unfold Seat.setEntry; split <;> rfl
@[simp] theorem Seat.setEntry_samples (q : Seat) (e : Ent) (t : Option Shape) : (q.setEntry e t).samples = q.samples := by unfold Seat.setEntry; split <;> rfl
@[simp] theorem Seat.setEntry_tagsOut (q : Seat) (e : Ent) (t : Option Shape) : (q.setEntry e t).tagsOut = q.tagsOut := by unfold Seat.setEntry; split <;> rfl
@[simp] theorem Seat.setEntry_home (q : Seat) (e : Ent) (t : Option Shape) : (q.setEntry e t).home = q.home := by unfold Seat.setEntry; split <;> rfl
@[simp] theorem Seat.setEntry_stopping (q : Seat) (e : Ent) (t : Option Shape) : (q.setEntry e t).stopping = q.stopping := by unfold Seat.setEntry; split <;> rfl
@[simp] theorem Seat.setEntry_stopSince (q : Seat) (e : Ent) (t : Option Shape) : (q.setEntry e t).stopSince = q.stopSince := by unfold Seat.setEntry; split <;> rfl
@[simp] theorem Seat.setEntry_declared (q : Seat) (e : Ent) (t : Option Shape) : (q.setEntry e t).declared = q.declared := by unfold Seat.setEntry; split <;> rfl
@[simp] theorem Seat.setEntry_pendingTrap (q : Seat) (e : Ent) (t : Option Shape) : (q.setEntry e t).pendingTrap = q.pendingTrap := by unfold Seat.setEntry; split <;> rfl

@[simp] theorem Seat.issued_ctx (q : Seat)  : (q.issued).ctx = q.ctx := rfl
@[simp] theorem Seat.issued_inc (q : Seat)  : (q.issued).inc = q.inc := rfl
@[simp] theorem Seat.issued_vi (q : Seat)  : (q.issued).vi = q.vi := rfl
@[simp] theorem Seat.issued_handle (q : Seat)  : (q.issued).handle = q.handle := rfl
@[simp] theorem Seat.issued_node (q : Seat)  : (q.issued).node = q.node := rfl
@[simp] theorem Seat.issued_launch (q : Seat)  : (q.issued).launch = q.launch := rfl
@[simp] theorem Seat.issued_single (q : Seat)  : (q.issued).single = q.single := rfl
@[simp] theorem Seat.issued_fuse (q : Seat)  : (q.issued).fuse = q.fuse := rfl
@[simp] theorem Seat.issued_boundAt (q : Seat)  : (q.issued).boundAt = q.boundAt := rfl
@[simp] theorem Seat.issued_pc (q : Seat)  : (q.issued).pc = q.pc := rfl
@[simp] theorem Seat.issued_s (q : Seat)  : (q.issued).s = q.s := rfl
@[simp] theorem Seat.issued_m (q : Seat)  : (q.issued).m = q.m := rfl
@[simp] theorem Seat.issued_v (q : Seat)  : (q.issued).v = q.v := rfl
@[simp] theorem Seat.issued_plane (q : Seat)  : (q.issued).plane = q.plane := rfl
@[simp] theorem Seat.issued_acc (q : Seat)  : (q.issued).acc = q.acc := rfl
@[simp] theorem Seat.issued_buf (q : Seat)  : (q.issued).buf = q.buf := rfl
@[simp] theorem Seat.issued_active (q : Seat)  : (q.issued).active = q.active := rfl
@[simp] theorem Seat.issued_status (q : Seat)  : (q.issued).status = q.status := rfl
@[simp] theorem Seat.issued_sr (q : Seat)  : (q.issued).sr = q.sr := rfl
@[simp] theorem Seat.issued_tags (q : Seat)  : (q.issued).tags = q.tags := rfl
@[simp] theorem Seat.issued_tagfault (q : Seat)  : (q.issued).tagfault = q.tagfault := rfl
@[simp] theorem Seat.issued_rstack (q : Seat)  : (q.issued).rstack = q.rstack := rfl
@[simp] theorem Seat.issued_pend (q : Seat)  : (q.issued).pend = q.pend := rfl
@[simp] theorem Seat.issued_aside (q : Seat)  : (q.issued).aside = q.aside := rfl
@[simp] theorem Seat.issued_resume (q : Seat)  : (q.issued).resume = q.resume := rfl
@[simp] theorem Seat.issued_chan (q : Seat)  : (q.issued).chan = q.chan := rfl
@[simp] theorem Seat.issued_gathers (q : Seat)  : (q.issued).gathers = q.gathers := rfl
@[simp] theorem Seat.issued_fork (q : Seat)  : (q.issued).fork = q.fork := rfl
@[simp] theorem Seat.issued_replay (q : Seat)  : (q.issued).replay = q.replay := rfl
@[simp] theorem Seat.issued_replaySaved (q : Seat)  : (q.issued).replaySaved = q.replaySaved := rfl
@[simp] theorem Seat.issued_byp (q : Seat)  : (q.issued).byp = none := rfl
@[simp] theorem Seat.issued_bypSaved (q : Seat)  : (q.issued).bypSaved = q.bypSaved := rfl
@[simp] theorem Seat.issued_halted (q : Seat)  : (q.issued).halted = q.halted := rfl
@[simp] theorem Seat.issued_wait (q : Seat)  : (q.issued).wait = none := rfl
@[simp] theorem Seat.issued_waitSaved (q : Seat)  : (q.issued).waitSaved = q.waitSaved := rfl
@[simp] theorem Seat.issued_park (q : Seat)  : (q.issued).park = q.park := rfl
@[simp] theorem Seat.issued_yielded (q : Seat)  : (q.issued).yielded = q.yielded := rfl
@[simp] theorem Seat.issued_noWatch (q : Seat)  : (q.issued).noWatch = false := rfl
@[simp] theorem Seat.issued_noWatchSaved (q : Seat)  : (q.issued).noWatchSaved = q.noWatchSaved := rfl
@[simp] theorem Seat.issued_noWatchVp (q : Seat)  : (q.issued).noWatchVp = q.noWatchVp := rfl
@[simp] theorem Seat.issued_sampleCnt (q : Seat)  : (q.issued).sampleCnt = q.sampleCnt := rfl
@[simp] theorem Seat.issued_samples (q : Seat)  : (q.issued).samples = q.samples := rfl
@[simp] theorem Seat.issued_tagsOut (q : Seat)  : (q.issued).tagsOut = q.tagsOut := rfl
@[simp] theorem Seat.issued_home (q : Seat)  : (q.issued).home = q.home := rfl
@[simp] theorem Seat.issued_stopping (q : Seat)  : (q.issued).stopping = q.stopping := rfl
@[simp] theorem Seat.issued_stopSince (q : Seat)  : (q.issued).stopSince = q.stopSince := rfl
@[simp] theorem Seat.issued_declared (q : Seat)  : (q.issued).declared = q.declared := rfl
@[simp] theorem Seat.issued_pendingTrap (q : Seat)  : (q.issued).pendingTrap = q.pendingTrap := rfl

@[simp] theorem Seat.waitFor_ctx (q : Seat) (w : Wait) : (q.waitFor w).ctx = q.ctx := rfl
@[simp] theorem Seat.waitFor_inc (q : Seat) (w : Wait) : (q.waitFor w).inc = q.inc := rfl
@[simp] theorem Seat.waitFor_vi (q : Seat) (w : Wait) : (q.waitFor w).vi = q.vi := rfl
@[simp] theorem Seat.waitFor_handle (q : Seat) (w : Wait) : (q.waitFor w).handle = q.handle := rfl
@[simp] theorem Seat.waitFor_node (q : Seat) (w : Wait) : (q.waitFor w).node = q.node := rfl
@[simp] theorem Seat.waitFor_launch (q : Seat) (w : Wait) : (q.waitFor w).launch = q.launch := rfl
@[simp] theorem Seat.waitFor_single (q : Seat) (w : Wait) : (q.waitFor w).single = q.single := rfl
@[simp] theorem Seat.waitFor_fuse (q : Seat) (w : Wait) : (q.waitFor w).fuse = q.fuse := rfl
@[simp] theorem Seat.waitFor_boundAt (q : Seat) (w : Wait) : (q.waitFor w).boundAt = q.boundAt := rfl
@[simp] theorem Seat.waitFor_pc (q : Seat) (w : Wait) : (q.waitFor w).pc = q.pc := rfl
@[simp] theorem Seat.waitFor_s (q : Seat) (w : Wait) : (q.waitFor w).s = q.s := rfl
@[simp] theorem Seat.waitFor_m (q : Seat) (w : Wait) : (q.waitFor w).m = q.m := rfl
@[simp] theorem Seat.waitFor_v (q : Seat) (w : Wait) : (q.waitFor w).v = q.v := rfl
@[simp] theorem Seat.waitFor_plane (q : Seat) (w : Wait) : (q.waitFor w).plane = q.plane := rfl
@[simp] theorem Seat.waitFor_acc (q : Seat) (w : Wait) : (q.waitFor w).acc = q.acc := rfl
@[simp] theorem Seat.waitFor_buf (q : Seat) (w : Wait) : (q.waitFor w).buf = q.buf := rfl
@[simp] theorem Seat.waitFor_active (q : Seat) (w : Wait) : (q.waitFor w).active = q.active := rfl
@[simp] theorem Seat.waitFor_status (q : Seat) (w : Wait) : (q.waitFor w).status = q.status := rfl
@[simp] theorem Seat.waitFor_sr (q : Seat) (w : Wait) : (q.waitFor w).sr = q.sr := rfl
@[simp] theorem Seat.waitFor_tags (q : Seat) (w : Wait) : (q.waitFor w).tags = q.tags := rfl
@[simp] theorem Seat.waitFor_tagfault (q : Seat) (w : Wait) : (q.waitFor w).tagfault = q.tagfault := rfl
@[simp] theorem Seat.waitFor_rstack (q : Seat) (w : Wait) : (q.waitFor w).rstack = q.rstack := rfl
@[simp] theorem Seat.waitFor_pend (q : Seat) (w : Wait) : (q.waitFor w).pend = q.pend := rfl
@[simp] theorem Seat.waitFor_aside (q : Seat) (w : Wait) : (q.waitFor w).aside = q.aside := rfl
@[simp] theorem Seat.waitFor_resume (q : Seat) (w : Wait) : (q.waitFor w).resume = q.resume := rfl
@[simp] theorem Seat.waitFor_chan (q : Seat) (w : Wait) : (q.waitFor w).chan = q.chan := rfl
@[simp] theorem Seat.waitFor_gathers (q : Seat) (w : Wait) : (q.waitFor w).gathers = q.gathers := rfl
@[simp] theorem Seat.waitFor_fork (q : Seat) (w : Wait) : (q.waitFor w).fork = q.fork := rfl
@[simp] theorem Seat.waitFor_replay (q : Seat) (w : Wait) : (q.waitFor w).replay = q.replay := rfl
@[simp] theorem Seat.waitFor_replaySaved (q : Seat) (w : Wait) : (q.waitFor w).replaySaved = q.replaySaved := rfl
@[simp] theorem Seat.waitFor_byp (q : Seat) (w : Wait) : (q.waitFor w).byp = none := rfl
@[simp] theorem Seat.waitFor_bypSaved (q : Seat) (w : Wait) : (q.waitFor w).bypSaved = q.bypSaved := rfl
@[simp] theorem Seat.waitFor_halted (q : Seat) (w : Wait) : (q.waitFor w).halted = q.halted := rfl
@[simp] theorem Seat.waitFor_wait (q : Seat) (w : Wait) : (q.waitFor w).wait = some w := rfl
@[simp] theorem Seat.waitFor_waitSaved (q : Seat) (w : Wait) : (q.waitFor w).waitSaved = q.waitSaved := rfl
@[simp] theorem Seat.waitFor_park (q : Seat) (w : Wait) : (q.waitFor w).park = q.park := rfl
@[simp] theorem Seat.waitFor_yielded (q : Seat) (w : Wait) : (q.waitFor w).yielded = q.yielded := rfl
@[simp] theorem Seat.waitFor_noWatch (q : Seat) (w : Wait) : (q.waitFor w).noWatch = q.noWatch := rfl
@[simp] theorem Seat.waitFor_noWatchSaved (q : Seat) (w : Wait) : (q.waitFor w).noWatchSaved = q.noWatchSaved := rfl
@[simp] theorem Seat.waitFor_noWatchVp (q : Seat) (w : Wait) : (q.waitFor w).noWatchVp = q.noWatchVp := rfl
@[simp] theorem Seat.waitFor_sampleCnt (q : Seat) (w : Wait) : (q.waitFor w).sampleCnt = q.sampleCnt := rfl
@[simp] theorem Seat.waitFor_samples (q : Seat) (w : Wait) : (q.waitFor w).samples = q.samples := rfl
@[simp] theorem Seat.waitFor_tagsOut (q : Seat) (w : Wait) : (q.waitFor w).tagsOut = q.tagsOut := rfl
@[simp] theorem Seat.waitFor_home (q : Seat) (w : Wait) : (q.waitFor w).home = q.home := rfl
@[simp] theorem Seat.waitFor_stopping (q : Seat) (w : Wait) : (q.waitFor w).stopping = q.stopping := rfl
@[simp] theorem Seat.waitFor_stopSince (q : Seat) (w : Wait) : (q.waitFor w).stopSince = q.stopSince := rfl
@[simp] theorem Seat.waitFor_declared (q : Seat) (w : Wait) : (q.waitFor w).declared = q.declared := rfl
@[simp] theorem Seat.waitFor_pendingTrap (q : Seat) (w : Wait) : (q.waitFor w).pendingTrap = q.pendingTrap := rfl

@[simp] theorem Seat.jump_ctx (q : Seat) (a : Word) : (q.jump a).ctx = q.ctx := rfl
@[simp] theorem Seat.jump_inc (q : Seat) (a : Word) : (q.jump a).inc = q.inc := rfl
@[simp] theorem Seat.jump_vi (q : Seat) (a : Word) : (q.jump a).vi = q.vi := rfl
@[simp] theorem Seat.jump_handle (q : Seat) (a : Word) : (q.jump a).handle = q.handle := rfl
@[simp] theorem Seat.jump_node (q : Seat) (a : Word) : (q.jump a).node = q.node := rfl
@[simp] theorem Seat.jump_launch (q : Seat) (a : Word) : (q.jump a).launch = q.launch := rfl
@[simp] theorem Seat.jump_single (q : Seat) (a : Word) : (q.jump a).single = q.single := rfl
@[simp] theorem Seat.jump_fuse (q : Seat) (a : Word) : (q.jump a).fuse = q.fuse := rfl
@[simp] theorem Seat.jump_boundAt (q : Seat) (a : Word) : (q.jump a).boundAt = q.boundAt := rfl
@[simp] theorem Seat.jump_pc (q : Seat) (a : Word) : (q.jump a).pc = a := rfl
@[simp] theorem Seat.jump_s (q : Seat) (a : Word) : (q.jump a).s = q.s := rfl
@[simp] theorem Seat.jump_m (q : Seat) (a : Word) : (q.jump a).m = q.m := rfl
@[simp] theorem Seat.jump_v (q : Seat) (a : Word) : (q.jump a).v = q.v := rfl
@[simp] theorem Seat.jump_plane (q : Seat) (a : Word) : (q.jump a).plane = q.plane := rfl
@[simp] theorem Seat.jump_acc (q : Seat) (a : Word) : (q.jump a).acc = q.acc := rfl
@[simp] theorem Seat.jump_buf (q : Seat) (a : Word) : (q.jump a).buf = q.buf := rfl
@[simp] theorem Seat.jump_active (q : Seat) (a : Word) : (q.jump a).active = q.active := rfl
@[simp] theorem Seat.jump_status (q : Seat) (a : Word) : (q.jump a).status = q.status := rfl
@[simp] theorem Seat.jump_sr (q : Seat) (a : Word) : (q.jump a).sr = q.sr := rfl
@[simp] theorem Seat.jump_tags (q : Seat) (a : Word) : (q.jump a).tags = q.tags := rfl
@[simp] theorem Seat.jump_tagfault (q : Seat) (a : Word) : (q.jump a).tagfault = q.tagfault := rfl
@[simp] theorem Seat.jump_rstack (q : Seat) (a : Word) : (q.jump a).rstack = q.rstack := rfl
@[simp] theorem Seat.jump_pend (q : Seat) (a : Word) : (q.jump a).pend = q.pend := rfl
@[simp] theorem Seat.jump_aside (q : Seat) (a : Word) : (q.jump a).aside = q.aside := rfl
@[simp] theorem Seat.jump_resume (q : Seat) (a : Word) : (q.jump a).resume = q.resume := rfl
@[simp] theorem Seat.jump_chan (q : Seat) (a : Word) : (q.jump a).chan = q.chan := rfl
@[simp] theorem Seat.jump_gathers (q : Seat) (a : Word) : (q.jump a).gathers = q.gathers := rfl
@[simp] theorem Seat.jump_fork (q : Seat) (a : Word) : (q.jump a).fork = q.fork := rfl
@[simp] theorem Seat.jump_replay (q : Seat) (a : Word) : (q.jump a).replay = q.replay := rfl
@[simp] theorem Seat.jump_replaySaved (q : Seat) (a : Word) : (q.jump a).replaySaved = q.replaySaved := rfl
@[simp] theorem Seat.jump_byp (q : Seat) (a : Word) : (q.jump a).byp = none := rfl
@[simp] theorem Seat.jump_bypSaved (q : Seat) (a : Word) : (q.jump a).bypSaved = q.bypSaved := rfl
@[simp] theorem Seat.jump_halted (q : Seat) (a : Word) : (q.jump a).halted = q.halted := rfl
@[simp] theorem Seat.jump_wait (q : Seat) (a : Word) : (q.jump a).wait = none := rfl
@[simp] theorem Seat.jump_waitSaved (q : Seat) (a : Word) : (q.jump a).waitSaved = q.waitSaved := rfl
@[simp] theorem Seat.jump_park (q : Seat) (a : Word) : (q.jump a).park = q.park := rfl
@[simp] theorem Seat.jump_yielded (q : Seat) (a : Word) : (q.jump a).yielded = q.yielded := rfl
@[simp] theorem Seat.jump_noWatch (q : Seat) (a : Word) : (q.jump a).noWatch = false := rfl
@[simp] theorem Seat.jump_noWatchSaved (q : Seat) (a : Word) : (q.jump a).noWatchSaved = q.noWatchSaved := rfl
@[simp] theorem Seat.jump_noWatchVp (q : Seat) (a : Word) : (q.jump a).noWatchVp = q.noWatchVp := rfl
@[simp] theorem Seat.jump_sampleCnt (q : Seat) (a : Word) : (q.jump a).sampleCnt = q.sampleCnt := rfl
@[simp] theorem Seat.jump_samples (q : Seat) (a : Word) : (q.jump a).samples = q.samples := rfl
@[simp] theorem Seat.jump_tagsOut (q : Seat) (a : Word) : (q.jump a).tagsOut = q.tagsOut := rfl
@[simp] theorem Seat.jump_home (q : Seat) (a : Word) : (q.jump a).home = q.home := rfl
@[simp] theorem Seat.jump_stopping (q : Seat) (a : Word) : (q.jump a).stopping = q.stopping := rfl
@[simp] theorem Seat.jump_stopSince (q : Seat) (a : Word) : (q.jump a).stopSince = q.stopSince := rfl
@[simp] theorem Seat.jump_declared (q : Seat) (a : Word) : (q.jump a).declared = q.declared := rfl
@[simp] theorem Seat.jump_pendingTrap (q : Seat) (a : Word) : (q.jump a).pendingTrap = q.pendingTrap := rfl

@[simp] theorem Seat.orFlags_ctx (q : Seat) (f : Flags) : (q.orFlags f).ctx = q.ctx := rfl
@[simp] theorem Seat.orFlags_inc (q : Seat) (f : Flags) : (q.orFlags f).inc = q.inc := rfl
@[simp] theorem Seat.orFlags_vi (q : Seat) (f : Flags) : (q.orFlags f).vi = q.vi := rfl
@[simp] theorem Seat.orFlags_handle (q : Seat) (f : Flags) : (q.orFlags f).handle = q.handle := rfl
@[simp] theorem Seat.orFlags_node (q : Seat) (f : Flags) : (q.orFlags f).node = q.node := rfl
@[simp] theorem Seat.orFlags_launch (q : Seat) (f : Flags) : (q.orFlags f).launch = q.launch := rfl
@[simp] theorem Seat.orFlags_single (q : Seat) (f : Flags) : (q.orFlags f).single = q.single := rfl
@[simp] theorem Seat.orFlags_fuse (q : Seat) (f : Flags) : (q.orFlags f).fuse = q.fuse := rfl
@[simp] theorem Seat.orFlags_boundAt (q : Seat) (f : Flags) : (q.orFlags f).boundAt = q.boundAt := rfl
@[simp] theorem Seat.orFlags_pc (q : Seat) (f : Flags) : (q.orFlags f).pc = q.pc := rfl
@[simp] theorem Seat.orFlags_s (q : Seat) (f : Flags) : (q.orFlags f).s = q.s := rfl
@[simp] theorem Seat.orFlags_m (q : Seat) (f : Flags) : (q.orFlags f).m = q.m := rfl
@[simp] theorem Seat.orFlags_v (q : Seat) (f : Flags) : (q.orFlags f).v = q.v := rfl
@[simp] theorem Seat.orFlags_plane (q : Seat) (f : Flags) : (q.orFlags f).plane = q.plane := rfl
@[simp] theorem Seat.orFlags_acc (q : Seat) (f : Flags) : (q.orFlags f).acc = q.acc := rfl
@[simp] theorem Seat.orFlags_buf (q : Seat) (f : Flags) : (q.orFlags f).buf = q.buf := rfl
@[simp] theorem Seat.orFlags_active (q : Seat) (f : Flags) : (q.orFlags f).active = q.active := rfl
@[simp] theorem Seat.orFlags_status (q : Seat) (f : Flags) : (q.orFlags f).status = q.status := rfl
@[simp] theorem Seat.orFlags_tags (q : Seat) (f : Flags) : (q.orFlags f).tags = q.tags := rfl
@[simp] theorem Seat.orFlags_tagfault (q : Seat) (f : Flags) : (q.orFlags f).tagfault = q.tagfault := rfl
@[simp] theorem Seat.orFlags_rstack (q : Seat) (f : Flags) : (q.orFlags f).rstack = q.rstack := rfl
@[simp] theorem Seat.orFlags_pend (q : Seat) (f : Flags) : (q.orFlags f).pend = q.pend := rfl
@[simp] theorem Seat.orFlags_aside (q : Seat) (f : Flags) : (q.orFlags f).aside = q.aside := rfl
@[simp] theorem Seat.orFlags_resume (q : Seat) (f : Flags) : (q.orFlags f).resume = q.resume := rfl
@[simp] theorem Seat.orFlags_chan (q : Seat) (f : Flags) : (q.orFlags f).chan = q.chan := rfl
@[simp] theorem Seat.orFlags_gathers (q : Seat) (f : Flags) : (q.orFlags f).gathers = q.gathers := rfl
@[simp] theorem Seat.orFlags_fork (q : Seat) (f : Flags) : (q.orFlags f).fork = q.fork := rfl
@[simp] theorem Seat.orFlags_replay (q : Seat) (f : Flags) : (q.orFlags f).replay = q.replay := rfl
@[simp] theorem Seat.orFlags_replaySaved (q : Seat) (f : Flags) : (q.orFlags f).replaySaved = q.replaySaved := rfl
@[simp] theorem Seat.orFlags_byp (q : Seat) (f : Flags) : (q.orFlags f).byp = q.byp := rfl
@[simp] theorem Seat.orFlags_bypSaved (q : Seat) (f : Flags) : (q.orFlags f).bypSaved = q.bypSaved := rfl
@[simp] theorem Seat.orFlags_halted (q : Seat) (f : Flags) : (q.orFlags f).halted = q.halted := rfl
@[simp] theorem Seat.orFlags_wait (q : Seat) (f : Flags) : (q.orFlags f).wait = q.wait := rfl
@[simp] theorem Seat.orFlags_waitSaved (q : Seat) (f : Flags) : (q.orFlags f).waitSaved = q.waitSaved := rfl
@[simp] theorem Seat.orFlags_park (q : Seat) (f : Flags) : (q.orFlags f).park = q.park := rfl
@[simp] theorem Seat.orFlags_yielded (q : Seat) (f : Flags) : (q.orFlags f).yielded = q.yielded := rfl
@[simp] theorem Seat.orFlags_noWatch (q : Seat) (f : Flags) : (q.orFlags f).noWatch = q.noWatch := rfl
@[simp] theorem Seat.orFlags_noWatchSaved (q : Seat) (f : Flags) : (q.orFlags f).noWatchSaved = q.noWatchSaved := rfl
@[simp] theorem Seat.orFlags_noWatchVp (q : Seat) (f : Flags) : (q.orFlags f).noWatchVp = q.noWatchVp := rfl
@[simp] theorem Seat.orFlags_sampleCnt (q : Seat) (f : Flags) : (q.orFlags f).sampleCnt = q.sampleCnt := rfl
@[simp] theorem Seat.orFlags_samples (q : Seat) (f : Flags) : (q.orFlags f).samples = q.samples := rfl
@[simp] theorem Seat.orFlags_tagsOut (q : Seat) (f : Flags) : (q.orFlags f).tagsOut = q.tagsOut := rfl
@[simp] theorem Seat.orFlags_home (q : Seat) (f : Flags) : (q.orFlags f).home = q.home := rfl
@[simp] theorem Seat.orFlags_stopping (q : Seat) (f : Flags) : (q.orFlags f).stopping = q.stopping := rfl
@[simp] theorem Seat.orFlags_stopSince (q : Seat) (f : Flags) : (q.orFlags f).stopSince = q.stopSince := rfl
@[simp] theorem Seat.orFlags_declared (q : Seat) (f : Flags) : (q.orFlags f).declared = q.declared := rfl
@[simp] theorem Seat.orFlags_pendingTrap (q : Seat) (f : Flags) : (q.orFlags f).pendingTrap = q.pendingTrap := rfl

@[simp] theorem Seat.noteReplay_ctx (q : Seat)  : (q.noteReplay).ctx = q.ctx := by unfold Seat.noteReplay; split <;> rfl
@[simp] theorem Seat.noteReplay_inc (q : Seat)  : (q.noteReplay).inc = q.inc := by unfold Seat.noteReplay; split <;> rfl
@[simp] theorem Seat.noteReplay_vi (q : Seat)  : (q.noteReplay).vi = q.vi := by unfold Seat.noteReplay; split <;> rfl
@[simp] theorem Seat.noteReplay_handle (q : Seat)  : (q.noteReplay).handle = q.handle := by unfold Seat.noteReplay; split <;> rfl
@[simp] theorem Seat.noteReplay_node (q : Seat)  : (q.noteReplay).node = q.node := by unfold Seat.noteReplay; split <;> rfl
@[simp] theorem Seat.noteReplay_launch (q : Seat)  : (q.noteReplay).launch = q.launch := by unfold Seat.noteReplay; split <;> rfl
@[simp] theorem Seat.noteReplay_single (q : Seat)  : (q.noteReplay).single = q.single := by unfold Seat.noteReplay; split <;> rfl
@[simp] theorem Seat.noteReplay_fuse (q : Seat)  : (q.noteReplay).fuse = q.fuse := by unfold Seat.noteReplay; split <;> rfl
@[simp] theorem Seat.noteReplay_boundAt (q : Seat)  : (q.noteReplay).boundAt = q.boundAt := by unfold Seat.noteReplay; split <;> rfl
@[simp] theorem Seat.noteReplay_pc (q : Seat)  : (q.noteReplay).pc = q.pc := by unfold Seat.noteReplay; split <;> rfl
@[simp] theorem Seat.noteReplay_s (q : Seat)  : (q.noteReplay).s = q.s := by unfold Seat.noteReplay; split <;> rfl
@[simp] theorem Seat.noteReplay_m (q : Seat)  : (q.noteReplay).m = q.m := by unfold Seat.noteReplay; split <;> rfl
@[simp] theorem Seat.noteReplay_v (q : Seat)  : (q.noteReplay).v = q.v := by unfold Seat.noteReplay; split <;> rfl
@[simp] theorem Seat.noteReplay_plane (q : Seat)  : (q.noteReplay).plane = q.plane := by unfold Seat.noteReplay; split <;> rfl
@[simp] theorem Seat.noteReplay_acc (q : Seat)  : (q.noteReplay).acc = q.acc := by unfold Seat.noteReplay; split <;> rfl
@[simp] theorem Seat.noteReplay_buf (q : Seat)  : (q.noteReplay).buf = q.buf := by unfold Seat.noteReplay; split <;> rfl
@[simp] theorem Seat.noteReplay_active (q : Seat)  : (q.noteReplay).active = q.active := by unfold Seat.noteReplay; split <;> rfl
@[simp] theorem Seat.noteReplay_status (q : Seat)  : (q.noteReplay).status = q.status := by unfold Seat.noteReplay; split <;> rfl
@[simp] theorem Seat.noteReplay_tags (q : Seat)  : (q.noteReplay).tags = q.tags := by unfold Seat.noteReplay; split <;> rfl
@[simp] theorem Seat.noteReplay_tagfault (q : Seat)  : (q.noteReplay).tagfault = q.tagfault := by unfold Seat.noteReplay; split <;> rfl
@[simp] theorem Seat.noteReplay_rstack (q : Seat)  : (q.noteReplay).rstack = q.rstack := by unfold Seat.noteReplay; split <;> rfl
@[simp] theorem Seat.noteReplay_pend (q : Seat)  : (q.noteReplay).pend = q.pend := by unfold Seat.noteReplay; split <;> rfl
@[simp] theorem Seat.noteReplay_aside (q : Seat)  : (q.noteReplay).aside = q.aside := by unfold Seat.noteReplay; split <;> rfl
@[simp] theorem Seat.noteReplay_resume (q : Seat)  : (q.noteReplay).resume = q.resume := by unfold Seat.noteReplay; split <;> rfl
@[simp] theorem Seat.noteReplay_chan (q : Seat)  : (q.noteReplay).chan = q.chan := by unfold Seat.noteReplay; split <;> rfl
@[simp] theorem Seat.noteReplay_gathers (q : Seat)  : (q.noteReplay).gathers = q.gathers := by unfold Seat.noteReplay; split <;> rfl
@[simp] theorem Seat.noteReplay_fork (q : Seat)  : (q.noteReplay).fork = q.fork := by unfold Seat.noteReplay; split <;> rfl
@[simp] theorem Seat.noteReplay_replay (q : Seat)  : (q.noteReplay).replay = q.replay := by unfold Seat.noteReplay; split <;> rfl
@[simp] theorem Seat.noteReplay_replaySaved (q : Seat)  : (q.noteReplay).replaySaved = q.replaySaved := by unfold Seat.noteReplay; split <;> rfl
@[simp] theorem Seat.noteReplay_byp (q : Seat)  : (q.noteReplay).byp = q.byp := by unfold Seat.noteReplay; split <;> rfl
@[simp] theorem Seat.noteReplay_bypSaved (q : Seat)  : (q.noteReplay).bypSaved = q.bypSaved := by unfold Seat.noteReplay; split <;> rfl
@[simp] theorem Seat.noteReplay_halted (q : Seat)  : (q.noteReplay).halted = q.halted := by unfold Seat.noteReplay; split <;> rfl
@[simp] theorem Seat.noteReplay_wait (q : Seat)  : (q.noteReplay).wait = q.wait := by unfold Seat.noteReplay; split <;> rfl
@[simp] theorem Seat.noteReplay_waitSaved (q : Seat)  : (q.noteReplay).waitSaved = q.waitSaved := by unfold Seat.noteReplay; split <;> rfl
@[simp] theorem Seat.noteReplay_park (q : Seat)  : (q.noteReplay).park = q.park := by unfold Seat.noteReplay; split <;> rfl
@[simp] theorem Seat.noteReplay_yielded (q : Seat)  : (q.noteReplay).yielded = q.yielded := by unfold Seat.noteReplay; split <;> rfl
@[simp] theorem Seat.noteReplay_noWatch (q : Seat)  : (q.noteReplay).noWatch = q.noWatch := by unfold Seat.noteReplay; split <;> rfl
@[simp] theorem Seat.noteReplay_noWatchSaved (q : Seat)  : (q.noteReplay).noWatchSaved = q.noWatchSaved := by unfold Seat.noteReplay; split <;> rfl
@[simp] theorem Seat.noteReplay_noWatchVp (q : Seat)  : (q.noteReplay).noWatchVp = q.noWatchVp := by unfold Seat.noteReplay; split <;> rfl
@[simp] theorem Seat.noteReplay_sampleCnt (q : Seat)  : (q.noteReplay).sampleCnt = q.sampleCnt := by unfold Seat.noteReplay; split <;> rfl
@[simp] theorem Seat.noteReplay_samples (q : Seat)  : (q.noteReplay).samples = q.samples := by unfold Seat.noteReplay; split <;> rfl
@[simp] theorem Seat.noteReplay_tagsOut (q : Seat)  : (q.noteReplay).tagsOut = q.tagsOut := by unfold Seat.noteReplay; split <;> rfl
@[simp] theorem Seat.noteReplay_home (q : Seat)  : (q.noteReplay).home = q.home := by unfold Seat.noteReplay; split <;> rfl
@[simp] theorem Seat.noteReplay_stopping (q : Seat)  : (q.noteReplay).stopping = q.stopping := by unfold Seat.noteReplay; split <;> rfl
@[simp] theorem Seat.noteReplay_stopSince (q : Seat)  : (q.noteReplay).stopSince = q.stopSince := by unfold Seat.noteReplay; split <;> rfl
@[simp] theorem Seat.noteReplay_declared (q : Seat)  : (q.noteReplay).declared = q.declared := by unfold Seat.noteReplay; split <;> rfl
@[simp] theorem Seat.noteReplay_pendingTrap (q : Seat)  : (q.noteReplay).pendingTrap = q.pendingTrap := by unfold Seat.noteReplay; split <;> rfl

@[simp] theorem Seat.setLane_ctx (q : Seat) (l : Nat) (r : Reg) (v : BitVec 32) : (q.setLane l r v).ctx = q.ctx := by unfold Seat.setLane; split <;> rfl
@[simp] theorem Seat.setLane_inc (q : Seat) (l : Nat) (r : Reg) (v : BitVec 32) : (q.setLane l r v).inc = q.inc := by unfold Seat.setLane; split <;> rfl
@[simp] theorem Seat.setLane_vi (q : Seat) (l : Nat) (r : Reg) (v : BitVec 32) : (q.setLane l r v).vi = q.vi := by unfold Seat.setLane; split <;> rfl
@[simp] theorem Seat.setLane_handle (q : Seat) (l : Nat) (r : Reg) (v : BitVec 32) : (q.setLane l r v).handle = q.handle := by unfold Seat.setLane; split <;> rfl
@[simp] theorem Seat.setLane_node (q : Seat) (l : Nat) (r : Reg) (v : BitVec 32) : (q.setLane l r v).node = q.node := by unfold Seat.setLane; split <;> rfl
@[simp] theorem Seat.setLane_launch (q : Seat) (l : Nat) (r : Reg) (v : BitVec 32) : (q.setLane l r v).launch = q.launch := by unfold Seat.setLane; split <;> rfl
@[simp] theorem Seat.setLane_single (q : Seat) (l : Nat) (r : Reg) (v : BitVec 32) : (q.setLane l r v).single = q.single := by unfold Seat.setLane; split <;> rfl
@[simp] theorem Seat.setLane_fuse (q : Seat) (l : Nat) (r : Reg) (v : BitVec 32) : (q.setLane l r v).fuse = q.fuse := by unfold Seat.setLane; split <;> rfl
@[simp] theorem Seat.setLane_boundAt (q : Seat) (l : Nat) (r : Reg) (v : BitVec 32) : (q.setLane l r v).boundAt = q.boundAt := by unfold Seat.setLane; split <;> rfl
@[simp] theorem Seat.setLane_pc (q : Seat) (l : Nat) (r : Reg) (v : BitVec 32) : (q.setLane l r v).pc = q.pc := by unfold Seat.setLane; split <;> rfl
@[simp] theorem Seat.setLane_s (q : Seat) (l : Nat) (r : Reg) (v : BitVec 32) : (q.setLane l r v).s = q.s := by unfold Seat.setLane; split <;> rfl
@[simp] theorem Seat.setLane_m (q : Seat) (l : Nat) (r : Reg) (v : BitVec 32) : (q.setLane l r v).m = q.m := by unfold Seat.setLane; split <;> rfl
@[simp] theorem Seat.setLane_v (q : Seat) (l : Nat) (r : Reg) (v : BitVec 32) : (q.setLane l r v).v = q.v := by unfold Seat.setLane; split <;> rfl
@[simp] theorem Seat.setLane_acc (q : Seat) (l : Nat) (r : Reg) (v : BitVec 32) : (q.setLane l r v).acc = q.acc := by unfold Seat.setLane; split <;> rfl
@[simp] theorem Seat.setLane_buf (q : Seat) (l : Nat) (r : Reg) (v : BitVec 32) : (q.setLane l r v).buf = q.buf := by unfold Seat.setLane; split <;> rfl
@[simp] theorem Seat.setLane_active (q : Seat) (l : Nat) (r : Reg) (v : BitVec 32) : (q.setLane l r v).active = q.active := by unfold Seat.setLane; split <;> rfl
@[simp] theorem Seat.setLane_status (q : Seat) (l : Nat) (r : Reg) (v : BitVec 32) : (q.setLane l r v).status = q.status := by unfold Seat.setLane; split <;> rfl
@[simp] theorem Seat.setLane_sr (q : Seat) (l : Nat) (r : Reg) (v : BitVec 32) : (q.setLane l r v).sr = q.sr := by unfold Seat.setLane; split <;> rfl
@[simp] theorem Seat.setLane_tags (q : Seat) (l : Nat) (r : Reg) (v : BitVec 32) : (q.setLane l r v).tags = q.tags := by unfold Seat.setLane; split <;> rfl
@[simp] theorem Seat.setLane_tagfault (q : Seat) (l : Nat) (r : Reg) (v : BitVec 32) : (q.setLane l r v).tagfault = q.tagfault := by unfold Seat.setLane; split <;> rfl
@[simp] theorem Seat.setLane_rstack (q : Seat) (l : Nat) (r : Reg) (v : BitVec 32) : (q.setLane l r v).rstack = q.rstack := by unfold Seat.setLane; split <;> rfl
@[simp] theorem Seat.setLane_pend (q : Seat) (l : Nat) (r : Reg) (v : BitVec 32) : (q.setLane l r v).pend = q.pend := by unfold Seat.setLane; split <;> rfl
@[simp] theorem Seat.setLane_aside (q : Seat) (l : Nat) (r : Reg) (v : BitVec 32) : (q.setLane l r v).aside = q.aside := by unfold Seat.setLane; split <;> rfl
@[simp] theorem Seat.setLane_resume (q : Seat) (l : Nat) (r : Reg) (v : BitVec 32) : (q.setLane l r v).resume = q.resume := by unfold Seat.setLane; split <;> rfl
@[simp] theorem Seat.setLane_chan (q : Seat) (l : Nat) (r : Reg) (v : BitVec 32) : (q.setLane l r v).chan = q.chan := by unfold Seat.setLane; split <;> rfl
@[simp] theorem Seat.setLane_gathers (q : Seat) (l : Nat) (r : Reg) (v : BitVec 32) : (q.setLane l r v).gathers = q.gathers := by unfold Seat.setLane; split <;> rfl
@[simp] theorem Seat.setLane_fork (q : Seat) (l : Nat) (r : Reg) (v : BitVec 32) : (q.setLane l r v).fork = q.fork := by unfold Seat.setLane; split <;> rfl
@[simp] theorem Seat.setLane_replay (q : Seat) (l : Nat) (r : Reg) (v : BitVec 32) : (q.setLane l r v).replay = q.replay := by unfold Seat.setLane; split <;> rfl
@[simp] theorem Seat.setLane_replaySaved (q : Seat) (l : Nat) (r : Reg) (v : BitVec 32) : (q.setLane l r v).replaySaved = q.replaySaved := by unfold Seat.setLane; split <;> rfl
@[simp] theorem Seat.setLane_byp (q : Seat) (l : Nat) (r : Reg) (v : BitVec 32) : (q.setLane l r v).byp = q.byp := by unfold Seat.setLane; split <;> rfl
@[simp] theorem Seat.setLane_bypSaved (q : Seat) (l : Nat) (r : Reg) (v : BitVec 32) : (q.setLane l r v).bypSaved = q.bypSaved := by unfold Seat.setLane; split <;> rfl
@[simp] theorem Seat.setLane_halted (q : Seat) (l : Nat) (r : Reg) (v : BitVec 32) : (q.setLane l r v).halted = q.halted := by unfold Seat.setLane; split <;> rfl
@[simp] theorem Seat.setLane_wait (q : Seat) (l : Nat) (r : Reg) (v : BitVec 32) : (q.setLane l r v).wait = q.wait := by unfold Seat.setLane; split <;> rfl
@[simp] theorem Seat.setLane_waitSaved (q : Seat) (l : Nat) (r : Reg) (v : BitVec 32) : (q.setLane l r v).waitSaved = q.waitSaved := by unfold Seat.setLane; split <;> rfl
@[simp] theorem Seat.setLane_park (q : Seat) (l : Nat) (r : Reg) (v : BitVec 32) : (q.setLane l r v).park = q.park := by unfold Seat.setLane; split <;> rfl
@[simp] theorem Seat.setLane_yielded (q : Seat) (l : Nat) (r : Reg) (v : BitVec 32) : (q.setLane l r v).yielded = q.yielded := by unfold Seat.setLane; split <;> rfl
@[simp] theorem Seat.setLane_noWatch (q : Seat) (l : Nat) (r : Reg) (v : BitVec 32) : (q.setLane l r v).noWatch = q.noWatch := by unfold Seat.setLane; split <;> rfl
@[simp] theorem Seat.setLane_noWatchSaved (q : Seat) (l : Nat) (r : Reg) (v : BitVec 32) : (q.setLane l r v).noWatchSaved = q.noWatchSaved := by unfold Seat.setLane; split <;> rfl
@[simp] theorem Seat.setLane_noWatchVp (q : Seat) (l : Nat) (r : Reg) (v : BitVec 32) : (q.setLane l r v).noWatchVp = q.noWatchVp := by unfold Seat.setLane; split <;> rfl
@[simp] theorem Seat.setLane_sampleCnt (q : Seat) (l : Nat) (r : Reg) (v : BitVec 32) : (q.setLane l r v).sampleCnt = q.sampleCnt := by unfold Seat.setLane; split <;> rfl
@[simp] theorem Seat.setLane_samples (q : Seat) (l : Nat) (r : Reg) (v : BitVec 32) : (q.setLane l r v).samples = q.samples := by unfold Seat.setLane; split <;> rfl
@[simp] theorem Seat.setLane_tagsOut (q : Seat) (l : Nat) (r : Reg) (v : BitVec 32) : (q.setLane l r v).tagsOut = q.tagsOut := by unfold Seat.setLane; split <;> rfl
@[simp] theorem Seat.setLane_home (q : Seat) (l : Nat) (r : Reg) (v : BitVec 32) : (q.setLane l r v).home = q.home := by unfold Seat.setLane; split <;> rfl
@[simp] theorem Seat.setLane_stopping (q : Seat) (l : Nat) (r : Reg) (v : BitVec 32) : (q.setLane l r v).stopping = q.stopping := by unfold Seat.setLane; split <;> rfl
@[simp] theorem Seat.setLane_stopSince (q : Seat) (l : Nat) (r : Reg) (v : BitVec 32) : (q.setLane l r v).stopSince = q.stopSince := by unfold Seat.setLane; split <;> rfl
@[simp] theorem Seat.setLane_declared (q : Seat) (l : Nat) (r : Reg) (v : BitVec 32) : (q.setLane l r v).declared = q.declared := by unfold Seat.setLane; split <;> rfl
@[simp] theorem Seat.setLane_pendingTrap (q : Seat) (l : Nat) (r : Reg) (v : BitVec 32) : (q.setLane l r v).pendingTrap = q.pendingTrap := by unfold Seat.setLane; split <;> rfl

@[simp] theorem Seat.vpTo_ctx (q : Seat) (l : Nat) (a : Word) : (q.vpTo l a).ctx = q.ctx := rfl
@[simp] theorem Seat.vpTo_inc (q : Seat) (l : Nat) (a : Word) : (q.vpTo l a).inc = q.inc := rfl
@[simp] theorem Seat.vpTo_vi (q : Seat) (l : Nat) (a : Word) : (q.vpTo l a).vi = q.vi := rfl
@[simp] theorem Seat.vpTo_handle (q : Seat) (l : Nat) (a : Word) : (q.vpTo l a).handle = q.handle := rfl
@[simp] theorem Seat.vpTo_node (q : Seat) (l : Nat) (a : Word) : (q.vpTo l a).node = q.node := rfl
@[simp] theorem Seat.vpTo_launch (q : Seat) (l : Nat) (a : Word) : (q.vpTo l a).launch = q.launch := rfl
@[simp] theorem Seat.vpTo_single (q : Seat) (l : Nat) (a : Word) : (q.vpTo l a).single = q.single := rfl
@[simp] theorem Seat.vpTo_fuse (q : Seat) (l : Nat) (a : Word) : (q.vpTo l a).fuse = q.fuse := rfl
@[simp] theorem Seat.vpTo_boundAt (q : Seat) (l : Nat) (a : Word) : (q.vpTo l a).boundAt = q.boundAt := rfl
@[simp] theorem Seat.vpTo_pc (q : Seat) (l : Nat) (a : Word) : (q.vpTo l a).pc = q.pc := rfl
@[simp] theorem Seat.vpTo_s (q : Seat) (l : Nat) (a : Word) : (q.vpTo l a).s = q.s := rfl
@[simp] theorem Seat.vpTo_m (q : Seat) (l : Nat) (a : Word) : (q.vpTo l a).m = q.m := rfl
@[simp] theorem Seat.vpTo_v (q : Seat) (l : Nat) (a : Word) : (q.vpTo l a).v = q.v := rfl
@[simp] theorem Seat.vpTo_plane (q : Seat) (l : Nat) (a : Word) : (q.vpTo l a).plane = q.plane := rfl
@[simp] theorem Seat.vpTo_acc (q : Seat) (l : Nat) (a : Word) : (q.vpTo l a).acc = q.acc := rfl
@[simp] theorem Seat.vpTo_buf (q : Seat) (l : Nat) (a : Word) : (q.vpTo l a).buf = q.buf := rfl
@[simp] theorem Seat.vpTo_active (q : Seat) (l : Nat) (a : Word) : (q.vpTo l a).active = q.active := rfl
@[simp] theorem Seat.vpTo_status (q : Seat) (l : Nat) (a : Word) : (q.vpTo l a).status = q.status := rfl
@[simp] theorem Seat.vpTo_sr (q : Seat) (l : Nat) (a : Word) : (q.vpTo l a).sr = q.sr := rfl
@[simp] theorem Seat.vpTo_tags (q : Seat) (l : Nat) (a : Word) : (q.vpTo l a).tags = q.tags := rfl
@[simp] theorem Seat.vpTo_tagfault (q : Seat) (l : Nat) (a : Word) : (q.vpTo l a).tagfault = q.tagfault := rfl
@[simp] theorem Seat.vpTo_rstack (q : Seat) (l : Nat) (a : Word) : (q.vpTo l a).rstack = q.rstack := rfl
@[simp] theorem Seat.vpTo_pend (q : Seat) (l : Nat) (a : Word) : (q.vpTo l a).pend = q.pend := rfl
@[simp] theorem Seat.vpTo_aside (q : Seat) (l : Nat) (a : Word) : (q.vpTo l a).aside = q.aside := rfl
@[simp] theorem Seat.vpTo_resume (q : Seat) (l : Nat) (a : Word) : (q.vpTo l a).resume = q.resume := rfl
@[simp] theorem Seat.vpTo_chan (q : Seat) (l : Nat) (a : Word) : (q.vpTo l a).chan = q.chan := rfl
@[simp] theorem Seat.vpTo_gathers (q : Seat) (l : Nat) (a : Word) : (q.vpTo l a).gathers = q.gathers := rfl
@[simp] theorem Seat.vpTo_replay (q : Seat) (l : Nat) (a : Word) : (q.vpTo l a).replay = q.replay := rfl
@[simp] theorem Seat.vpTo_replaySaved (q : Seat) (l : Nat) (a : Word) : (q.vpTo l a).replaySaved = q.replaySaved := rfl
@[simp] theorem Seat.vpTo_byp (q : Seat) (l : Nat) (a : Word) : (q.vpTo l a).byp = q.byp := rfl
@[simp] theorem Seat.vpTo_bypSaved (q : Seat) (l : Nat) (a : Word) : (q.vpTo l a).bypSaved = q.bypSaved := rfl
@[simp] theorem Seat.vpTo_halted (q : Seat) (l : Nat) (a : Word) : (q.vpTo l a).halted = q.halted := rfl
@[simp] theorem Seat.vpTo_wait (q : Seat) (l : Nat) (a : Word) : (q.vpTo l a).wait = q.wait := rfl
@[simp] theorem Seat.vpTo_waitSaved (q : Seat) (l : Nat) (a : Word) : (q.vpTo l a).waitSaved = q.waitSaved := rfl
@[simp] theorem Seat.vpTo_park (q : Seat) (l : Nat) (a : Word) : (q.vpTo l a).park = q.park := rfl
@[simp] theorem Seat.vpTo_yielded (q : Seat) (l : Nat) (a : Word) : (q.vpTo l a).yielded = q.yielded := rfl
@[simp] theorem Seat.vpTo_noWatch (q : Seat) (l : Nat) (a : Word) : (q.vpTo l a).noWatch = q.noWatch := rfl
@[simp] theorem Seat.vpTo_noWatchSaved (q : Seat) (l : Nat) (a : Word) : (q.vpTo l a).noWatchSaved = q.noWatchSaved := rfl
@[simp] theorem Seat.vpTo_sampleCnt (q : Seat) (l : Nat) (a : Word) : (q.vpTo l a).sampleCnt = q.sampleCnt := rfl
@[simp] theorem Seat.vpTo_samples (q : Seat) (l : Nat) (a : Word) : (q.vpTo l a).samples = q.samples := rfl
@[simp] theorem Seat.vpTo_tagsOut (q : Seat) (l : Nat) (a : Word) : (q.vpTo l a).tagsOut = q.tagsOut := rfl
@[simp] theorem Seat.vpTo_home (q : Seat) (l : Nat) (a : Word) : (q.vpTo l a).home = q.home := rfl
@[simp] theorem Seat.vpTo_stopping (q : Seat) (l : Nat) (a : Word) : (q.vpTo l a).stopping = q.stopping := rfl
@[simp] theorem Seat.vpTo_stopSince (q : Seat) (l : Nat) (a : Word) : (q.vpTo l a).stopSince = q.stopSince := rfl
@[simp] theorem Seat.vpTo_declared (q : Seat) (l : Nat) (a : Word) : (q.vpTo l a).declared = q.declared := rfl
@[simp] theorem Seat.vpTo_pendingTrap (q : Seat) (l : Nat) (a : Word) : (q.vpTo l a).pendingTrap = q.pendingTrap := rfl

@[simp] theorem Seat.setVp_ctx (q : Seat) (l : Nat) (v : Vp) : (q.setVp l v).ctx = q.ctx := rfl
@[simp] theorem Seat.setVp_inc (q : Seat) (l : Nat) (v : Vp) : (q.setVp l v).inc = q.inc := rfl
@[simp] theorem Seat.setVp_vi (q : Seat) (l : Nat) (v : Vp) : (q.setVp l v).vi = q.vi := rfl
@[simp] theorem Seat.setVp_handle (q : Seat) (l : Nat) (v : Vp) : (q.setVp l v).handle = q.handle := rfl
@[simp] theorem Seat.setVp_node (q : Seat) (l : Nat) (v : Vp) : (q.setVp l v).node = q.node := rfl
@[simp] theorem Seat.setVp_launch (q : Seat) (l : Nat) (v : Vp) : (q.setVp l v).launch = q.launch := rfl
@[simp] theorem Seat.setVp_single (q : Seat) (l : Nat) (v : Vp) : (q.setVp l v).single = q.single := rfl
@[simp] theorem Seat.setVp_fuse (q : Seat) (l : Nat) (v : Vp) : (q.setVp l v).fuse = q.fuse := rfl
@[simp] theorem Seat.setVp_boundAt (q : Seat) (l : Nat) (v : Vp) : (q.setVp l v).boundAt = q.boundAt := rfl
@[simp] theorem Seat.setVp_pc (q : Seat) (l : Nat) (v : Vp) : (q.setVp l v).pc = q.pc := rfl
@[simp] theorem Seat.setVp_s (q : Seat) (l : Nat) (v : Vp) : (q.setVp l v).s = q.s := rfl
@[simp] theorem Seat.setVp_m (q : Seat) (l : Nat) (v : Vp) : (q.setVp l v).m = q.m := rfl
@[simp] theorem Seat.setVp_v (q : Seat) (l : Nat) (v : Vp) : (q.setVp l v).v = q.v := rfl
@[simp] theorem Seat.setVp_plane (q : Seat) (l : Nat) (v : Vp) : (q.setVp l v).plane = q.plane := rfl
@[simp] theorem Seat.setVp_acc (q : Seat) (l : Nat) (v : Vp) : (q.setVp l v).acc = q.acc := rfl
@[simp] theorem Seat.setVp_buf (q : Seat) (l : Nat) (v : Vp) : (q.setVp l v).buf = q.buf := rfl
@[simp] theorem Seat.setVp_active (q : Seat) (l : Nat) (v : Vp) : (q.setVp l v).active = q.active := rfl
@[simp] theorem Seat.setVp_status (q : Seat) (l : Nat) (v : Vp) : (q.setVp l v).status = q.status := rfl
@[simp] theorem Seat.setVp_sr (q : Seat) (l : Nat) (v : Vp) : (q.setVp l v).sr = q.sr := rfl
@[simp] theorem Seat.setVp_tags (q : Seat) (l : Nat) (v : Vp) : (q.setVp l v).tags = q.tags := rfl
@[simp] theorem Seat.setVp_tagfault (q : Seat) (l : Nat) (v : Vp) : (q.setVp l v).tagfault = q.tagfault := rfl
@[simp] theorem Seat.setVp_rstack (q : Seat) (l : Nat) (v : Vp) : (q.setVp l v).rstack = q.rstack := rfl
@[simp] theorem Seat.setVp_pend (q : Seat) (l : Nat) (v : Vp) : (q.setVp l v).pend = q.pend := rfl
@[simp] theorem Seat.setVp_aside (q : Seat) (l : Nat) (v : Vp) : (q.setVp l v).aside = q.aside := rfl
@[simp] theorem Seat.setVp_resume (q : Seat) (l : Nat) (v : Vp) : (q.setVp l v).resume = q.resume := rfl
@[simp] theorem Seat.setVp_chan (q : Seat) (l : Nat) (v : Vp) : (q.setVp l v).chan = q.chan := rfl
@[simp] theorem Seat.setVp_gathers (q : Seat) (l : Nat) (v : Vp) : (q.setVp l v).gathers = q.gathers := rfl
@[simp] theorem Seat.setVp_replay (q : Seat) (l : Nat) (v : Vp) : (q.setVp l v).replay = q.replay := rfl
@[simp] theorem Seat.setVp_replaySaved (q : Seat) (l : Nat) (v : Vp) : (q.setVp l v).replaySaved = q.replaySaved := rfl
@[simp] theorem Seat.setVp_byp (q : Seat) (l : Nat) (v : Vp) : (q.setVp l v).byp = q.byp := rfl
@[simp] theorem Seat.setVp_bypSaved (q : Seat) (l : Nat) (v : Vp) : (q.setVp l v).bypSaved = q.bypSaved := rfl
@[simp] theorem Seat.setVp_halted (q : Seat) (l : Nat) (v : Vp) : (q.setVp l v).halted = q.halted := rfl
@[simp] theorem Seat.setVp_wait (q : Seat) (l : Nat) (v : Vp) : (q.setVp l v).wait = q.wait := rfl
@[simp] theorem Seat.setVp_waitSaved (q : Seat) (l : Nat) (v : Vp) : (q.setVp l v).waitSaved = q.waitSaved := rfl
@[simp] theorem Seat.setVp_park (q : Seat) (l : Nat) (v : Vp) : (q.setVp l v).park = q.park := rfl
@[simp] theorem Seat.setVp_yielded (q : Seat) (l : Nat) (v : Vp) : (q.setVp l v).yielded = q.yielded := rfl
@[simp] theorem Seat.setVp_noWatch (q : Seat) (l : Nat) (v : Vp) : (q.setVp l v).noWatch = q.noWatch := rfl
@[simp] theorem Seat.setVp_noWatchSaved (q : Seat) (l : Nat) (v : Vp) : (q.setVp l v).noWatchSaved = q.noWatchSaved := rfl
@[simp] theorem Seat.setVp_noWatchVp (q : Seat) (l : Nat) (v : Vp) : (q.setVp l v).noWatchVp = q.noWatchVp := rfl
@[simp] theorem Seat.setVp_sampleCnt (q : Seat) (l : Nat) (v : Vp) : (q.setVp l v).sampleCnt = q.sampleCnt := rfl
@[simp] theorem Seat.setVp_samples (q : Seat) (l : Nat) (v : Vp) : (q.setVp l v).samples = q.samples := rfl
@[simp] theorem Seat.setVp_tagsOut (q : Seat) (l : Nat) (v : Vp) : (q.setVp l v).tagsOut = q.tagsOut := rfl
@[simp] theorem Seat.setVp_home (q : Seat) (l : Nat) (v : Vp) : (q.setVp l v).home = q.home := rfl
@[simp] theorem Seat.setVp_stopping (q : Seat) (l : Nat) (v : Vp) : (q.setVp l v).stopping = q.stopping := rfl
@[simp] theorem Seat.setVp_stopSince (q : Seat) (l : Nat) (v : Vp) : (q.setVp l v).stopSince = q.stopSince := rfl
@[simp] theorem Seat.setVp_declared (q : Seat) (l : Nat) (v : Vp) : (q.setVp l v).declared = q.declared := rfl
@[simp] theorem Seat.setVp_pendingTrap (q : Seat) (l : Nat) (v : Vp) : (q.setVp l v).pendingTrap = q.pendingTrap := rfl

end Sys2Proof.Machine
end

