-- ==== Sys2Proof/Laws/Maps.lean ====
section
/-!
SUPPORT. Sys2Proof/Laws/Maps.lean: finite maps in their canonical form: reading after an insertion, an erasure or a set,
and what keeps the form.
-/
namespace Sys2Proof.Machine

/-! ### Reading after an update -/

@[simp] theorem mapFind_nil {α : Type} (k : Nat) : mapFind ([] : Sparse α) k = none := rfl

theorem mapFind_insert_self {α : Type} (m : Sparse α) (k : Nat) (v : α) : mapFind (mapInsert m k v) k = some v := by
  induction m with
  | nil => simp [mapInsert, mapFind]
  | cons x t ih =>
    obtain ⟨j, w⟩ := x
    simp only [mapInsert]
    split
    · simp [mapFind]
    · split
      · simp [mapFind]
      · rename_i h1 h2
        simp [mapFind, h1, h2, ih]

theorem mapFind_insert_ne {α : Type} (m : Sparse α) {k j : Nat} (v : α) (h : j ≠ k) :
    mapFind (mapInsert m k v) j = mapFind m j := by
  induction m with
  | nil => simp [mapInsert, mapFind, Ne.symm h]
  | cons x t ih =>
    obtain ⟨i, w⟩ := x
    simp only [mapInsert]
    split
    · rename_i h1
      simp only [mapFind, Ne.symm h, if_false]
      split
      · rename_i h2
        have h3 : ¬ i = j := by omega
        have h4 : j < i := by omega
        simp [h3, h4]
      · rfl
    · split
      · rename_i h1 h2
        subst h2
        simp [mapFind, Ne.symm h]
      · simp [mapFind, ih]

theorem mapFind_insert {α : Type} (m : Sparse α) (k j : Nat) (v : α) :
    mapFind (mapInsert m k v) j = if j = k then some v else mapFind m j := by
  split
  · rename_i h; subst h; exact mapFind_insert_self m j v
  · rename_i h; exact mapFind_insert_ne m v h

/-- Below the first key of a map in canonical form nothing is listed. -/
theorem mapFind_below {α : Type} {ok : α → Bool} {m : Sparse α} {lo k : Nat} (h : mapOkFrom ok lo m = true) (hk : k < lo) :
    mapFind m k = none := by
  cases m with
  | nil => rfl
  | cons x t =>
    obtain ⟨j, w⟩ := x
    simp only [mapOkFrom, Bool.and_eq_true, decide_eq_true_eq] at h
    have h1 : ¬ j = k := by omega
    have h2 : k < j := by omega
    simp [mapFind, h1, h2]

theorem mapFind_erase {α : Type} {ok : α → Bool} {m : Sparse α} {lo : Nat} (h : mapOkFrom ok lo m = true) (k j : Nat) :
    mapFind (mapErase m k) j = if j = k then none else mapFind m j := by
  induction m generalizing lo with
  | nil => simp [mapErase, mapFind]
  | cons x t ih =>
    obtain ⟨i, w⟩ := x
    simp only [mapOkFrom, Bool.and_eq_true, decide_eq_true_eq] at h
    obtain ⟨⟨h1, h2⟩, h3⟩ := h
    simp only [mapErase]
    split
    · split
      · have a : ¬ i = j := by omega
        have b : j < i := by omega
        simp [mapFind, a, b]
      · rfl
    · split
      · split
        · exact mapFind_below h3 (by omega)
        · have a : ¬ i = j := by omega
          simp only [mapFind, a, if_false]
          split
          · exact mapFind_below h3 (by omega)
          · rfl
      · rename_i h4 h5
        simp only [mapFind, ih h3]
        split
        · have a : ¬ j = k := by omega
          simp [a]
        · split
          · simp
          · rfl

/-! ### The canonical form -/

theorem mapOkFrom_mono {α : Type} {ok : α → Bool} {m : Sparse α} {lo lo' : Nat} (h : mapOkFrom ok lo m = true) (l : lo' ≤ lo) :
    mapOkFrom ok lo' m = true := by
  cases m with
  | nil => rfl
  | cons x t =>
    obtain ⟨j, w⟩ := x
    simp only [mapOkFrom, Bool.and_eq_true, decide_eq_true_eq] at h ⊢
    exact ⟨⟨by omega, h.1.2⟩, h.2⟩

theorem mapOkFrom_insert {α : Type} {ok : α → Bool} {m : Sparse α} {lo k : Nat} {v : α} (h : mapOkFrom ok lo m = true)
    (hk : lo ≤ k) (hv : ok v = true) : mapOkFrom ok lo (mapInsert m k v) = true := by
  induction m generalizing lo with
  | nil => simp [mapInsert, mapOkFrom, hk, hv]
  | cons x t ih =>
    obtain ⟨j, w⟩ := x
    simp only [mapOkFrom, Bool.and_eq_true, decide_eq_true_eq] at h
    obtain ⟨⟨h1, h2⟩, h3⟩ := h
    simp only [mapInsert]
    split
    · simp only [mapOkFrom, Bool.and_eq_true, decide_eq_true_eq]
      exact ⟨⟨hk, hv⟩, ⟨by omega, h2⟩, h3⟩
    · split
      · rename_i h5
        subst h5
        simp only [mapOkFrom, Bool.and_eq_true, decide_eq_true_eq]
        exact ⟨⟨hk, hv⟩, h3⟩
      · simp only [mapOkFrom, Bool.and_eq_true, decide_eq_true_eq]
        exact ⟨⟨h1, h2⟩, ih h3 (by omega)⟩

theorem mapOkFrom_erase {α : Type} {ok : α → Bool} {m : Sparse α} {lo k : Nat} (h : mapOkFrom ok lo m = true) :
    mapOkFrom ok lo (mapErase m k) = true := by
  induction m generalizing lo with
  | nil => rfl
  | cons x t ih =>
    obtain ⟨j, w⟩ := x
    have h' := h
    simp only [mapOkFrom, Bool.and_eq_true, decide_eq_true_eq] at h
    obtain ⟨⟨h1, h2⟩, h3⟩ := h
    simp only [mapErase]
    split
    · exact h'
    · split
      · exact mapOkFrom_mono h3 (by omega)
      · simp only [mapOkFrom, Bool.and_eq_true, decide_eq_true_eq]
        exact ⟨⟨h1, h2⟩, ih h3⟩

theorem mapOkFrom_filter {α : Type} {ok : α → Bool} {m : Sparse α} {lo : Nat} (p : Nat × α → Bool)
    (h : mapOkFrom ok lo m = true) : mapOkFrom ok lo (m.filter p) = true := by
  induction m generalizing lo with
  | nil => rfl
  | cons x t ih =>
    obtain ⟨j, w⟩ := x
    simp only [mapOkFrom, Bool.and_eq_true, decide_eq_true_eq] at h
    obtain ⟨⟨h1, h2⟩, h3⟩ := h
    simp only [List.filter_cons]
    split
    · simp only [mapOkFrom, Bool.and_eq_true, decide_eq_true_eq]
      exact ⟨⟨h1, h2⟩, ih h3⟩
    · exact mapOkFrom_mono (ih h3) (by omega)

theorem mapWf_set {α : Type} [DecidableEq α] {d : α} {m : Sparse α} (k : Nat) (v : α) (h : mapWf d m = true) :
    mapWf d (mapSet d m k v) = true := by
  unfold mapWf at h ⊢
  unfold mapSet
  split
  · exact mapOkFrom_erase h
  · rename_i hv
    exact mapOkFrom_insert h (Nat.zero_le k) (by simp [hv])

theorem mapWf_filter {α : Type} [DecidableEq α] {d : α} {m : Sparse α} (p : Nat × α → Bool) (h : mapWf d m = true) :
    mapWf d (m.filter p) = true := mapOkFrom_filter p h

/-- Read after write, of a map in canonical form. -/
theorem mapGet_set {α : Type} [DecidableEq α] {d : α} {m : Sparse α} (k j : Nat) (v : α) (h : mapWf d m = true) :
    mapGet d (mapSet d m k v) j = if j = k then v else mapGet d m j := by
  unfold mapGet mapSet
  split
  · rename_i hv
    rw [mapFind_erase h]
    split
    · simp [hv]
    · rfl
  · rw [mapFind_insert]
    split <;> rfl

/-- Reading another key needs no canonical form when the value is not the default. -/
theorem mapGet_insert {α : Type} (d : α) (m : Sparse α) (k j : Nat) (v : α) :
    mapGet d (mapInsert m k v) j = if j = k then v else mapGet d m j := by
  unfold mapGet
  rw [mapFind_insert]
  split <;> rfl

/-! ### Seats and contexts -/

@[simp] theorem State.seat_setSeat_self (s : State) (k : Nat) (q : Seat) : (s.setSeat k q).seat k = some q :=
  mapFind_insert_self s.seats k q

theorem State.seat_setSeat_ne (s : State) {k j : Nat} (q : Seat) (h : j ≠ k) : (s.setSeat k q).seat j = s.seat j :=
  mapFind_insert_ne s.seats q h

theorem State.ctx_setCtx_self (s : State) (k : Nat) (x : Ctx) : (s.setCtx k x).ctx k = some x :=
  mapFind_insert_self s.ctxs k x

theorem State.ctx_setCtx_ne (s : State) {k j : Nat} (x : Ctx) (h : j ≠ k) : (s.setCtx k x).ctx j = s.ctx j :=
  mapFind_insert_ne s.ctxs x h

@[simp] theorem State.ctx_setSeat (s : State) (k c : Nat) (q : Seat) : (s.setSeat k q).ctx c = s.ctx c := rfl

theorem mapInsert_insert {α : Type} (m : Sparse α) (k : Nat) (v w : α) :
    mapInsert (mapInsert m k v) k w = mapInsert m k w := by
  induction m with
  | nil => simp [mapInsert]
  | cons x t ih =>
    obtain ⟨j, u⟩ := x
    by_cases h : k < j
    · simp [mapInsert, h]
    · by_cases h' : j = k
      · simp [mapInsert, h']
      · simp [mapInsert, h, h', ih]

@[simp] theorem State.setSeat_setSeat (s : State) (k : Nat) (q q' : Seat) : (s.setSeat k q).setSeat k q' = s.setSeat k q' := by
  simp [State.setSeat, mapInsert_insert]

theorem State.mapSeat_of (s : State) {k : Nat} {q : Seat} (f : Seat → Seat) (h : s.seat k = some q) :
    s.mapSeat k f = s.setSeat k (f q) := by simp [State.mapSeat, h]

@[simp] theorem State.mapSeat_setSeat (s : State) (k : Nat) (q : Seat) (f : Seat → Seat) :
    (s.setSeat k q).mapSeat k f = s.setSeat k (f q) := by
  rw [State.mapSeat_of _ f (State.seat_setSeat_self s k q), State.setSeat_setSeat]

end Sys2Proof.Machine
end

