-- ==== Sys2Proof/Laws/Memory.lean ====
section
/-!
SUPPORT. Sys2Proof/Laws/Memory.lean: the bytes of the home: every memory operation keeps the canonical form, reading after
a write, and the bytes a write leaves alone.
-/
namespace Sys2Proof.Machine

theorem Memory.wf_nil : Memory.wf [] = true := rfl
theorem Memory.wf_reset : Memory.wf State.reset.mem = true := rfl

theorem Memory.wf_set {m : List Host.Cell} (pa : Nat) (b : Byte) (h : Memory.wf m = true) : Memory.wf (memSet m pa b) = true :=
  mapWf_set pa b h

theorem Memory.wf_filter {m : List Host.Cell} (p : Host.Cell → Bool) (h : Memory.wf m = true) : Memory.wf (m.filter p) = true :=
  mapWf_filter p h

/-- Writing any bytes one after another keeps the form. -/
theorem Memory.wf_foldl {α : Type} (f : List Host.Cell → α → List Host.Cell)
    (hf : ∀ m x, Memory.wf m = true → Memory.wf (f m x) = true) (l : List α) (m : List Host.Cell) (h : Memory.wf m = true) :
    Memory.wf (l.foldl f m) = true := by
  induction l generalizing m with
  | nil => exact h
  | cons x t ih => exact ih _ (hf m x h)

theorem Memory.wf_put {m : List Host.Cell} (pa : Nat) (bs : List Byte) (h : Memory.wf m = true) :
    Memory.wf (memPut m pa bs) = true :=
  Memory.wf_foldl _ (fun _ x hm => Memory.wf_set (pa + x.2) x.1 hm) _ m h

theorem Memory.wf_homePut {s : State} (pa : Nat) (bs : List Byte) (h : Memory.wf s.mem = true) :
    Memory.wf (s.homePut pa bs).mem = true := Memory.wf_put pa bs h

theorem Memory.wf_zero {s : State} (a n : Nat) (h : Memory.wf s.mem = true) : Memory.wf (s.zero a n).mem = true :=
  Memory.wf_filter _ h

theorem Memory.wf_copyMem {s : State} (src dst n : Nat) (h : Memory.wf s.mem = true) :
    Memory.wf (s.copyMem src dst n).mem = true :=
  Memory.wf_foldl _ (fun _ c hm => Memory.wf_set (c.1 - src + dst) c.2 hm) _ _ (Memory.wf_zero dst n h)

theorem Memory.wf_placedTables {m : List Host.Cell} (h : Memory.wf m = true) : Memory.wf (placedTables m) = true :=
  Memory.wf_put _ _ (Memory.wf_put _ _ h)

theorem memGet_set {m : List Host.Cell} (pa a : Nat) (b : Byte) (h : Memory.wf m = true) :
    memGet (memSet m pa b) a = if a = pa then b else memGet m a := mapGet_set pa a b h

/-- The bytes written, with their offsets counted from `k`. -/
theorem memGet_putFrom {m : List Host.Cell} (pa k a : Nat) (bs : List Byte) (h : Memory.wf m = true) :
    memGet ((bs.zipIdx k).foldl (fun m x => memSet m (pa + x.2) x.1) m) a =
      if pa + k ≤ a ∧ a < pa + k + bs.length then bs.getD (a - (pa + k)) 0 else memGet m a := by
  induction bs generalizing m k with
  | nil => exact (if_neg (by simp only [List.length_nil]; omega)).symm
  | cons b t ih =>
    simp only [List.zipIdx_cons, List.foldl_cons]
    rw [ih (k + 1) (Memory.wf_set _ _ h), memGet_set _ _ _ h]
    by_cases h1 : a = pa + k
    · subst h1
      rw [if_neg (by omega), if_pos rfl, if_pos ⟨Nat.le_refl _, by simp only [List.length_cons]; omega⟩, Nat.sub_self]
      rfl
    · by_cases h2 : pa + (k + 1) ≤ a ∧ a < pa + (k + 1) + t.length
      · have h3 : pa + k ≤ a ∧ a < pa + k + (b :: t).length := by simp; omega
        rw [if_pos h2, if_pos h3]
        have h4 : a - (pa + k) = (a - (pa + (k + 1))) + 1 := by omega
        rw [h4]
        rfl
      · have h3 : ¬ (pa + k ≤ a ∧ a < pa + k + (b :: t).length) := by simp at h2 ⊢; omega
        rw [if_neg h2, if_neg h3, if_neg h1]

/-- Reading a byte after a write of bytes. -/
theorem memGet_put {m : List Host.Cell} (pa a : Nat) (bs : List Byte) (h : Memory.wf m = true) :
    memGet (memPut m pa bs) a = if pa ≤ a ∧ a < pa + bs.length then bs.getD (a - pa) 0 else memGet m a := by
  simpa [memPut] using memGet_putFrom pa 0 a bs h

/-- A write leaves every byte outside it alone. -/
theorem memGet_put_outside {m : List Host.Cell} {pa a : Nat} {bs : List Byte} (h : Memory.wf m = true)
    (o : a < pa ∨ pa + bs.length ≤ a) : memGet (memPut m pa bs) a = memGet m a := by
  rw [memGet_put pa a bs h, if_neg (by omega)]

@[simp] theorem memBytes_length (m : List Host.Cell) (pa n : Nat) : (memBytes m pa n).length = n := by simp [memBytes]

/-- The bytes written are read back. -/
theorem memBytes_put {m : List Host.Cell} (pa : Nat) (bs : List Byte) (h : Memory.wf m = true) :
    memBytes (memPut m pa bs) pa bs.length = bs := by
  apply List.ext_getElem
  · simp
  · intro i h1 h2
    simp only [memBytes, List.getElem_map, List.getElem_range]
    rw [memGet_put pa (pa + i) bs h, if_pos (by omega)]
    have : pa + i - pa = i := by omega
    rw [this]
    simp [List.getD_eq_getElem?_getD, h2]

@[simp] theorem leBytes_length (n v : Nat) : (leBytes n v).length = n := by
  induction n generalizing v with
  | zero => rfl
  | succ n ih => simp [leBytes, ih]

/-- Little-endian bytes hold the number they were made of (R5). -/
theorem leNat_leBytes (n v : Nat) : leNat (leBytes n v) = v % 256 ^ n := by
  induction n generalizing v with
  | zero => simp [leBytes, leNat, Nat.mod_one]
  | succ n ih =>
    have e : (BitVec.ofNat 8 v).toNat = v % 256 := rfl
    rw [leBytes, leNat, ih, e, Nat.pow_succ', Nat.mod_mul]

/-- A value stored at an address is loaded from it. -/
theorem leNat_memBytes_put {m : List Host.Cell} (pa n v : Nat) (h : Memory.wf m = true) :
    leNat (memBytes (memPut m pa (leBytes n v)) pa n) = v % 256 ^ n := by
  have := memBytes_put pa (leBytes n v) h
  rw [leBytes_length] at this
  rw [this, leNat_leBytes]

end Sys2Proof.Machine
end

