-- ==== Sys2Proof/Laws/Issue.lean ====
section
/-!
SUPPORT. Sys2Proof/Laws/Issue.lean: what the shared operations of issue and of performing do: whose instruction it is, the
waits, and a command that issues while its seat has no other.
-/
namespace Sys2Proof.Machine

/-! ### Whose instruction -/

theorem both_ctl {i : Instr} {s : State} {f : Nat → Seat → Res} {g : Nat → Seat → Nat → Vp → Res} {key : Nat} {q : Seat}
    (ht : s.thr = some ⟨key, none⟩) (hq : s.seat key = some q) (hw : i.wf = true) : both i s f g = f key q := by
  simp [both, ht, hq, hw]

theorem both_vp {i : Instr} {s : State} {f : Nat → Seat → Res} {g : Nat → Seat → Nat → Vp → Res} {key l : Nat} {q : Seat}
    {v : Vp} (ht : s.thr = some ⟨key, some l⟩) (hq : s.seat key = some q) (hv : q.vp l = some v) (hw : i.wf = true) :
    both i s f g = g key q l v := by
  simp [both, ht, hq, hv, hw]

theorem ctl_ctl {i : Instr} {s : State} {f : Nat → Seat → Res} {key : Nat} {q : Seat}
    (ht : s.thr = some ⟨key, none⟩) (hq : s.seat key = some q) (hw : i.wf = true) : ctl i s f = f key q :=
  both_ctl ht hq hw

/-- An instruction that only the control thread executes raises ILLOP in a virtual processor (R47). -/
theorem ctl_vp {i : Instr} {s : State} {f : Nat → Seat → Res} {key l : Nat} {q : Seat} {v : Vp}
    (ht : s.thr = some ⟨key, some l⟩) (hq : s.seat key = some q) (hv : q.vp l = some v) :
    ctl i s f = .next (s.vpTrap key l ⟨codeIllop, 0, i.word.setWidth 64, v.pc⟩) := by
  unfold ctl both
  simp only [ht, hq, hv]
  split <;> rfl

theorem vpOnly_vp {i : Instr} {s : State} {g : Nat → Seat → Nat → Vp → Res} {key l : Nat} {q : Seat} {v : Vp}
    (ht : s.thr = some ⟨key, some l⟩) (hq : s.seat key = some q) (hv : q.vp l = some v) (hw : i.wf = true) :
    vpOnly i s g = g key q l v := both_vp ht hq hv hw

/-! ### Waits -/

@[simp] theorem waitOn_false (s : State) (key : Nat) (k : Res) : waitOn s key false k = k := rfl

theorem waitOn_of {s : State} {key : Nat} {w : Bool} {k : Res} (h : w = false) : waitOn s key w k = k := by simp [h]

/-- Nothing queued writes a scalar register, a mask or VL, holds a P-queue access or is of any queue. -/
theorem Seat.busy_nil {q : Seat} (h : q.pend = []) (r : Reg) : q.busy r = false := by simp [Seat.busy, h]
theorem Seat.maskBusy_nil {q : Seat} (h : q.pend = []) (m : MaskNo) : q.maskBusy m = false := by simp [Seat.maskBusy, h]
theorem Seat.vlBusy_nil {q : Seat} (h : q.pend = []) : q.vlBusy = false := by simp [Seat.vlBusy, h]
theorem Seat.queued_nil {q : Seat} (h : q.pend = []) (f : Queue → Bool) : q.queued f = false := by simp [Seat.queued, h]
theorem Seat.pHeld_nil {q : Seat} (h : q.pend = []) (i : Instr) : q.pHeld i = false := by simp [Seat.pHeld, h]
theorem Seat.memBusy_nil {q : Seat} (h : q.pend = []) : q.memBusy = false := by simp [Seat.memBusy, h]
theorem Seat.vpHeld_nil {q : Seat} (h : q.pend = []) : q.vpHeld = false := by simp [Seat.vpHeld, h]
theorem Seat.forked_none {q : Seat} (h : q.fork = none) : q.forked = false := by simp [Seat.forked, h]
/-- There is room in the queues and in the operand log (R202, R244). -/
theorem State.full_room {s : State} {q : Seat} (hp : q.pend = []) (hr : q.logHeld < 15) (c : Cap) : s.full q c = false := by
  have hl : s.logTaken q < 16 := by
    unfold State.logTaken
    split <;> omega
  simp [State.full, hp, Nat.not_le.mpr hl]

theorem Seat.any_busy_nil {q : Seat} (h : q.pend = []) (l : List Reg) : l.any q.busy = false := by
  simp [List.any_eq_false, Seat.busy_nil h]

/-! ### A command with no other beside it -/

/-- The seat with one command joined to its queues; `f` is what the issue leaves beside. -/
def Seat.joined (q : Seat) (c : Cap) (f : Seat → Seat) : Seat :=
  { f (q.countV c).1.advance with pend := [(q.countV c).2] }

/-- What performing the only command of a seat leaves: `q` and `s` are the seat and the state in which it issued, `p` is what
its performance comes to. -/
def afterOnly (s : State) (key : Nat) (q : Seat) (c : Cap) (p : Perf) : State :=
  match p with
  | .wait => s
  | .part s c' => s.mapSeat key fun q => q.keepAt 0 c'
  | .done s =>
    s.finishAt key 0 (c.samples q s.devtime none)
  | .short s k => s.finishAt key 0 (c.samples q s.devtime (some k))
  | .trap s t => s.lateTrap key 0 t c true
  | .stop s t c' =>
    if s.hostPage q t then (s.mapSeat key fun q => q.keepAt 0 c').parkSeat key t true none
    else
      let c' := { c' with unwatched := false }
      (s.mapSeat key fun q => q.keepAt 0 c').lateTrap key 0 t c' false

@[simp] theorem Seat.count_pend (q : Seat) : q.count.1.pend = q.pend := by unfold Seat.count; split <;> rfl

@[simp] theorem Seat.countV_pend (q : Seat) (c : Cap) : (q.countV c).1.pend = q.pend := by unfold Seat.countV; split <;> simp

@[simp] theorem Seat.nextPos_pend (q : Seat) : q.nextPos.pend = q.pend := by
  unfold Seat.nextPos
  split
  · rfl
  · split
    · simp
    · split <;> simp [Seat.clearReplay]

@[simp] theorem Seat.advance_pend (q : Seat) : q.advance.pend = q.pend := by simp [Seat.advance]

/-- The only command of a seat's queues is performed, and nothing else is. -/
theorem State.drain_only {s : State} {key : Nat} {q : Seat} {c : Cap} (hq : s.seat key = some q) (hp : q.pend = [c])
    (he : s.engineHolds q c = false) (hs : c.isStage = false) : s.drain key = afterOnly s key q c (s.perform key c) := by
  have hf : s.freeAt q 0 = some c := by simp [State.freeAt, hp, he, Seat.stageOpen, hs]
  simp only [State.drain, hq, hp, List.length_singleton, State.drainGo, State.performOne, State.firstFrom, State.performAt,
    State.performWith, hf, id_eq]
  cases hx : s.perform key c with
  | stop s' t c' => by_cases h : s'.hostPage q t = true <;> simp [afterOnly, h]
  | _ => simp [afterOnly]

@[simp] theorem Seat.countV_isStage (q : Seat) (c : Cap) : (q.countV c).2.isStage = c.isStage := by
  unfold Seat.countV
  by_cases h : (c.queue == .v) = true <;> simp [h, Cap.isStage]

/-- A command that issues in a seat whose queues are empty is performed at once, unless it is a stage of a bypass chain. -/
theorem State.issueThen_only {s : State} {key : Nat} {q : Seat} {c : Cap} {f : Seat → Seat}
    (hfull : s.full q c = false) (hs : c.isStage = false) (hpend : (f (q.countV c).1.advance).pend = []) (hh : s.hold = false)
    (he : (s.setSeat key (q.joined c f)).engineHolds (q.joined c f) (q.countV c).2 = false) :
    s.issueThen key q c f = .next (afterOnly (s.setSeat key (q.joined c f)) key (q.joined c f) (q.countV c).2
      ((s.setSeat key (q.joined c f)).perform key (q.countV c).2)) := by
  have hd := State.drain_only (s := s.setSeat key (q.joined c f)) (key := key) (q := q.joined c f) (c := (q.countV c).2)
    (State.seat_setSeat_self _ _ _) rfl he (by simp [hs])
  unfold State.issueThen
  rw [hfull]
  simp only [Bool.false_eq_true, if_false, hpend, List.nil_append, State.setSeat_hold, hh]
  exact congrArg _ hd

end Sys2Proof.Machine
end

