-- ==== Sys2Proof/Laws/Seat.lean ====
section
/-!
SUPPORT. Sys2Proof/Laws/Seat.lean: scalar registers, lane registers and virtual processors: reading after a write, and what a
scalar instruction answers.
-/
namespace Sys2Proof.Machine

/-- A register write changes the registers alone. -/
theorem Seat.setReg_eq (q : Seat) (r : Reg) (w : Word) : q.setReg r w = { q with s := (q.setReg r w).s } := by
  unfold Seat.setReg; split <;> rfl

/-- A written register moves with the thread (R313). -/
theorem Seat.setReg_advance (q : Seat) (d : Reg) (w : Word) :
    (q.setReg d w).advance = { q.advance with s := (q.setReg d w).s } := by
  unfold Seat.setReg
  split
  · rename_i h
    have : q.advance.s = q.s := by
      unfold Seat.advance Seat.nextPos
      split
      · rfl
      · split
        · simp [Seat.noteReplay]
        · split <;> simp [Seat.noteReplay, Seat.clearReplay]
    rw [← this]
  · unfold Seat.advance Seat.nextPos Seat.issued
    dsimp only
    split
    · rfl
    · split
      · rfl
      · split <;> rfl

@[simp] theorem Seat.advance_s (q : Seat) : q.advance.s = q.s := by
  unfold Seat.advance Seat.nextPos
  split
  · rfl
  · split
    · simp
    · split <;> simp [Seat.clearReplay]

theorem Seat.reg_setReg (q : Seat) (d r : Reg) (w : Word) :
    (q.setReg d w).reg r = if r = d ∧ r ≠ 0 then w else q.reg r := by
  unfold Seat.reg
  by_cases h : r = 0
  · subst h; simp
  · rw [if_neg h, if_neg h]
    unfold Seat.setReg
    by_cases hd : d = 0
    · have hne : r ≠ d := by rw [hd]; exact h
      rw [if_pos hd, if_neg (fun x => hne x.1)]
    · rw [if_neg hd]
      by_cases e : r = d
      · subst e; rw [if_pos ⟨rfl, h⟩]; simp
      · rw [if_neg (fun x => e x.1)]
        have hn : d.toNat ≠ r.toNat := fun x => e (BitVec.eq_of_toNat_eq x.symm)
        exact Vector.getElem_set_ne (by omega) (by omega) hn

theorem scalar_ctl {i : Instr} {s : State} {d : Reg} {srcs : List Reg} {f : Seat → Word} {g : (Reg → BitVec 32) → BitVec 32}
    {key : Nat} {q : Seat} (ht : s.thr = some ⟨key, none⟩) (hq : s.seat key = some q) (hw : i.wf = true)
    (hb : ∀ r ∈ d :: srcs, q.busy r = false) :
    scalar i s d srcs f g = .next (s.setSeat key (q.setReg d (f q)).advance) := by
  have : (d :: srcs).any q.busy = false := by
    rw [List.any_eq_false]; intro r hr; simp [hb r hr]
  unfold scalar
  rw [both_ctl ht hq hw, this]
  rfl

theorem scalar_vp {i : Instr} {s : State} {d : Reg} {srcs : List Reg} {f : Seat → Word} {g : (Reg → BitVec 32) → BitVec 32}
    {key l : Nat} {q : Seat} {v : Vp} (ht : s.thr = some ⟨key, some l⟩) (hq : s.seat key = some q) (hv : q.vp l = some v)
    (hw : i.wf = true) :
    scalar i s d srcs f g = .next (s.setSeat key ((q.setLane l d (g (q.laneReg l))).vpTo l (v.pc + 4))) := by
  unfold scalar
  rw [both_vp ht hq hv hw]

/-- A map whose values are changed by key. -/
theorem mapFind_map {α : Type} (m : Sparse α) (f : Nat → α → α) (k : Nat) :
    mapFind (m.map fun x => (x.1, f x.1 x.2)) k = (mapFind m k).map (f k) := by
  induction m with
  | nil => rfl
  | cons x t ih =>
    obtain ⟨j, w⟩ := x
    simp only [List.map_cons, mapFind, ih]
    split
    · rename_i h; simp [h]
    · split <;> rfl

theorem Seat.vp_vpTo (q : Seat) (l l' : Nat) (a : Word) :
    (q.vpTo l a).vp l' = (q.vp l').map fun v => if l' = l then { v with pc := a } else v := by
  unfold Seat.vp Seat.vpTo
  cases h : q.fork with
  | none => simp
  | some f =>
    simp only [Option.map_some, Option.bind_some]
    exact mapFind_map f.vps (fun k v => if k = l then { v with pc := a } else v) l'

theorem Seat.laneReg_setLane {q : Seat} (hc : mapWf 0#32 q.plane = true) {l l' : Nat} (hl : l < 256) (hl' : l' < 256)
    (d r : Reg) (w : BitVec 32) :
    (q.setLane l d w).laneReg l' r = if l' = l ∧ r = d ∧ r ≠ 0 then w else q.laneReg l' r := by
  unfold Seat.laneReg
  by_cases h : r = 0
  · subst h; simp
  · rw [if_neg h, if_neg h]
    unfold Seat.setLane
    by_cases hd : d = 0
    · have hne : r ≠ d := by rw [hd]; exact h
      rw [if_pos hd, if_neg (fun x => hne x.2.1)]
    · rw [if_neg hd]
      unfold Seat.laneCell cellKey
      dsimp only
      rw [mapGet_set _ _ _ hc]
      by_cases e : l' = l ∧ r = d
      · obtain ⟨e1, e2⟩ := e; subst e1; subst e2; rw [if_pos rfl, if_pos ⟨rfl, rfl, h⟩]
      · rw [if_neg, if_neg]
        · intro x; exact e ⟨x.1, x.2.1⟩
        · intro x
          apply e
          exact ⟨by omega, BitVec.eq_of_toNat_eq (by omega)⟩

@[simp] theorem Seat.laneReg_vpTo (q : Seat) (l l' : Nat) (a : Word) (r : Reg) : (q.vpTo l a).laneReg l' r = q.laneReg l' r := rfl
@[simp] theorem Seat.vp_setLane (q : Seat) (l l' : Nat) (r : Reg) (w : BitVec 32) : (q.setLane l r w).vp l' = q.vp l' := by
  unfold Seat.vp; simp
end Sys2Proof.Machine
end

