-- ==== Sys2Proof/Laws/Access.lean ====
section
/-!
SUPPORT. Sys2Proof/Laws/Access.lean: what translation, the L1 and an access by memory type can change: caches, TLBs, request
counts, memory, the free values and what goes out to devices; everything else stays, and memory keeps its canonical form.
-/
namespace Sys2Proof.Machine

/-- Everything that no memory access changes. -/
structure Still (s t : State) : Prop where
  seats : t.seats = s.seats
  thr : t.thr = s.thr
  hold : t.hold = s.hold
  agenda : t.agenda = s.agenda
  launches : t.launches = s.launches
  streams : t.streams = s.streams
  vis : t.vis = s.vis
  colls : t.colls = s.colls
  pairs : t.pairs = s.pairs
  dies : t.dies = s.dies
  hbm : t.hbm = s.hbm
  frrs : t.frrs = s.frrs
  pkg : t.pkg = s.pkg
  migs : t.migs = s.migs
  frames : t.frames = s.frames
  devtime : t.devtime = s.devtime
  tiles : t.tiles = s.tiles
  wf : Memory.wf s.mem = true → Memory.wf t.mem = true

theorem Still.refl (s : State) : Still s s := by constructor <;> first | rfl | exact id

theorem Still.trans {s t u : State} (a : Still s t) (b : Still t u) : Still s u := by
  constructor
  · rw [b.seats, a.seats]
  · rw [b.thr, a.thr]
  · rw [b.hold, a.hold]
  · rw [b.agenda, a.agenda]
  · rw [b.launches, a.launches]
  · rw [b.streams, a.streams]
  · rw [b.vis, a.vis]
  · rw [b.colls, a.colls]
  · rw [b.pairs, a.pairs]
  · rw [b.dies, a.dies]
  · rw [b.hbm, a.hbm]
  · rw [b.frrs, a.frrs]
  · rw [b.pkg, a.pkg]
  · rw [b.migs, a.migs]
  · rw [b.frames, a.frames]
  · rw [b.devtime, a.devtime]
  · rw [b.tiles, a.tiles]
  · exact fun h => b.wf (a.wf h)

theorem Still.seat {s t : State} (h : Still s t) (k : Nat) : t.seat k = s.seat k := by unfold State.seat; rw [h.seats]

/-- A fold of changes that leave the same things alone. -/
theorem Still.foldl {α : Type} {f : State → α → State} (hf : ∀ s x, Still s (f s x)) (l : List α) (s : State) :
    Still s (l.foldl f s) := by
  induction l generalizing s with
  | nil => exact Still.refl s
  | cons x t ih => exact (hf s x).trans (ih _)

theorem Still.setCore (s : State) (c : Nat) (x : Core) : Still s (s.setCore c x) := by constructor <;> first | rfl | exact id
theorem Still.setQuad (s : State) (c : Nat) (x : Quad) : Still s (s.setQuad c x) := by constructor <;> first | rfl | exact id
theorem Still.setCtx (s : State) (c : Nat) (x : Ctx) : Still s (s.setCtx c x) := by constructor <;> first | rfl | exact id
theorem Still.homePut (s : State) (pa : Nat) (bs : List Byte) : Still s (s.homePut pa bs) := by
  constructor <;> first | rfl | exact Memory.wf_homePut pa bs

/-! ### Translation -/

theorem Still.setAD (s : State) (l : Leaf) (w : Bool) : Still s (s.setAD l w).1 := by
  unfold State.setAD
  extract_lets new
  split
  · exact Still.refl s
  · exact Still.homePut s _ _

theorem Still.tlbFill (s : State) (c : Nat) (e : TlbEntry) : Still s (s.tlbFill c e) :=
  (Still.setCore s _ _).trans (Still.setQuad _ _ _)

theorem Still.translate (s : State) (who : Accessor) (k : AKind) (va : Word) : Still s (s.translate who k va).2 := by
  unfold State.translate
  split
  · exact Still.refl s
  · split
    · exact Still.refl s
    · split
      · exact Still.refl s
      · split
        · exact Still.refl s
        · dsimp only
          split
          · exact (Still.setAD s _ _).trans (Still.tlbFill _ _ _)
          · exact Still.setAD s _ _

/-- The state after a translation, named by its outcome. -/
theorem Still.of_translate {s t : State} {who : Accessor} {k : AKind} {va : Word} {x : Xl}
    (h : s.translate who k va = (x, t)) : Still s t := by
  have := Still.translate s who k va
  rw [h] at this
  exact this

/-! ### The L1 -/

theorem Still.countEpoch (s : State) (die pa plc : Nat) : Still s (s.countEpoch die pa plc) := by
  unfold State.countEpoch
  split
  · constructor <;> first | rfl | exact id
  · exact Still.refl s

theorem Still.count (s : State) (cin : BitVec 18) (die pa plc : Nat) : Still s (s.count cin die pa plc) := by
  unfold State.count
  extract_lets home loc t
  have ht : Still s t := by
    unfold t
    split
    · exact Still.refl s
    · split
      · exact Still.setCtx s _ _
      · exact Still.refl s
  exact ht.trans (Still.countEpoch t _ _ _)

theorem Still.request (s : State) (cin : BitVec 18) (die : Nat) (h : Hit) : Still s (s.request cin die h) := by
  unfold State.request
  split
  · exact Still.refl s
  · exact Still.count s _ _ _ _

theorem Still.flushLine (s : State) (die : Nat) (l : Line) : Still s (s.flushLine die l) := by
  unfold State.flushLine
  split
  · exact Still.refl s
  · refine (Still.count s _ _ _ _).trans (Still.foldl (fun s x => ?_) _ _)
    constructor <;> first | rfl | exact Memory.wf_set _ _

theorem Still.putLine (s : State) (c : Nat) (l : Line) : Still s (s.putLine c l) := Still.setCore s _ _

theorem Still.writeBackLine (s : State) (c : Nat) (l : Line) : Still s (s.writeBackLine c l) :=
  (Still.flushLine s _ _).trans (Still.putLine _ _ _)

theorem Still.writeBack (s : State) (core : Nat) (cin : BitVec 18) : Still s (s.writeBack core cin) :=
  Still.foldl (fun s c => Still.foldl (fun s l => Still.writeBackLine s c l) _ s) _ s

theorem Still.invalClean (s : State) (core : Nat) (cin : BitVec 18) : Still s (s.invalClean core cin) :=
  Still.foldl (fun s _ => Still.setCore s _ _) _ s

theorem Still.flushInvalKind (s : State) (core : Nat) (cin : BitVec 18) (kind pa : Nat) :
    Still s (s.flushInvalKind core cin kind pa) := by
  unfold State.flushInvalKind
  dsimp only
  split
  · exact Still.refl s
  · exact (Still.flushLine s _ _).trans (Still.setCore _ _ _)

theorem Still.flushInval (s : State) (core : Nat) (cin : BitVec 18) (pa : Nat) : Still s (s.flushInval core cin pa) :=
  Still.flushInvalKind s _ _ _ _

theorem Still.flushInvalHit (s : State) (core : Nat) (cin : BitVec 18) (h : Hit) : Still s (s.flushInvalHit core cin h) :=
  Still.flushInvalKind s _ _ _ _

theorem Still.invalCleanKind (s : State) (core : Nat) (cin : BitVec 18) (kind pa : Nat) :
    Still s (s.invalCleanKind core cin kind pa) := by
  unfold State.invalCleanKind
  dsimp only
  split
  · exact Still.refl s
  · split
    · exact Still.setCore _ _ _
    · exact Still.putLine _ _ _

theorem Still.invalCleanLine (s : State) (core : Nat) (cin : BitVec 18) (pa : Nat) : Still s (s.invalCleanLine core cin pa) :=
  Still.invalCleanKind s _ _ _ _

theorem Still.expandAt {s t : State} {pa : Nat} (h : s.expandAt pa = .ok t) : Still s t := by
  unfold State.expandAt at h
  split at h
  · cases h
  · cases h
    constructor <;> first | rfl | exact id

theorem Still.homeLine {s t : State} {kind pa : Nat} {b : List Byte} (h : s.homeLine kind pa = .ok (b, t)) : Still s t := by
  unfold State.homeLine at h
  dsimp only at h
  split at h
  · cases h; exact Still.refl s
  · split at h
    · cases h; exact Still.refl s
    · split at h
      · cases h
      · rename_i e
        cases h
        exact Still.expandAt e
  · split at h
    · cases h; exact Still.refl s
    · cases h

theorem Still.l1Get {s t : State} {core : Nat} {cin : BitVec 18} {x : Hit} {n : Nat} {b : List Byte}
    (h : s.l1Get core cin x n = .ok (b, t)) : Still s t := by
  unfold State.l1Get at h
  dsimp only at h
  split at h
  · cases h; exact Still.refl s
  · split at h
    · cases h
    · rename_i e
      cases h
      exact ((Still.count s _ _ _ _).trans (Still.homeLine e)).trans (Still.putLine _ _ _)

theorem Still.l1Put (s : State) (core : Nat) (cin : BitVec 18) (x : Hit) (bs : List Byte) : Still s (s.l1Put core cin x bs) :=
  Still.putLine _ _ _

/-! ### Accesses -/

theorem Still.read {s : State} {core : Nat} {cin : BitVec 18} {x : Hit} {n : Nat} {r : Rd}
    (h : s.read core cin x n = .ok r) : Still s r.st := by
  unfold State.read at h
  split at h
  · cases h
    exact Still.count _ _ _ _ _
  · cases h
    constructor <;> first | rfl | exact id
  · split at h
    · cases h
    · rename_i e
      cases h
      exact Still.l1Get e

theorem Still.write (s : State) (core : Nat) (cin : BitVec 18) (x : Hit) (bs : List Byte) : Still s (s.write core cin x bs) := by
  unfold State.write
  split
  · exact (Still.count s _ _ _ _).trans (Still.homePut _ _ _)
  · constructor <;> first | rfl | exact id
  · exact Still.l1Put s _ _ _ _

theorem Still.homeRead {s : State} {x : Hit} {n : Nat} {r : Rd} (h : s.homeRead x n = .ok r) : Still s r.st := by
  unfold State.homeRead at h
  split at h
  · cases h; exact Still.refl s
  · split at h
    · cases h
    · rename_i e
      cases h
      exact Still.homeLine e
  · split at h
    · cases h
    · rename_i e
      cases h
      exact Still.homeLine e
  · cases h
    constructor <;> first | rfl | exact id
  · cases h; exact Still.refl s

theorem Still.homeWrite (s : State) (x : Hit) (bs : List Byte) : Still s (s.homeWrite x bs) := by
  unfold State.homeWrite
  split
  · constructor <;> first | rfl | exact id
  · exact Still.homePut s _ _

theorem Still.atomicAt (s : State) (x : Hit) (fn : AtomFn) (u : Bool) (n op cmp : Nat) :
    Still s (s.atomicAt x fn u n op cmp).2.2 := by
  unfold State.atomicAt
  exact Still.homePut s _ _

theorem Still.writeRun (s : State) (core : Nat) (cin : BitVec 18) (x : Hit) (l : List Word) :
    Still s (s.writeRun core cin x l) := by
  induction l generalizing s x with
  | nil => exact Still.refl s
  | cons w t ih => exact (Still.write s _ _ _ _).trans (ih _ _)

theorem Still.readRun {s t : State} {core : Nat} {cin : BitVec 18} {x : Hit} {n : Nat} {l : List Word} {e : Bool}
    (h : s.readRun core cin x n = .ok (l, e, t)) : Still s t := by
  induction n generalizing s x l e with
  | zero => cases h; exact Still.refl _
  | succ n ih =>
    unfold State.readRun at h
    split at h
    · cases h
    · rename_i r hr
      split at h
      · cases h
      · rename_i hs
        cases h
        exact (Still.read hr).trans (ih hs)

end Sys2Proof.Machine
end

