-- ==== Sys2Proof/Laws/Commute.lean ====
section
/-!
SUPPORT. Sys2Proof/Laws/Commute.lean: memory accesses neither read nor write seats: the same access in a state whose seats
differ answers the same, with those seats.
-/
namespace Sys2Proof.Machine

/-- The state with other seats. -/
def State.withSeats (s : State) (x : Sparse Seat) : State := { s with seats := x }

theorem State.setSeat_eq (s : State) (k : Nat) (q : Seat) : s.setSeat k q = s.withSeats (mapInsert s.seats k q) := rfl

@[simp] theorem State.withSeats_seats (s : State) (x : Sparse Seat) : (s.withSeats x).seats = x := rfl
@[simp] theorem State.withSeats_withSeats (s : State) (x y : Sparse Seat) : (s.withSeats x).withSeats y = s.withSeats y := rfl
@[simp] theorem State.withSeats_setSeat (s : State) (x : Sparse Seat) (k : Nat) (q : Seat) :
    (s.withSeats x).setSeat k q = s.withSeats (mapInsert x k q) := rfl
@[simp] theorem State.setSeat_withSeats (s : State) (x : Sparse Seat) (k : Nat) (q : Seat) :
    (s.setSeat k q).withSeats x = s.withSeats x := rfl

/-- After an access that leaves the seats alone, a seat put first is a seat put last. -/
theorem Still.setSeat {s t : State} (h : Still s t) (k : Nat) (q : Seat) :
    t.withSeats (mapInsert s.seats k q) = t.setSeat k q := by rw [State.setSeat_eq, h.seats]

theorem foldl_withSeats {α : Type} {f : State → α → State} (hf : ∀ s x a, f (State.withSeats s x) a = (f s a).withSeats x)
    (l : List α) (s : State) (x : Sparse Seat) : l.foldl f (s.withSeats x) = (l.foldl f s).withSeats x := by
  induction l generalizing s with
  | nil => rfl
  | cons a t ih => rw [List.foldl_cons, hf, ih]; rfl

theorem State.frrFor_withSeats (s : State) (x : Sparse Seat) (pa : Nat) : (s.withSeats x).frrFor pa = s.frrFor pa := by
  unfold State.frrFor
  have hf : (s.withSeats x).frr = s.frr := by funext i; rfl
  rw [hf]

theorem State.homedAt_withSeats (s : State) (x : Sparse Seat) (pa : Nat) : (s.withSeats x).homedAt pa = s.homedAt pa := by
  unfold State.homedAt
  have hp : (s.withSeats x).pkg = s.pkg := rfl
  rw [hp, State.frrFor_withSeats]

theorem State.homeAt_withSeats (s : State) (x : Sparse Seat) (pa : Nat) : (s.withSeats x).homeAt pa = s.homeAt pa := by
  unfold State.homeAt
  have hp : (s.withSeats x).pkg = s.pkg := rfl
  rw [hp, State.homedAt_withSeats]

@[simp] theorem State.count_withSeats (s : State) (x : Sparse Seat) (cin : BitVec 18) (die pa plc : Nat) :
    (s.withSeats x).count cin die pa plc = (s.count cin die pa plc).withSeats x := by
  unfold State.count
  have e : (s.withSeats x).ctx (ctxOfCin cin) = s.ctx (ctxOfCin cin) := rfl
  have e2 : ∀ t : State, (t.withSeats x).countEpoch die pa plc = (t.countEpoch die pa plc).withSeats x := fun t => by
    unfold State.countEpoch; split <;> rfl
  have e3 : (s.withSeats x).homeAt pa = s.homeAt pa := State.homeAt_withSeats s x pa
  have e4 : ∀ k c, (s.withSeats x).setCtx k c = (s.setCtx k c).withSeats x := fun _ _ => rfl
  rw [e, e3]
  cases s.ctx (ctxOfCin cin) with
  | none => exact e2 s
  | some c =>
    dsimp only
    by_cases h : die < 4
    · simp only [h, dif_pos, e4]; exact e2 _
    · simp only [h, dif_neg, not_false_iff]; exact e2 s

@[simp] theorem State.request_withSeats (s : State) (x : Sparse Seat) (cin : BitVec 18) (die : Nat) (h : Hit) :
    (s.withSeats x).request cin die h = (s.request cin die h).withSeats x := by
  unfold State.request
  split
  · rfl
  · exact State.count_withSeats s x cin die h.pa h.plc

@[simp] theorem State.homePut_withSeats (s : State) (x : Sparse Seat) (pa : Nat) (b : List Byte) :
    (s.withSeats x).homePut pa b = (s.homePut pa b).withSeats x := rfl

@[simp] theorem State.flushLine_withSeats (s : State) (x : Sparse Seat) (die : Nat) (l : Line) :
    (s.withSeats x).flushLine die l = (s.flushLine die l).withSeats x := by
  unfold State.flushLine
  split
  · rfl
  · rw [State.count_withSeats]
    exact foldl_withSeats (fun _ _ _ => rfl) _ _ _

@[simp] theorem State.writeBackLine_withSeats (s : State) (x : Sparse Seat) (c : Nat) (l : Line) :
    (s.withSeats x).writeBackLine c l = (s.writeBackLine c l).withSeats x := by
  unfold State.writeBackLine
  rw [State.flushLine_withSeats]; rfl

@[simp] theorem State.writeBack_withSeats (s : State) (x : Sparse Seat) (core : Nat) (cin : BitVec 18) :
    (s.withSeats x).writeBack core cin = (s.writeBack core cin).withSeats x := by
  unfold State.writeBack
  refine foldl_withSeats (fun s x a => ?_) _ _ _
  exact foldl_withSeats (f := fun s l => s.writeBackLine a l) (fun s x b => State.writeBackLine_withSeats s x a b) _ _ _

@[simp] theorem State.invalClean_withSeats (s : State) (x : Sparse Seat) (core : Nat) (cin : BitVec 18) :
    (s.withSeats x).invalClean core cin = (s.invalClean core cin).withSeats x := by
  unfold State.invalClean
  exact foldl_withSeats (fun _ _ _ => rfl) _ _ _

@[simp] theorem State.flushInvalKind_withSeats (s : State) (x : Sparse Seat) (core : Nat) (cin : BitVec 18) (kind pa : Nat) :
    (s.withSeats x).flushInvalKind core cin kind pa = (s.flushInvalKind core cin kind pa).withSeats x := by
  unfold State.flushInvalKind
  have e : ∀ c, (s.withSeats x).line c cin kind pa = s.line c cin kind pa := fun _ => rfl
  have e2 : (s.withSeats x).sliceOf core pa = s.sliceOf core pa := rfl
  dsimp only
  rw [e2, e]
  split
  · rfl
  · rw [State.flushLine_withSeats]; rfl

@[simp] theorem State.flushInval_withSeats (s : State) (x : Sparse Seat) (core : Nat) (cin : BitVec 18) (pa : Nat) :
    (s.withSeats x).flushInval core cin pa = (s.flushInval core cin pa).withSeats x :=
  State.flushInvalKind_withSeats s x core cin 0 pa

@[simp] theorem State.flushInvalHit_withSeats (s : State) (x : Sparse Seat) (core : Nat) (cin : BitVec 18) (h : Hit) :
    (s.withSeats x).flushInvalHit core cin h = (s.flushInvalHit core cin h).withSeats x :=
  State.flushInvalKind_withSeats s x core cin _ _

theorem State.homeLine_withSeats (s : State) (x : Sparse Seat) (kind pa : Nat) :
    (s.withSeats x).homeLine kind pa = (s.homeLine kind pa).map fun r => (r.1, r.2.withSeats x) := by
  unfold State.homeLine
  dsimp only
  split
  · rfl
  · have e : (s.withSeats x).llcExp = s.llcExp := rfl
    have e2 : (s.withSeats x).expandAt pa = (s.expandAt pa).map fun t => t.withSeats x := by
      unfold State.expandAt
      have : (s.withSeats x).tileEncoding pa = s.tileEncoding pa := rfl
      rw [this]
      split <;> rfl
    rw [e, e2]
    cases mapFind s.llcExp (linePa pa) with
    | some b => rfl
    | none => cases s.expandAt pa <;> rfl
  · have e : (s.withSeats x).windowGet (linePa pa) 64 = s.windowGet (linePa pa) 64 := rfl
    rw [e]
    cases s.windowGet (linePa pa) 64 <;> rfl

theorem State.l1Get_withSeats (s : State) (x : Sparse Seat) (core : Nat) (cin : BitVec 18) (h : Hit) (n : Nat) :
    (s.withSeats x).l1Get core cin h n = (s.l1Get core cin h n).map fun r => (r.1, r.2.withSeats x) := by
  unfold State.l1Get
  have e : ∀ c, (s.withSeats x).line c cin (kindOfMt h.mt) h.pa = s.line c cin (kindOfMt h.mt) h.pa := fun _ => rfl
  have e2 : (s.withSeats x).sliceOf core h.pa = s.sliceOf core h.pa := rfl
  dsimp only
  rw [e2, e, State.count_withSeats, State.homeLine_withSeats]
  split
  · rfl
  · cases (s.count cin (dieOfCore core) h.pa h.plc).homeLine (kindOfMt h.mt) h.pa <;> rfl

theorem State.read_withSeats (s : State) (x : Sparse Seat) (core : Nat) (cin : BitVec 18) (h : Hit) (n : Nat) :
    (s.withSeats x).read core cin h n = (s.read core cin h n).map fun r => { r with st := r.st.withSeats x } := by
  unfold State.read
  split
  · dsimp only
    rw [State.count_withSeats]
    rfl
  · rfl
  · rw [State.l1Get_withSeats]
    cases s.l1Get core cin h n <;> rfl

@[simp] theorem State.write_withSeats (s : State) (x : Sparse Seat) (core : Nat) (cin : BitVec 18) (h : Hit) (b : List Byte) :
    (s.withSeats x).write core cin h b = (s.write core cin h b).withSeats x := by
  unfold State.write
  split
  · rw [State.count_withSeats]; rfl
  · rfl
  · rfl

theorem State.homeRead_withSeats (s : State) (x : Sparse Seat) (h : Hit) (n : Nat) :
    (s.withSeats x).homeRead h n = (s.homeRead h n).map fun r => { r with st := r.st.withSeats x } := by
  unfold State.homeRead
  split
  · rfl
  · rw [State.homeLine_withSeats]
    cases s.homeLine (kindOfMt h.mt) h.pa <;> rfl
  · rw [State.homeLine_withSeats]
    cases s.homeLine (kindOfMt h.mt) h.pa <;> rfl
  · rfl
  · rfl

@[simp] theorem State.homeWrite_withSeats (s : State) (x : Sparse Seat) (h : Hit) (b : List Byte) :
    (s.withSeats x).homeWrite h b = (s.homeWrite h b).withSeats x := by
  unfold State.homeWrite
  split <;> rfl

theorem State.atomicRel_withSeats (s : State) (x : Sparse Seat) (h : Hit) (fn : AtomFn) (u : Bool) (n op cmp : Nat) :
    (s.withSeats x).atomicRel h fn u n op cmp =
      ((s.atomicRel h fn u n op cmp).1, (s.atomicRel h fn u n op cmp).2.1, (s.atomicRel h fn u n op cmp).2.2.withSeats x) := rfl

end Sys2Proof.Machine
end

