-- ==== Sys2Proof/Laws/PerInstr.lean ====
section
/-!
SUPPORT. Sys2Proof/Laws/PerInstr.lean: the family Encoding: the word of a well-formed instruction decodes to that
instruction, constructor by constructor.
-/
namespace Sys2Proof.Laws

/-! ### Fields of words -/

/-- The value of two fields side by side. -/
theorem cat_toNat {n m : Nat} (x : BitVec n) (y : BitVec m) : (x ++ y).toNat = x.toNat * 2 ^ m + y.toNat := by
  rw [BitVec.toNat_append, ← Nat.shiftLeft_add_eq_or_of_lt y.isLt, Nat.shiftLeft_eq]

/-- The value of a field of a word. -/
theorem field_toNat (w : BitVec 32) (lo n : Nat) : (field w lo n).toNat = w.toNat / 2 ^ lo % 2 ^ n := by
  simp [field, Nat.shiftRight_eq_div_pow]

/-- A field is what its value says. -/
theorem field_is {w : BitVec 32} {lo n : Nat} {c : BitVec n} (h : w.toNat / 2 ^ lo % 2 ^ n = c.toNat) : field w lo n = c :=
  BitVec.eq_of_toNat_eq (by rw [field_toNat, h])

/-- The lowest field of what is left of a word, and what is left above it. -/
theorem peel {w : BitVec 32} {lo m p : Nat} {y : BitVec m} (v : w.toNat / 2 ^ lo = p * 2 ^ m + y.toNat) :
    field w lo m = y ∧ w.toNat / 2 ^ (lo + m) = p := by
  have hy := y.isLt
  refine ⟨field_is ?_, ?_⟩
  · rw [v, Nat.add_comm, Nat.add_mul_mod_self_right, Nat.mod_eq_of_lt hy]
  · rw [Nat.pow_add, ← Nat.div_div_eq_div_mul, v, Nat.add_comm, Nat.add_mul_div_right _ _ (Nat.two_pow_pos m),
      Nat.div_eq_of_lt hy, Nat.zero_add]

/-- The highest field of a word. -/
theorem peel_last {w : BitVec 32} {lo m : Nat} {y : BitVec m} (v : w.toNat / 2 ^ lo = y.toNat) : field w lo m = y :=
  field_is (by rw [v, Nat.mod_eq_of_lt y.isLt])

/-- A field inside a field. -/
theorem field_sub {w : BitVec 32} {lo n : Nat} {c : BitVec n} (h : field w lo n = c) (k m : Nat) (hk : k + m ≤ n) :
    field w (lo + k) m = field (c.setWidth 32) k m := by
  subst h
  apply BitVec.eq_of_getElem_eq
  intro i hi
  have h1 : k + i < n := by omega
  simp [field, BitVec.getLsbD_setWidth, h1, Nat.add_assoc]
  intro h; exact BitVec.lt_of_getLsbD h |> fun _ => by omega

/-- Two values of one range of bits that a word cannot have both. -/
theorem field_clash {w : BitVec 32} {lo n lo' n' : Nat} {c : BitVec n} {c' : BitVec n'} (h : field w lo n = c)
    (k k' m : Nat) (hk : k + m ≤ n) (hk' : k' + m ≤ n') (hl : lo + k = lo' + k')
    (d : field (c.setWidth 32) k m ≠ field (c'.setWidth 32) k' m) : ¬ field w lo' n' = c' := by
  intro h'
  have a := field_sub h k m hk
  have b := field_sub h' k' m hk'
  rw [hl] at a
  exact d (a.symm.trans b)

/-- The decoder passes on what a layout admits and its fields allow. -/
theorem decode_of {w : BitVec 32} {i : Instr} (l : layoutOf w = some i) (h : i.wf) : decodeWord w = some i := by
  rw [decodeWord, l]; exact if_pos h

/-! ### The parts of a word, by the widths of its fields -/

theorem cat_6_5_5_5_11 {w : BitVec 32} (x0 : BitVec 6) (x1 : BitVec 5) (x2 : BitVec 5) (x3 : BitVec 5) (x4 : BitVec 11)
    (h : x0 ++ x1 ++ x2 ++ x3 ++ x4 = w) : field w 26 6 = x0 ∧ field w 21 5 = x1 ∧ field w 16 5 = x2 ∧ field w 11 5 = x3 ∧ field w 0 11 = x4 := by
  have v0 : w.toNat / 2 ^ 0 = ((((x0.toNat * 2 ^ 5 + x1.toNat) * 2 ^ 5 + x2.toNat) * 2 ^ 5 + x3.toNat) * 2 ^ 11 + x4.toNat) := by
    rw [Nat.pow_zero, Nat.div_one, ← h, cat_toNat]
    try simp only [cat_toNat]
  have ⟨f4, v1⟩ := peel v0
  have ⟨f3, v2⟩ := peel v1
  have ⟨f2, v3⟩ := peel v2
  have ⟨f1, v4⟩ := peel v3
  exact ⟨peel_last v4, f1, f2, f3, f4⟩

theorem cat_6_5_5_16 {w : BitVec 32} (x0 : BitVec 6) (x1 : BitVec 5) (x2 : BitVec 5) (x3 : BitVec 16)
    (h : x0 ++ x1 ++ x2 ++ x3 = w) : field w 26 6 = x0 ∧ field w 21 5 = x1 ∧ field w 16 5 = x2 ∧ field w 0 16 = x3 := by
  have v0 : w.toNat / 2 ^ 0 = (((x0.toNat * 2 ^ 5 + x1.toNat) * 2 ^ 5 + x2.toNat) * 2 ^ 16 + x3.toNat) := by
    rw [Nat.pow_zero, Nat.div_one, ← h, cat_toNat]
    try simp only [cat_toNat]
  have ⟨f3, v1⟩ := peel v0
  have ⟨f2, v2⟩ := peel v1
  have ⟨f1, v3⟩ := peel v2
  exact ⟨peel_last v3, f1, f2, f3⟩

theorem cat_6_5_5_5_4_1_6 {w : BitVec 32} (x0 : BitVec 6) (x1 : BitVec 5) (x2 : BitVec 5) (x3 : BitVec 5) (x4 : BitVec 4) (x5 : BitVec 1) (x6 : BitVec 6)
    (h : x0 ++ x1 ++ x2 ++ x3 ++ x4 ++ x5 ++ x6 = w) : field w 26 6 = x0 ∧ field w 21 5 = x1 ∧ field w 16 5 = x2 ∧ field w 11 5 = x3 ∧ field w 7 4 = x4 ∧ field w 6 1 = x5 ∧ field w 0 6 = x6 := by
  have v0 : w.toNat / 2 ^ 0 = ((((((x0.toNat * 2 ^ 5 + x1.toNat) * 2 ^ 5 + x2.toNat) * 2 ^ 5 + x3.toNat) * 2 ^ 4 + x4.toNat) * 2 ^ 1 + x5.toNat) * 2 ^ 6 + x6.toNat) := by
    rw [Nat.pow_zero, Nat.div_one, ← h, cat_toNat]
    try simp only [cat_toNat]
  have ⟨f6, v1⟩ := peel v0
  have ⟨f5, v2⟩ := peel v1
  have ⟨f4, v3⟩ := peel v2
  have ⟨f3, v4⟩ := peel v3
  have ⟨f2, v5⟩ := peel v4
  have ⟨f1, v6⟩ := peel v5
  exact ⟨peel_last v6, f1, f2, f3, f4, f5, f6⟩

theorem cat_6_26 {w : BitVec 32} (x0 : BitVec 6) (x1 : BitVec 26)
    (h : x0 ++ x1 = w) : field w 26 6 = x0 ∧ field w 0 26 = x1 := by
  have v0 : w.toNat / 2 ^ 0 = (x0.toNat * 2 ^ 26 + x1.toNat) := by
    rw [Nat.pow_zero, Nat.div_one, ← h, cat_toNat]
    try simp only [cat_toNat]
  have ⟨f1, v1⟩ := peel v0
  exact ⟨peel_last v1, f1⟩

theorem cat_6_5_4_17 {w : BitVec 32} (x0 : BitVec 6) (x1 : BitVec 5) (x2 : BitVec 4) (x3 : BitVec 17)
    (h : x0 ++ x1 ++ x2 ++ x3 = w) : field w 26 6 = x0 ∧ field w 21 5 = x1 ∧ field w 17 4 = x2 ∧ field w 0 17 = x3 := by
  have v0 : w.toNat / 2 ^ 0 = (((x0.toNat * 2 ^ 5 + x1.toNat) * 2 ^ 4 + x2.toNat) * 2 ^ 17 + x3.toNat) := by
    rw [Nat.pow_zero, Nat.div_one, ← h, cat_toNat]
    try simp only [cat_toNat]
  have ⟨f3, v1⟩ := peel v0
  have ⟨f2, v2⟩ := peel v1
  have ⟨f1, v3⟩ := peel v2
  exact ⟨peel_last v3, f1, f2, f3⟩

theorem cat_8_3_5_16 {w : BitVec 32} (x0 : BitVec 8) (x1 : BitVec 3) (x2 : BitVec 5) (x3 : BitVec 16)
    (h : x0 ++ x1 ++ x2 ++ x3 = w) : field w 24 8 = x0 ∧ field w 21 3 = x1 ∧ field w 16 5 = x2 ∧ field w 0 16 = x3 := by
  have v0 : w.toNat / 2 ^ 0 = (((x0.toNat * 2 ^ 3 + x1.toNat) * 2 ^ 5 + x2.toNat) * 2 ^ 16 + x3.toNat) := by
    rw [Nat.pow_zero, Nat.div_one, ← h, cat_toNat]
    try simp only [cat_toNat]
  have ⟨f3, v1⟩ := peel v0
  have ⟨f2, v2⟩ := peel v1
  have ⟨f1, v3⟩ := peel v2
  exact ⟨peel_last v3, f1, f2, f3⟩

theorem cat_6_5_5_5_2_1_1_1_6 {w : BitVec 32} (x0 : BitVec 6) (x1 : BitVec 5) (x2 : BitVec 5) (x3 : BitVec 5) (x4 : BitVec 2) (x5 : BitVec 1) (x6 : BitVec 1) (x7 : BitVec 1) (x8 : BitVec 6)
    (h : x0 ++ x1 ++ x2 ++ x3 ++ x4 ++ x5 ++ x6 ++ x7 ++ x8 = w) : field w 26 6 = x0 ∧ field w 21 5 = x1 ∧ field w 16 5 = x2 ∧ field w 11 5 = x3 ∧ field w 9 2 = x4 ∧ field w 8 1 = x5 ∧ field w 7 1 = x6 ∧ field w 6 1 = x7 ∧ field w 0 6 = x8 := by
  have v0 : w.toNat / 2 ^ 0 = ((((((((x0.toNat * 2 ^ 5 + x1.toNat) * 2 ^ 5 + x2.toNat) * 2 ^ 5 + x3.toNat) * 2 ^ 2 + x4.toNat) * 2 ^ 1 + x5.toNat) * 2 ^ 1 + x6.toNat) * 2 ^ 1 + x7.toNat) * 2 ^ 6 + x8.toNat) := by
    rw [Nat.pow_zero, Nat.div_one, ← h, cat_toNat]
    try simp only [cat_toNat]
  have ⟨f8, v1⟩ := peel v0
  have ⟨f7, v2⟩ := peel v1
  have ⟨f6, v3⟩ := peel v2
  have ⟨f5, v4⟩ := peel v3
  have ⟨f4, v5⟩ := peel v4
  have ⟨f3, v6⟩ := peel v5
  have ⟨f2, v7⟩ := peel v6
  have ⟨f1, v8⟩ := peel v7
  exact ⟨peel_last v8, f1, f2, f3, f4, f5, f6, f7, f8⟩

theorem cat_24_2_6 {w : BitVec 32} (x0 : BitVec 24) (x1 : BitVec 2) (x2 : BitVec 6)
    (h : x0 ++ x1 ++ x2 = w) : field w 8 24 = x0 ∧ field w 6 2 = x1 ∧ field w 0 6 = x2 := by
  have v0 : w.toNat / 2 ^ 0 = ((x0.toNat * 2 ^ 2 + x1.toNat) * 2 ^ 6 + x2.toNat) := by
    rw [Nat.pow_zero, Nat.div_one, ← h, cat_toNat]
    try simp only [cat_toNat]
  have ⟨f2, v1⟩ := peel v0
  have ⟨f1, v2⟩ := peel v1
  exact ⟨peel_last v2, f1, f2⟩

theorem cat_11_5_5_2_3_6 {w : BitVec 32} (x0 : BitVec 11) (x1 : BitVec 5) (x2 : BitVec 5) (x3 : BitVec 2) (x4 : BitVec 3) (x5 : BitVec 6)
    (h : x0 ++ x1 ++ x2 ++ x3 ++ x4 ++ x5 = w) : field w 21 11 = x0 ∧ field w 16 5 = x1 ∧ field w 11 5 = x2 ∧ field w 9 2 = x3 ∧ field w 6 3 = x4 ∧ field w 0 6 = x5 := by
  have v0 : w.toNat / 2 ^ 0 = (((((x0.toNat * 2 ^ 5 + x1.toNat) * 2 ^ 5 + x2.toNat) * 2 ^ 2 + x3.toNat) * 2 ^ 3 + x4.toNat) * 2 ^ 6 + x5.toNat) := by
    rw [Nat.pow_zero, Nat.div_one, ← h, cat_toNat]
    try simp only [cat_toNat]
  have ⟨f5, v1⟩ := peel v0
  have ⟨f4, v2⟩ := peel v1
  have ⟨f3, v3⟩ := peel v2
  have ⟨f2, v4⟩ := peel v3
  have ⟨f1, v5⟩ := peel v4
  exact ⟨peel_last v5, f1, f2, f3, f4, f5⟩

theorem cat_6_5_5_7_3_6 {w : BitVec 32} (x0 : BitVec 6) (x1 : BitVec 5) (x2 : BitVec 5) (x3 : BitVec 7) (x4 : BitVec 3) (x5 : BitVec 6)
    (h : x0 ++ x1 ++ x2 ++ x3 ++ x4 ++ x5 = w) : field w 26 6 = x0 ∧ field w 21 5 = x1 ∧ field w 16 5 = x2 ∧ field w 9 7 = x3 ∧ field w 6 3 = x4 ∧ field w 0 6 = x5 := by
  have v0 : w.toNat / 2 ^ 0 = (((((x0.toNat * 2 ^ 5 + x1.toNat) * 2 ^ 5 + x2.toNat) * 2 ^ 7 + x3.toNat) * 2 ^ 3 + x4.toNat) * 2 ^ 6 + x5.toNat) := by
    rw [Nat.pow_zero, Nat.div_one, ← h, cat_toNat]
    try simp only [cat_toNat]
  have ⟨f5, v1⟩ := peel v0
  have ⟨f4, v2⟩ := peel v1
  have ⟨f3, v3⟩ := peel v2
  have ⟨f2, v4⟩ := peel v3
  have ⟨f1, v5⟩ := peel v4
  exact ⟨peel_last v5, f1, f2, f3, f4, f5⟩

theorem cat_23_3_6 {w : BitVec 32} (x0 : BitVec 23) (x1 : BitVec 3) (x2 : BitVec 6)
    (h : x0 ++ x1 ++ x2 = w) : field w 9 23 = x0 ∧ field w 6 3 = x1 ∧ field w 0 6 = x2 := by
  have v0 : w.toNat / 2 ^ 0 = ((x0.toNat * 2 ^ 3 + x1.toNat) * 2 ^ 6 + x2.toNat) := by
    rw [Nat.pow_zero, Nat.div_one, ← h, cat_toNat]
    try simp only [cat_toNat]
  have ⟨f2, v1⟩ := peel v0
  have ⟨f1, v2⟩ := peel v1
  exact ⟨peel_last v2, f1, f2⟩

theorem cat_11_5_16 {w : BitVec 32} (x0 : BitVec 11) (x1 : BitVec 5) (x2 : BitVec 16)
    (h : x0 ++ x1 ++ x2 = w) : field w 21 11 = x0 ∧ field w 16 5 = x1 ∧ field w 0 16 = x2 := by
  have v0 : w.toNat / 2 ^ 0 = ((x0.toNat * 2 ^ 5 + x1.toNat) * 2 ^ 16 + x2.toNat) := by
    rw [Nat.pow_zero, Nat.div_one, ← h, cat_toNat]
    try simp only [cat_toNat]
  have ⟨f2, v1⟩ := peel v0
  have ⟨f1, v2⟩ := peel v1
  exact ⟨peel_last v2, f1, f2⟩

theorem cat_6_6_6_6_1_1_3_3 {w : BitVec 32} (x0 : BitVec 6) (x1 : BitVec 6) (x2 : BitVec 6) (x3 : BitVec 6) (x4 : BitVec 1) (x5 : BitVec 1) (x6 : BitVec 3) (x7 : BitVec 3)
    (h : x0 ++ x1 ++ x2 ++ x3 ++ x4 ++ x5 ++ x6 ++ x7 = w) : field w 26 6 = x0 ∧ field w 20 6 = x1 ∧ field w 14 6 = x2 ∧ field w 8 6 = x3 ∧ field w 7 1 = x4 ∧ field w 6 1 = x5 ∧ field w 3 3 = x6 ∧ field w 0 3 = x7 := by
  have v0 : w.toNat / 2 ^ 0 = (((((((x0.toNat * 2 ^ 6 + x1.toNat) * 2 ^ 6 + x2.toNat) * 2 ^ 6 + x3.toNat) * 2 ^ 1 + x4.toNat) * 2 ^ 1 + x5.toNat) * 2 ^ 3 + x6.toNat) * 2 ^ 3 + x7.toNat) := by
    rw [Nat.pow_zero, Nat.div_one, ← h, cat_toNat]
    try simp only [cat_toNat]
  have ⟨f7, v1⟩ := peel v0
  have ⟨f6, v2⟩ := peel v1
  have ⟨f5, v3⟩ := peel v2
  have ⟨f4, v4⟩ := peel v3
  have ⟨f3, v5⟩ := peel v4
  have ⟨f2, v6⟩ := peel v5
  have ⟨f1, v7⟩ := peel v6
  exact ⟨peel_last v7, f1, f2, f3, f4, f5, f6, f7⟩

theorem cat_9_3_6_6_1_1_3_3 {w : BitVec 32} (x0 : BitVec 9) (x1 : BitVec 3) (x2 : BitVec 6) (x3 : BitVec 6) (x4 : BitVec 1) (x5 : BitVec 1) (x6 : BitVec 3) (x7 : BitVec 3)
    (h : x0 ++ x1 ++ x2 ++ x3 ++ x4 ++ x5 ++ x6 ++ x7 = w) : field w 23 9 = x0 ∧ field w 20 3 = x1 ∧ field w 14 6 = x2 ∧ field w 8 6 = x3 ∧ field w 7 1 = x4 ∧ field w 6 1 = x5 ∧ field w 3 3 = x6 ∧ field w 0 3 = x7 := by
  have v0 : w.toNat / 2 ^ 0 = (((((((x0.toNat * 2 ^ 3 + x1.toNat) * 2 ^ 6 + x2.toNat) * 2 ^ 6 + x3.toNat) * 2 ^ 1 + x4.toNat) * 2 ^ 1 + x5.toNat) * 2 ^ 3 + x6.toNat) * 2 ^ 3 + x7.toNat) := by
    rw [Nat.pow_zero, Nat.div_one, ← h, cat_toNat]
    try simp only [cat_toNat]
  have ⟨f7, v1⟩ := peel v0
  have ⟨f6, v2⟩ := peel v1
  have ⟨f5, v3⟩ := peel v2
  have ⟨f4, v4⟩ := peel v3
  have ⟨f3, v5⟩ := peel v4
  have ⟨f2, v6⟩ := peel v5
  have ⟨f1, v7⟩ := peel v6
  exact ⟨peel_last v7, f1, f2, f3, f4, f5, f6, f7⟩

theorem cat_6_6_14_3_3 {w : BitVec 32} (x0 : BitVec 6) (x1 : BitVec 6) (x2 : BitVec 14) (x3 : BitVec 3) (x4 : BitVec 3)
    (h : x0 ++ x1 ++ x2 ++ x3 ++ x4 = w) : field w 26 6 = x0 ∧ field w 20 6 = x1 ∧ field w 6 14 = x2 ∧ field w 3 3 = x3 ∧ field w 0 3 = x4 := by
  have v0 : w.toNat / 2 ^ 0 = ((((x0.toNat * 2 ^ 6 + x1.toNat) * 2 ^ 14 + x2.toNat) * 2 ^ 3 + x3.toNat) * 2 ^ 3 + x4.toNat) := by
    rw [Nat.pow_zero, Nat.div_one, ← h, cat_toNat]
    try simp only [cat_toNat]
  have ⟨f4, v1⟩ := peel v0
  have ⟨f3, v2⟩ := peel v1
  have ⟨f2, v3⟩ := peel v2
  have ⟨f1, v4⟩ := peel v3
  exact ⟨peel_last v4, f1, f2, f3, f4⟩

theorem cat_6_6_6_6_1_7 {w : BitVec 32} (x0 : BitVec 6) (x1 : BitVec 6) (x2 : BitVec 6) (x3 : BitVec 6) (x4 : BitVec 1) (x5 : BitVec 7)
    (h : x0 ++ x1 ++ x2 ++ x3 ++ x4 ++ x5 = w) : field w 26 6 = x0 ∧ field w 20 6 = x1 ∧ field w 14 6 = x2 ∧ field w 8 6 = x3 ∧ field w 7 1 = x4 ∧ field w 0 7 = x5 := by
  have v0 : w.toNat / 2 ^ 0 = (((((x0.toNat * 2 ^ 6 + x1.toNat) * 2 ^ 6 + x2.toNat) * 2 ^ 6 + x3.toNat) * 2 ^ 1 + x4.toNat) * 2 ^ 7 + x5.toNat) := by
    rw [Nat.pow_zero, Nat.div_one, ← h, cat_toNat]
    try simp only [cat_toNat]
  have ⟨f5, v1⟩ := peel v0
  have ⟨f4, v2⟩ := peel v1
  have ⟨f3, v3⟩ := peel v2
  have ⟨f2, v4⟩ := peel v3
  have ⟨f1, v5⟩ := peel v4
  exact ⟨peel_last v5, f1, f2, f3, f4, f5⟩

theorem cat_6_6_6_6_1_1_6 {w : BitVec 32} (x0 : BitVec 6) (x1 : BitVec 6) (x2 : BitVec 6) (x3 : BitVec 6) (x4 : BitVec 1) (x5 : BitVec 1) (x6 : BitVec 6)
    (h : x0 ++ x1 ++ x2 ++ x3 ++ x4 ++ x5 ++ x6 = w) : field w 26 6 = x0 ∧ field w 20 6 = x1 ∧ field w 14 6 = x2 ∧ field w 8 6 = x3 ∧ field w 7 1 = x4 ∧ field w 6 1 = x5 ∧ field w 0 6 = x6 := by
  have v0 : w.toNat / 2 ^ 0 = ((((((x0.toNat * 2 ^ 6 + x1.toNat) * 2 ^ 6 + x2.toNat) * 2 ^ 6 + x3.toNat) * 2 ^ 1 + x4.toNat) * 2 ^ 1 + x5.toNat) * 2 ^ 6 + x6.toNat) := by
    rw [Nat.pow_zero, Nat.div_one, ← h, cat_toNat]
    try simp only [cat_toNat]
  have ⟨f6, v1⟩ := peel v0
  have ⟨f5, v2⟩ := peel v1
  have ⟨f4, v3⟩ := peel v2
  have ⟨f3, v4⟩ := peel v3
  have ⟨f2, v5⟩ := peel v4
  have ⟨f1, v6⟩ := peel v5
  exact ⟨peel_last v6, f1, f2, f3, f4, f5, f6⟩

theorem cat_12_6_6_1_7 {w : BitVec 32} (x0 : BitVec 12) (x1 : BitVec 6) (x2 : BitVec 6) (x3 : BitVec 1) (x4 : BitVec 7)
    (h : x0 ++ x1 ++ x2 ++ x3 ++ x4 = w) : field w 20 12 = x0 ∧ field w 14 6 = x1 ∧ field w 8 6 = x2 ∧ field w 7 1 = x3 ∧ field w 0 7 = x4 := by
  have v0 : w.toNat / 2 ^ 0 = ((((x0.toNat * 2 ^ 6 + x1.toNat) * 2 ^ 6 + x2.toNat) * 2 ^ 1 + x3.toNat) * 2 ^ 7 + x4.toNat) := by
    rw [Nat.pow_zero, Nat.div_one, ← h, cat_toNat]
    try simp only [cat_toNat]
  have ⟨f4, v1⟩ := peel v0
  have ⟨f3, v2⟩ := peel v1
  have ⟨f2, v3⟩ := peel v2
  have ⟨f1, v4⟩ := peel v3
  exact ⟨peel_last v4, f1, f2, f3, f4⟩

theorem cat_6_6_6_5_3_6 {w : BitVec 32} (x0 : BitVec 6) (x1 : BitVec 6) (x2 : BitVec 6) (x3 : BitVec 5) (x4 : BitVec 3) (x5 : BitVec 6)
    (h : x0 ++ x1 ++ x2 ++ x3 ++ x4 ++ x5 = w) : field w 26 6 = x0 ∧ field w 20 6 = x1 ∧ field w 14 6 = x2 ∧ field w 9 5 = x3 ∧ field w 6 3 = x4 ∧ field w 0 6 = x5 := by
  have v0 : w.toNat / 2 ^ 0 = (((((x0.toNat * 2 ^ 6 + x1.toNat) * 2 ^ 6 + x2.toNat) * 2 ^ 5 + x3.toNat) * 2 ^ 3 + x4.toNat) * 2 ^ 6 + x5.toNat) := by
    rw [Nat.pow_zero, Nat.div_one, ← h, cat_toNat]
    try simp only [cat_toNat]
  have ⟨f5, v1⟩ := peel v0
  have ⟨f4, v2⟩ := peel v1
  have ⟨f3, v3⟩ := peel v2
  have ⟨f2, v4⟩ := peel v3
  have ⟨f1, v5⟩ := peel v4
  exact ⟨peel_last v5, f1, f2, f3, f4, f5⟩

theorem cat_6_6_6_5_1_2_3_3 {w : BitVec 32} (x0 : BitVec 6) (x1 : BitVec 6) (x2 : BitVec 6) (x3 : BitVec 5) (x4 : BitVec 1) (x5 : BitVec 2) (x6 : BitVec 3) (x7 : BitVec 3)
    (h : x0 ++ x1 ++ x2 ++ x3 ++ x4 ++ x5 ++ x6 ++ x7 = w) : field w 26 6 = x0 ∧ field w 20 6 = x1 ∧ field w 14 6 = x2 ∧ field w 9 5 = x3 ∧ field w 8 1 = x4 ∧ field w 6 2 = x5 ∧ field w 3 3 = x6 ∧ field w 0 3 = x7 := by
  have v0 : w.toNat / 2 ^ 0 = (((((((x0.toNat * 2 ^ 6 + x1.toNat) * 2 ^ 6 + x2.toNat) * 2 ^ 5 + x3.toNat) * 2 ^ 1 + x4.toNat) * 2 ^ 2 + x5.toNat) * 2 ^ 3 + x6.toNat) * 2 ^ 3 + x7.toNat) := by
    rw [Nat.pow_zero, Nat.div_one, ← h, cat_toNat]
    try simp only [cat_toNat]
  have ⟨f7, v1⟩ := peel v0
  have ⟨f6, v2⟩ := peel v1
  have ⟨f5, v3⟩ := peel v2
  have ⟨f4, v4⟩ := peel v3
  have ⟨f3, v5⟩ := peel v4
  have ⟨f2, v6⟩ := peel v5
  have ⟨f1, v7⟩ := peel v6
  exact ⟨peel_last v7, f1, f2, f3, f4, f5, f6, f7⟩

theorem cat_6_6_6_5_3_3_3 {w : BitVec 32} (x0 : BitVec 6) (x1 : BitVec 6) (x2 : BitVec 6) (x3 : BitVec 5) (x4 : BitVec 3) (x5 : BitVec 3) (x6 : BitVec 3)
    (h : x0 ++ x1 ++ x2 ++ x3 ++ x4 ++ x5 ++ x6 = w) : field w 26 6 = x0 ∧ field w 20 6 = x1 ∧ field w 14 6 = x2 ∧ field w 9 5 = x3 ∧ field w 6 3 = x4 ∧ field w 3 3 = x5 ∧ field w 0 3 = x6 := by
  have v0 : w.toNat / 2 ^ 0 = ((((((x0.toNat * 2 ^ 6 + x1.toNat) * 2 ^ 6 + x2.toNat) * 2 ^ 5 + x3.toNat) * 2 ^ 3 + x4.toNat) * 2 ^ 3 + x5.toNat) * 2 ^ 3 + x6.toNat) := by
    rw [Nat.pow_zero, Nat.div_one, ← h, cat_toNat]
    try simp only [cat_toNat]
  have ⟨f6, v1⟩ := peel v0
  have ⟨f5, v2⟩ := peel v1
  have ⟨f4, v3⟩ := peel v2
  have ⟨f3, v4⟩ := peel v3
  have ⟨f2, v5⟩ := peel v4
  have ⟨f1, v6⟩ := peel v5
  exact ⟨peel_last v6, f1, f2, f3, f4, f5, f6⟩

theorem cat_7_5_6_5_1_8 {w : BitVec 32} (x0 : BitVec 7) (x1 : BitVec 5) (x2 : BitVec 6) (x3 : BitVec 5) (x4 : BitVec 1) (x5 : BitVec 8)
    (h : x0 ++ x1 ++ x2 ++ x3 ++ x4 ++ x5 = w) : field w 25 7 = x0 ∧ field w 20 5 = x1 ∧ field w 14 6 = x2 ∧ field w 9 5 = x3 ∧ field w 8 1 = x4 ∧ field w 0 8 = x5 := by
  have v0 : w.toNat / 2 ^ 0 = (((((x0.toNat * 2 ^ 5 + x1.toNat) * 2 ^ 6 + x2.toNat) * 2 ^ 5 + x3.toNat) * 2 ^ 1 + x4.toNat) * 2 ^ 8 + x5.toNat) := by
    rw [Nat.pow_zero, Nat.div_one, ← h, cat_toNat]
    try simp only [cat_toNat]
  have ⟨f5, v1⟩ := peel v0
  have ⟨f4, v2⟩ := peel v1
  have ⟨f3, v3⟩ := peel v2
  have ⟨f2, v4⟩ := peel v3
  have ⟨f1, v5⟩ := peel v4
  exact ⟨peel_last v5, f1, f2, f3, f4, f5⟩

theorem cat_12_6_5_1_2_3_3 {w : BitVec 32} (x0 : BitVec 12) (x1 : BitVec 6) (x2 : BitVec 5) (x3 : BitVec 1) (x4 : BitVec 2) (x5 : BitVec 3) (x6 : BitVec 3)
    (h : x0 ++ x1 ++ x2 ++ x3 ++ x4 ++ x5 ++ x6 = w) : field w 20 12 = x0 ∧ field w 14 6 = x1 ∧ field w 9 5 = x2 ∧ field w 8 1 = x3 ∧ field w 6 2 = x4 ∧ field w 3 3 = x5 ∧ field w 0 3 = x6 := by
  have v0 : w.toNat / 2 ^ 0 = ((((((x0.toNat * 2 ^ 6 + x1.toNat) * 2 ^ 5 + x2.toNat) * 2 ^ 1 + x3.toNat) * 2 ^ 2 + x4.toNat) * 2 ^ 3 + x5.toNat) * 2 ^ 3 + x6.toNat) := by
    rw [Nat.pow_zero, Nat.div_one, ← h, cat_toNat]
    try simp only [cat_toNat]
  have ⟨f6, v1⟩ := peel v0
  have ⟨f5, v2⟩ := peel v1
  have ⟨f4, v3⟩ := peel v2
  have ⟨f3, v4⟩ := peel v3
  have ⟨f2, v5⟩ := peel v4
  have ⟨f1, v6⟩ := peel v5
  exact ⟨peel_last v6, f1, f2, f3, f4, f5, f6⟩

theorem cat_6_6_5_9_3_3 {w : BitVec 32} (x0 : BitVec 6) (x1 : BitVec 6) (x2 : BitVec 5) (x3 : BitVec 9) (x4 : BitVec 3) (x5 : BitVec 3)
    (h : x0 ++ x1 ++ x2 ++ x3 ++ x4 ++ x5 = w) : field w 26 6 = x0 ∧ field w 20 6 = x1 ∧ field w 15 5 = x2 ∧ field w 6 9 = x3 ∧ field w 3 3 = x4 ∧ field w 0 3 = x5 := by
  have v0 : w.toNat / 2 ^ 0 = (((((x0.toNat * 2 ^ 6 + x1.toNat) * 2 ^ 5 + x2.toNat) * 2 ^ 9 + x3.toNat) * 2 ^ 3 + x4.toNat) * 2 ^ 3 + x5.toNat) := by
    rw [Nat.pow_zero, Nat.div_one, ← h, cat_toNat]
    try simp only [cat_toNat]
  have ⟨f5, v1⟩ := peel v0
  have ⟨f4, v2⟩ := peel v1
  have ⟨f3, v3⟩ := peel v2
  have ⟨f2, v4⟩ := peel v3
  have ⟨f1, v5⟩ := peel v4
  exact ⟨peel_last v5, f1, f2, f3, f4, f5⟩

theorem cat_6_6_5_1_5_3_3_3 {w : BitVec 32} (x0 : BitVec 6) (x1 : BitVec 6) (x2 : BitVec 5) (x3 : BitVec 1) (x4 : BitVec 5) (x5 : BitVec 3) (x6 : BitVec 3) (x7 : BitVec 3)
    (h : x0 ++ x1 ++ x2 ++ x3 ++ x4 ++ x5 ++ x6 ++ x7 = w) : field w 26 6 = x0 ∧ field w 20 6 = x1 ∧ field w 15 5 = x2 ∧ field w 14 1 = x3 ∧ field w 9 5 = x4 ∧ field w 6 3 = x5 ∧ field w 3 3 = x6 ∧ field w 0 3 = x7 := by
  have v0 : w.toNat / 2 ^ 0 = (((((((x0.toNat * 2 ^ 6 + x1.toNat) * 2 ^ 5 + x2.toNat) * 2 ^ 1 + x3.toNat) * 2 ^ 5 + x4.toNat) * 2 ^ 3 + x5.toNat) * 2 ^ 3 + x6.toNat) * 2 ^ 3 + x7.toNat) := by
    rw [Nat.pow_zero, Nat.div_one, ← h, cat_toNat]
    try simp only [cat_toNat]
  have ⟨f7, v1⟩ := peel v0
  have ⟨f6, v2⟩ := peel v1
  have ⟨f5, v3⟩ := peel v2
  have ⟨f4, v4⟩ := peel v3
  have ⟨f3, v5⟩ := peel v4
  have ⟨f2, v6⟩ := peel v5
  have ⟨f1, v7⟩ := peel v6
  exact ⟨peel_last v7, f1, f2, f3, f4, f5, f6, f7⟩

theorem cat_6_6_5_6_1_2_3_3 {w : BitVec 32} (x0 : BitVec 6) (x1 : BitVec 6) (x2 : BitVec 5) (x3 : BitVec 6) (x4 : BitVec 1) (x5 : BitVec 2) (x6 : BitVec 3) (x7 : BitVec 3)
    (h : x0 ++ x1 ++ x2 ++ x3 ++ x4 ++ x5 ++ x6 ++ x7 = w) : field w 26 6 = x0 ∧ field w 20 6 = x1 ∧ field w 15 5 = x2 ∧ field w 9 6 = x3 ∧ field w 8 1 = x4 ∧ field w 6 2 = x5 ∧ field w 3 3 = x6 ∧ field w 0 3 = x7 := by
  have v0 : w.toNat / 2 ^ 0 = (((((((x0.toNat * 2 ^ 6 + x1.toNat) * 2 ^ 5 + x2.toNat) * 2 ^ 6 + x3.toNat) * 2 ^ 1 + x4.toNat) * 2 ^ 2 + x5.toNat) * 2 ^ 3 + x6.toNat) * 2 ^ 3 + x7.toNat) := by
    rw [Nat.pow_zero, Nat.div_one, ← h, cat_toNat]
    try simp only [cat_toNat]
  have ⟨f7, v1⟩ := peel v0
  have ⟨f6, v2⟩ := peel v1
  have ⟨f5, v3⟩ := peel v2
  have ⟨f4, v4⟩ := peel v3
  have ⟨f3, v5⟩ := peel v4
  have ⟨f2, v6⟩ := peel v5
  have ⟨f1, v7⟩ := peel v6
  exact ⟨peel_last v7, f1, f2, f3, f4, f5, f6, f7⟩

theorem cat_6_6_9_1_2_1_7 {w : BitVec 32} (x0 : BitVec 6) (x1 : BitVec 6) (x2 : BitVec 9) (x3 : BitVec 1) (x4 : BitVec 2) (x5 : BitVec 1) (x6 : BitVec 7)
    (h : x0 ++ x1 ++ x2 ++ x3 ++ x4 ++ x5 ++ x6 = w) : field w 26 6 = x0 ∧ field w 20 6 = x1 ∧ field w 11 9 = x2 ∧ field w 10 1 = x3 ∧ field w 8 2 = x4 ∧ field w 7 1 = x5 ∧ field w 0 7 = x6 := by
  have v0 : w.toNat / 2 ^ 0 = ((((((x0.toNat * 2 ^ 6 + x1.toNat) * 2 ^ 9 + x2.toNat) * 2 ^ 1 + x3.toNat) * 2 ^ 2 + x4.toNat) * 2 ^ 1 + x5.toNat) * 2 ^ 7 + x6.toNat) := by
    rw [Nat.pow_zero, Nat.div_one, ← h, cat_toNat]
    try simp only [cat_toNat]
  have ⟨f6, v1⟩ := peel v0
  have ⟨f5, v2⟩ := peel v1
  have ⟨f4, v3⟩ := peel v2
  have ⟨f3, v4⟩ := peel v3
  have ⟨f2, v5⟩ := peel v4
  have ⟨f1, v6⟩ := peel v5
  exact ⟨peel_last v6, f1, f2, f3, f4, f5, f6⟩

theorem cat_6_6_9_3_8 {w : BitVec 32} (x0 : BitVec 6) (x1 : BitVec 6) (x2 : BitVec 9) (x3 : BitVec 3) (x4 : BitVec 8)
    (h : x0 ++ x1 ++ x2 ++ x3 ++ x4 = w) : field w 26 6 = x0 ∧ field w 20 6 = x1 ∧ field w 11 9 = x2 ∧ field w 8 3 = x3 ∧ field w 0 8 = x4 := by
  have v0 : w.toNat / 2 ^ 0 = ((((x0.toNat * 2 ^ 6 + x1.toNat) * 2 ^ 9 + x2.toNat) * 2 ^ 3 + x3.toNat) * 2 ^ 8 + x4.toNat) := by
    rw [Nat.pow_zero, Nat.div_one, ← h, cat_toNat]
    try simp only [cat_toNat]
  have ⟨f4, v1⟩ := peel v0
  have ⟨f3, v2⟩ := peel v1
  have ⟨f2, v3⟩ := peel v2
  have ⟨f1, v4⟩ := peel v3
  exact ⟨peel_last v4, f1, f2, f3, f4⟩

theorem cat_6_6_9_11 {w : BitVec 32} (x0 : BitVec 6) (x1 : BitVec 6) (x2 : BitVec 9) (x3 : BitVec 11)
    (h : x0 ++ x1 ++ x2 ++ x3 = w) : field w 26 6 = x0 ∧ field w 20 6 = x1 ∧ field w 11 9 = x2 ∧ field w 0 11 = x3 := by
  have v0 : w.toNat / 2 ^ 0 = (((x0.toNat * 2 ^ 6 + x1.toNat) * 2 ^ 9 + x2.toNat) * 2 ^ 11 + x3.toNat) := by
    rw [Nat.pow_zero, Nat.div_one, ← h, cat_toNat]
    try simp only [cat_toNat]
  have ⟨f3, v1⟩ := peel v0
  have ⟨f2, v2⟩ := peel v1
  have ⟨f1, v3⟩ := peel v2
  exact ⟨peel_last v3, f1, f2, f3⟩

theorem cat_6_6_9_3_1_7 {w : BitVec 32} (x0 : BitVec 6) (x1 : BitVec 6) (x2 : BitVec 9) (x3 : BitVec 3) (x4 : BitVec 1) (x5 : BitVec 7)
    (h : x0 ++ x1 ++ x2 ++ x3 ++ x4 ++ x5 = w) : field w 26 6 = x0 ∧ field w 20 6 = x1 ∧ field w 11 9 = x2 ∧ field w 8 3 = x3 ∧ field w 7 1 = x4 ∧ field w 0 7 = x5 := by
  have v0 : w.toNat / 2 ^ 0 = (((((x0.toNat * 2 ^ 6 + x1.toNat) * 2 ^ 9 + x2.toNat) * 2 ^ 3 + x3.toNat) * 2 ^ 1 + x4.toNat) * 2 ^ 7 + x5.toNat) := by
    rw [Nat.pow_zero, Nat.div_one, ← h, cat_toNat]
    try simp only [cat_toNat]
  have ⟨f5, v1⟩ := peel v0
  have ⟨f4, v2⟩ := peel v1
  have ⟨f3, v3⟩ := peel v2
  have ⟨f2, v4⟩ := peel v3
  have ⟨f1, v5⟩ := peel v4
  exact ⟨peel_last v5, f1, f2, f3, f4, f5⟩

theorem cat_7_5_5_4_1_2_1_4_3 {w : BitVec 32} (x0 : BitVec 7) (x1 : BitVec 5) (x2 : BitVec 5) (x3 : BitVec 4) (x4 : BitVec 1) (x5 : BitVec 2) (x6 : BitVec 1) (x7 : BitVec 4) (x8 : BitVec 3)
    (h : x0 ++ x1 ++ x2 ++ x3 ++ x4 ++ x5 ++ x6 ++ x7 ++ x8 = w) : field w 25 7 = x0 ∧ field w 20 5 = x1 ∧ field w 15 5 = x2 ∧ field w 11 4 = x3 ∧ field w 10 1 = x4 ∧ field w 8 2 = x5 ∧ field w 7 1 = x6 ∧ field w 3 4 = x7 ∧ field w 0 3 = x8 := by
  have v0 : w.toNat / 2 ^ 0 = ((((((((x0.toNat * 2 ^ 5 + x1.toNat) * 2 ^ 5 + x2.toNat) * 2 ^ 4 + x3.toNat) * 2 ^ 1 + x4.toNat) * 2 ^ 2 + x5.toNat) * 2 ^ 1 + x6.toNat) * 2 ^ 4 + x7.toNat) * 2 ^ 3 + x8.toNat) := by
    rw [Nat.pow_zero, Nat.div_one, ← h, cat_toNat]
    try simp only [cat_toNat]
  have ⟨f8, v1⟩ := peel v0
  have ⟨f7, v2⟩ := peel v1
  have ⟨f6, v3⟩ := peel v2
  have ⟨f5, v4⟩ := peel v3
  have ⟨f4, v5⟩ := peel v4
  have ⟨f3, v6⟩ := peel v5
  have ⟨f2, v7⟩ := peel v6
  have ⟨f1, v8⟩ := peel v7
  exact ⟨peel_last v8, f1, f2, f3, f4, f5, f6, f7, f8⟩

theorem cat_6_6_12_1_7 {w : BitVec 32} (x0 : BitVec 6) (x1 : BitVec 6) (x2 : BitVec 12) (x3 : BitVec 1) (x4 : BitVec 7)
    (h : x0 ++ x1 ++ x2 ++ x3 ++ x4 = w) : field w 26 6 = x0 ∧ field w 20 6 = x1 ∧ field w 8 12 = x2 ∧ field w 7 1 = x3 ∧ field w 0 7 = x4 := by
  have v0 : w.toNat / 2 ^ 0 = ((((x0.toNat * 2 ^ 6 + x1.toNat) * 2 ^ 12 + x2.toNat) * 2 ^ 1 + x3.toNat) * 2 ^ 7 + x4.toNat) := by
    rw [Nat.pow_zero, Nat.div_one, ← h, cat_toNat]
    try simp only [cat_toNat]
  have ⟨f4, v1⟩ := peel v0
  have ⟨f3, v2⟩ := peel v1
  have ⟨f2, v3⟩ := peel v2
  have ⟨f1, v4⟩ := peel v3
  exact ⟨peel_last v4, f1, f2, f3, f4⟩

theorem cat_6_6_5_5_10 {w : BitVec 32} (x0 : BitVec 6) (x1 : BitVec 6) (x2 : BitVec 5) (x3 : BitVec 5) (x4 : BitVec 10)
    (h : x0 ++ x1 ++ x2 ++ x3 ++ x4 = w) : field w 26 6 = x0 ∧ field w 20 6 = x1 ∧ field w 15 5 = x2 ∧ field w 10 5 = x3 ∧ field w 0 10 = x4 := by
  have v0 : w.toNat / 2 ^ 0 = ((((x0.toNat * 2 ^ 6 + x1.toNat) * 2 ^ 5 + x2.toNat) * 2 ^ 5 + x3.toNat) * 2 ^ 10 + x4.toNat) := by
    rw [Nat.pow_zero, Nat.div_one, ← h, cat_toNat]
    try simp only [cat_toNat]
  have ⟨f4, v1⟩ := peel v0
  have ⟨f3, v2⟩ := peel v1
  have ⟨f2, v3⟩ := peel v2
  have ⟨f1, v4⟩ := peel v3
  exact ⟨peel_last v4, f1, f2, f3, f4⟩

theorem cat_7_5_5_15 {w : BitVec 32} (x0 : BitVec 7) (x1 : BitVec 5) (x2 : BitVec 5) (x3 : BitVec 15)
    (h : x0 ++ x1 ++ x2 ++ x3 = w) : field w 25 7 = x0 ∧ field w 20 5 = x1 ∧ field w 15 5 = x2 ∧ field w 0 15 = x3 := by
  have v0 : w.toNat / 2 ^ 0 = (((x0.toNat * 2 ^ 5 + x1.toNat) * 2 ^ 5 + x2.toNat) * 2 ^ 15 + x3.toNat) := by
    rw [Nat.pow_zero, Nat.div_one, ← h, cat_toNat]
    try simp only [cat_toNat]
  have ⟨f3, v1⟩ := peel v0
  have ⟨f2, v2⟩ := peel v1
  have ⟨f1, v3⟩ := peel v2
  exact ⟨peel_last v3, f1, f2, f3⟩

theorem cat_6_6_20 {w : BitVec 32} (x0 : BitVec 6) (x1 : BitVec 6) (x2 : BitVec 20)
    (h : x0 ++ x1 ++ x2 = w) : field w 26 6 = x0 ∧ field w 20 6 = x1 ∧ field w 0 20 = x2 := by
  have v0 : w.toNat / 2 ^ 0 = ((x0.toNat * 2 ^ 6 + x1.toNat) * 2 ^ 20 + x2.toNat) := by
    rw [Nat.pow_zero, Nat.div_one, ← h, cat_toNat]
    try simp only [cat_toNat]
  have ⟨f2, v1⟩ := peel v0
  have ⟨f1, v2⟩ := peel v1
  exact ⟨peel_last v2, f1, f2⟩

theorem cat_6_6_5_5_7_3 {w : BitVec 32} (x0 : BitVec 6) (x1 : BitVec 6) (x2 : BitVec 5) (x3 : BitVec 5) (x4 : BitVec 7) (x5 : BitVec 3)
    (h : x0 ++ x1 ++ x2 ++ x3 ++ x4 ++ x5 = w) : field w 26 6 = x0 ∧ field w 20 6 = x1 ∧ field w 15 5 = x2 ∧ field w 10 5 = x3 ∧ field w 3 7 = x4 ∧ field w 0 3 = x5 := by
  have v0 : w.toNat / 2 ^ 0 = (((((x0.toNat * 2 ^ 6 + x1.toNat) * 2 ^ 5 + x2.toNat) * 2 ^ 5 + x3.toNat) * 2 ^ 7 + x4.toNat) * 2 ^ 3 + x5.toNat) := by
    rw [Nat.pow_zero, Nat.div_one, ← h, cat_toNat]
    try simp only [cat_toNat]
  have ⟨f5, v1⟩ := peel v0
  have ⟨f4, v2⟩ := peel v1
  have ⟨f3, v3⟩ := peel v2
  have ⟨f2, v4⟩ := peel v3
  have ⟨f1, v5⟩ := peel v4
  exact ⟨peel_last v5, f1, f2, f3, f4, f5⟩

theorem cat_8_3_2_3_2_3_11 {w : BitVec 32} (x0 : BitVec 8) (x1 : BitVec 3) (x2 : BitVec 2) (x3 : BitVec 3) (x4 : BitVec 2) (x5 : BitVec 3) (x6 : BitVec 11)
    (h : x0 ++ x1 ++ x2 ++ x3 ++ x4 ++ x5 ++ x6 = w) : field w 24 8 = x0 ∧ field w 21 3 = x1 ∧ field w 19 2 = x2 ∧ field w 16 3 = x3 ∧ field w 14 2 = x4 ∧ field w 11 3 = x5 ∧ field w 0 11 = x6 := by
  have v0 : w.toNat / 2 ^ 0 = ((((((x0.toNat * 2 ^ 3 + x1.toNat) * 2 ^ 2 + x2.toNat) * 2 ^ 3 + x3.toNat) * 2 ^ 2 + x4.toNat) * 2 ^ 3 + x5.toNat) * 2 ^ 11 + x6.toNat) := by
    rw [Nat.pow_zero, Nat.div_one, ← h, cat_toNat]
    try simp only [cat_toNat]
  have ⟨f6, v1⟩ := peel v0
  have ⟨f5, v2⟩ := peel v1
  have ⟨f4, v3⟩ := peel v2
  have ⟨f3, v4⟩ := peel v3
  have ⟨f2, v5⟩ := peel v4
  have ⟨f1, v6⟩ := peel v5
  exact ⟨peel_last v6, f1, f2, f3, f4, f5, f6⟩

theorem cat_8_3_2_3_16 {w : BitVec 32} (x0 : BitVec 8) (x1 : BitVec 3) (x2 : BitVec 2) (x3 : BitVec 3) (x4 : BitVec 16)
    (h : x0 ++ x1 ++ x2 ++ x3 ++ x4 = w) : field w 24 8 = x0 ∧ field w 21 3 = x1 ∧ field w 19 2 = x2 ∧ field w 16 3 = x3 ∧ field w 0 16 = x4 := by
  have v0 : w.toNat / 2 ^ 0 = ((((x0.toNat * 2 ^ 3 + x1.toNat) * 2 ^ 2 + x2.toNat) * 2 ^ 3 + x3.toNat) * 2 ^ 16 + x4.toNat) := by
    rw [Nat.pow_zero, Nat.div_one, ← h, cat_toNat]
    try simp only [cat_toNat]
  have ⟨f4, v1⟩ := peel v0
  have ⟨f3, v2⟩ := peel v1
  have ⟨f2, v3⟩ := peel v2
  have ⟨f1, v4⟩ := peel v3
  exact ⟨peel_last v4, f1, f2, f3, f4⟩

theorem cat_6_5_2_3_16 {w : BitVec 32} (x0 : BitVec 6) (x1 : BitVec 5) (x2 : BitVec 2) (x3 : BitVec 3) (x4 : BitVec 16)
    (h : x0 ++ x1 ++ x2 ++ x3 ++ x4 = w) : field w 26 6 = x0 ∧ field w 21 5 = x1 ∧ field w 19 2 = x2 ∧ field w 16 3 = x3 ∧ field w 0 16 = x4 := by
  have v0 : w.toNat / 2 ^ 0 = ((((x0.toNat * 2 ^ 5 + x1.toNat) * 2 ^ 2 + x2.toNat) * 2 ^ 3 + x3.toNat) * 2 ^ 16 + x4.toNat) := by
    rw [Nat.pow_zero, Nat.div_one, ← h, cat_toNat]
    try simp only [cat_toNat]
  have ⟨f4, v1⟩ := peel v0
  have ⟨f3, v2⟩ := peel v1
  have ⟨f2, v3⟩ := peel v2
  have ⟨f1, v4⟩ := peel v3
  exact ⟨peel_last v4, f1, f2, f3, f4⟩

theorem cat_11_5_5_11 {w : BitVec 32} (x0 : BitVec 11) (x1 : BitVec 5) (x2 : BitVec 5) (x3 : BitVec 11)
    (h : x0 ++ x1 ++ x2 ++ x3 = w) : field w 21 11 = x0 ∧ field w 16 5 = x1 ∧ field w 11 5 = x2 ∧ field w 0 11 = x3 := by
  have v0 : w.toNat / 2 ^ 0 = (((x0.toNat * 2 ^ 5 + x1.toNat) * 2 ^ 5 + x2.toNat) * 2 ^ 11 + x3.toNat) := by
    rw [Nat.pow_zero, Nat.div_one, ← h, cat_toNat]
    try simp only [cat_toNat]
  have ⟨f3, v1⟩ := peel v0
  have ⟨f2, v2⟩ := peel v1
  have ⟨f1, v3⟩ := peel v2
  exact ⟨peel_last v3, f1, f2, f3⟩

theorem cat_11_5_5_3_2_6 {w : BitVec 32} (x0 : BitVec 11) (x1 : BitVec 5) (x2 : BitVec 5) (x3 : BitVec 3) (x4 : BitVec 2) (x5 : BitVec 6)
    (h : x0 ++ x1 ++ x2 ++ x3 ++ x4 ++ x5 = w) : field w 21 11 = x0 ∧ field w 16 5 = x1 ∧ field w 11 5 = x2 ∧ field w 8 3 = x3 ∧ field w 6 2 = x4 ∧ field w 0 6 = x5 := by
  have v0 : w.toNat / 2 ^ 0 = (((((x0.toNat * 2 ^ 5 + x1.toNat) * 2 ^ 5 + x2.toNat) * 2 ^ 3 + x3.toNat) * 2 ^ 2 + x4.toNat) * 2 ^ 6 + x5.toNat) := by
    rw [Nat.pow_zero, Nat.div_one, ← h, cat_toNat]
    try simp only [cat_toNat]
  have ⟨f5, v1⟩ := peel v0
  have ⟨f4, v2⟩ := peel v1
  have ⟨f3, v3⟩ := peel v2
  have ⟨f2, v4⟩ := peel v3
  have ⟨f1, v5⟩ := peel v4
  exact ⟨peel_last v5, f1, f2, f3, f4, f5⟩

theorem cat_11_5_8_2_6 {w : BitVec 32} (x0 : BitVec 11) (x1 : BitVec 5) (x2 : BitVec 8) (x3 : BitVec 2) (x4 : BitVec 6)
    (h : x0 ++ x1 ++ x2 ++ x3 ++ x4 = w) : field w 21 11 = x0 ∧ field w 16 5 = x1 ∧ field w 8 8 = x2 ∧ field w 6 2 = x3 ∧ field w 0 6 = x4 := by
  have v0 : w.toNat / 2 ^ 0 = ((((x0.toNat * 2 ^ 5 + x1.toNat) * 2 ^ 8 + x2.toNat) * 2 ^ 2 + x3.toNat) * 2 ^ 6 + x4.toNat) := by
    rw [Nat.pow_zero, Nat.div_one, ← h, cat_toNat]
    try simp only [cat_toNat]
  have ⟨f4, v1⟩ := peel v0
  have ⟨f3, v2⟩ := peel v1
  have ⟨f2, v3⟩ := peel v2
  have ⟨f1, v4⟩ := peel v3
  exact ⟨peel_last v4, f1, f2, f3, f4⟩

theorem cat_11_5_7_3_6 {w : BitVec 32} (x0 : BitVec 11) (x1 : BitVec 5) (x2 : BitVec 7) (x3 : BitVec 3) (x4 : BitVec 6)
    (h : x0 ++ x1 ++ x2 ++ x3 ++ x4 = w) : field w 21 11 = x0 ∧ field w 16 5 = x1 ∧ field w 9 7 = x2 ∧ field w 6 3 = x3 ∧ field w 0 6 = x4 := by
  have v0 : w.toNat / 2 ^ 0 = ((((x0.toNat * 2 ^ 5 + x1.toNat) * 2 ^ 7 + x2.toNat) * 2 ^ 3 + x3.toNat) * 2 ^ 6 + x4.toNat) := by
    rw [Nat.pow_zero, Nat.div_one, ← h, cat_toNat]
    try simp only [cat_toNat]
  have ⟨f4, v1⟩ := peel v0
  have ⟨f3, v2⟩ := peel v1
  have ⟨f2, v3⟩ := peel v2
  have ⟨f1, v4⟩ := peel v3
  exact ⟨peel_last v4, f1, f2, f3, f4⟩

theorem cat_6_5_21 {w : BitVec 32} (x0 : BitVec 6) (x1 : BitVec 5) (x2 : BitVec 21)
    (h : x0 ++ x1 ++ x2 = w) : field w 26 6 = x0 ∧ field w 21 5 = x1 ∧ field w 0 21 = x2 := by
  have v0 : w.toNat / 2 ^ 0 = ((x0.toNat * 2 ^ 5 + x1.toNat) * 2 ^ 21 + x2.toNat) := by
    rw [Nat.pow_zero, Nat.div_one, ← h, cat_toNat]
    try simp only [cat_toNat]
  have ⟨f2, v1⟩ := peel v0
  have ⟨f1, v2⟩ := peel v1
  exact ⟨peel_last v2, f1, f2⟩

theorem cat_6_5_5_5_5_6 {w : BitVec 32} (x0 : BitVec 6) (x1 : BitVec 5) (x2 : BitVec 5) (x3 : BitVec 5) (x4 : BitVec 5) (x5 : BitVec 6)
    (h : x0 ++ x1 ++ x2 ++ x3 ++ x4 ++ x5 = w) : field w 26 6 = x0 ∧ field w 21 5 = x1 ∧ field w 16 5 = x2 ∧ field w 11 5 = x3 ∧ field w 6 5 = x4 ∧ field w 0 6 = x5 := by
  have v0 : w.toNat / 2 ^ 0 = (((((x0.toNat * 2 ^ 5 + x1.toNat) * 2 ^ 5 + x2.toNat) * 2 ^ 5 + x3.toNat) * 2 ^ 5 + x4.toNat) * 2 ^ 6 + x5.toNat) := by
    rw [Nat.pow_zero, Nat.div_one, ← h, cat_toNat]
    try simp only [cat_toNat]
  have ⟨f5, v1⟩ := peel v0
  have ⟨f4, v2⟩ := peel v1
  have ⟨f3, v3⟩ := peel v2
  have ⟨f2, v4⟩ := peel v3
  have ⟨f1, v5⟩ := peel v4
  exact ⟨peel_last v5, f1, f2, f3, f4, f5⟩

theorem cat_11_5_5_5_6 {w : BitVec 32} (x0 : BitVec 11) (x1 : BitVec 5) (x2 : BitVec 5) (x3 : BitVec 5) (x4 : BitVec 6)
    (h : x0 ++ x1 ++ x2 ++ x3 ++ x4 = w) : field w 21 11 = x0 ∧ field w 16 5 = x1 ∧ field w 11 5 = x2 ∧ field w 6 5 = x3 ∧ field w 0 6 = x4 := by
  have v0 : w.toNat / 2 ^ 0 = ((((x0.toNat * 2 ^ 5 + x1.toNat) * 2 ^ 5 + x2.toNat) * 2 ^ 5 + x3.toNat) * 2 ^ 6 + x4.toNat) := by
    rw [Nat.pow_zero, Nat.div_one, ← h, cat_toNat]
    try simp only [cat_toNat]
  have ⟨f4, v1⟩ := peel v0
  have ⟨f3, v2⟩ := peel v1
  have ⟨f2, v3⟩ := peel v2
  have ⟨f1, v4⟩ := peel v3
  exact ⟨peel_last v4, f1, f2, f3, f4⟩

/-! ### Majors -/

theorem layout_00 {w : BitVec 32} (h : majorOf w = 0) : layoutOf w = decodeMajor00 w := by unfold layoutOf; rw [h]; rfl
theorem layout_01 {w : BitVec 32} (h : majorOf w = 1) : layoutOf w = some (.addImm (field w 21 5) (field w 16 5) (field w 0 16)) := by unfold layoutOf; rw [h]; rfl
theorem layout_02 {w : BitVec 32} (h : majorOf w = 2) : layoutOf w = some (.andImm (field w 21 5) (field w 16 5) (field w 0 16)) := by unfold layoutOf; rw [h]; rfl
theorem layout_03 {w : BitVec 32} (h : majorOf w = 3) : layoutOf w = some (.orImm (field w 21 5) (field w 16 5) (field w 0 16)) := by unfold layoutOf; rw [h]; rfl
theorem layout_04 {w : BitVec 32} (h : majorOf w = 4) : layoutOf w = some (.xorImm (field w 21 5) (field w 16 5) (field w 0 16)) := by unfold layoutOf; rw [h]; rfl
theorem layout_05 {w : BitVec 32} (h : majorOf w = 5) : layoutOf w = some (.sltImm (field w 21 5) (field w 16 5) (field w 0 16)) := by unfold layoutOf; rw [h]; rfl
theorem layout_06 {w : BitVec 32} (h : majorOf w = 6) : layoutOf w = some (.sltUImm (field w 21 5) (field w 16 5) (field w 0 16)) := by unfold layoutOf; rw [h]; rfl
theorem layout_07 {w : BitVec 32} (h : majorOf w = 7) : layoutOf w = decodeMajor07 w := by unfold layoutOf; rw [h]; rfl
theorem layout_08 {w : BitVec 32} (h : majorOf w = 8) : layoutOf w = some (.ldB (field w 21 5) (field w 16 5) (field w 0 16)) := by unfold layoutOf; rw [h]; rfl
theorem layout_09 {w : BitVec 32} (h : majorOf w = 9) : layoutOf w = some (.ldBu (field w 21 5) (field w 16 5) (field w 0 16)) := by unfold layoutOf; rw [h]; rfl
theorem layout_0A {w : BitVec 32} (h : majorOf w = 10) : layoutOf w = some (.ldH (field w 21 5) (field w 16 5) (field w 0 16)) := by unfold layoutOf; rw [h]; rfl
theorem layout_0B {w : BitVec 32} (h : majorOf w = 11) : layoutOf w = some (.ldHu (field w 21 5) (field w 16 5) (field w 0 16)) := by unfold layoutOf; rw [h]; rfl
theorem layout_0C {w : BitVec 32} (h : majorOf w = 12) : layoutOf w = some (.ldW (field w 21 5) (field w 16 5) (field w 0 16)) := by unfold layoutOf; rw [h]; rfl
theorem layout_0D {w : BitVec 32} (h : majorOf w = 13) : layoutOf w = some (.ldWu (field w 21 5) (field w 16 5) (field w 0 16)) := by unfold layoutOf; rw [h]; rfl
theorem layout_0E {w : BitVec 32} (h : majorOf w = 14) : layoutOf w = some (.ldD (field w 21 5) (field w 16 5) (field w 0 16)) := by unfold layoutOf; rw [h]; rfl
theorem layout_10 {w : BitVec 32} (h : majorOf w = 16) : layoutOf w = some (.stB (field w 21 5) (field w 16 5) (field w 0 16)) := by unfold layoutOf; rw [h]; rfl
theorem layout_11 {w : BitVec 32} (h : majorOf w = 17) : layoutOf w = some (.stH (field w 21 5) (field w 16 5) (field w 0 16)) := by unfold layoutOf; rw [h]; rfl
theorem layout_12 {w : BitVec 32} (h : majorOf w = 18) : layoutOf w = some (.stW (field w 21 5) (field w 16 5) (field w 0 16)) := by unfold layoutOf; rw [h]; rfl
theorem layout_13 {w : BitVec 32} (h : majorOf w = 19) : layoutOf w = some (.stD (field w 21 5) (field w 16 5) (field w 0 16)) := by unfold layoutOf; rw [h]; rfl
theorem layout_14 {w : BitVec 32} (h : majorOf w = 20) : layoutOf w = some (.beq (field w 21 5) (field w 16 5) (field w 0 16)) := by unfold layoutOf; rw [h]; rfl
theorem layout_15 {w : BitVec 32} (h : majorOf w = 21) : layoutOf w = some (.bne (field w 21 5) (field w 16 5) (field w 0 16)) := by unfold layoutOf; rw [h]; rfl
theorem layout_16 {w : BitVec 32} (h : majorOf w = 22) : layoutOf w = some (.blt (field w 21 5) (field w 16 5) (field w 0 16)) := by unfold layoutOf; rw [h]; rfl
theorem layout_17 {w : BitVec 32} (h : majorOf w = 23) : layoutOf w = some (.bge (field w 21 5) (field w 16 5) (field w 0 16)) := by unfold layoutOf; rw [h]; rfl
theorem layout_18 {w : BitVec 32} (h : majorOf w = 24) : layoutOf w = some (.bltU (field w 21 5) (field w 16 5) (field w 0 16)) := by unfold layoutOf; rw [h]; rfl
theorem layout_19 {w : BitVec 32} (h : majorOf w = 25) : layoutOf w = some (.bgeU (field w 21 5) (field w 16 5) (field w 0 16)) := by unfold layoutOf; rw [h]; rfl
theorem layout_1A {w : BitVec 32} (h : majorOf w = 26) : layoutOf w = some (.jmp (field w 0 26)) := by unfold layoutOf; rw [h]; rfl
theorem layout_1B {w : BitVec 32} (h : majorOf w = 27) : layoutOf w = some (.jal (field w 0 26)) := by unfold layoutOf; rw [h]; rfl
theorem layout_1C {w : BitVec 32} (h : majorOf w = 28) : layoutOf w = some (.strip (field w 21 5) (field w 17 4) (field w 0 17)) := by unfold layoutOf; rw [h]; rfl
theorem layout_1D {w : BitVec 32} (h : majorOf w = 29) : layoutOf w = some (.btag (field w 21 5) (field w 16 5) (field w 0 16)) := by unfold layoutOf; rw [h]; rfl
theorem layout_1E {w : BitVec 32} (h : majorOf w = 30) : layoutOf w = decodeMajor1E w := by unfold layoutOf; rw [h]; rfl
theorem layout_1F {w : BitVec 32} (h : majorOf w = 31) : layoutOf w = decodeMajor1F w := by unfold layoutOf; rw [h]; rfl
theorem layout_20 {w : BitVec 32} (h : majorOf w = 32) : layoutOf w = decodeMajor20 w := by unfold layoutOf; rw [h]; rfl
theorem layout_21 {w : BitVec 32} (h : majorOf w = 33) : layoutOf w = decodeMajor21 w := by unfold layoutOf; rw [h]; rfl
theorem layout_22 {w : BitVec 32} (h : majorOf w = 34) : layoutOf w = decodeMajor22 w := by unfold layoutOf; rw [h]; rfl
theorem layout_23 {w : BitVec 32} (h : majorOf w = 35) : layoutOf w = decodeMajor23 w := by unfold layoutOf; rw [h]; rfl
theorem layout_24 {w : BitVec 32} (h : majorOf w = 36) : layoutOf w = decodeMajor24 w := by unfold layoutOf; rw [h]; rfl
theorem layout_25 {w : BitVec 32} (h : majorOf w = 37) : layoutOf w = decodeMajor25 w := by unfold layoutOf; rw [h]; rfl
theorem layout_26 {w : BitVec 32} (h : majorOf w = 38) : layoutOf w = decodeMajor26 w := by unfold layoutOf; rw [h]; rfl
theorem layout_27 {w : BitVec 32} (h : majorOf w = 39) : layoutOf w = decodeMajor27 w := by unfold layoutOf; rw [h]; rfl
theorem layout_28 {w : BitVec 32} (h : majorOf w = 40) : layoutOf w = some (.cpix (field w 20 6) (field w 14 6) (field w 9 5) (field w 6 3) (field w 0 6)) := by unfold layoutOf; rw [h]; rfl
theorem layout_29 {w : BitVec 32} (h : majorOf w = 41) : layoutOf w = decodeMajor29 w := by unfold layoutOf; rw [h]; rfl
theorem layout_2C {w : BitVec 32} (h : majorOf w = 44) : layoutOf w = decodeMajor2C w := by unfold layoutOf; rw [h]; rfl
theorem layout_2D {w : BitVec 32} (h : majorOf w = 45) : layoutOf w = decodeMajor2D w := by unfold layoutOf; rw [h]; rfl
theorem layout_30 {w : BitVec 32} (h : majorOf w = 48) : layoutOf w = decodeMajor30 w := by unfold layoutOf; rw [h]; rfl
theorem layout_31 {w : BitVec 32} (h : majorOf w = 49) : layoutOf w = decodeMajor31 w := by unfold layoutOf; rw [h]; rfl
theorem layout_32 {w : BitVec 32} (h : majorOf w = 50) : layoutOf w = decodeMajor32 w := by unfold layoutOf; rw [h]; rfl
theorem layout_33 {w : BitVec 32} (h : majorOf w = 51) : layoutOf w = decodeMajor33 w := by unfold layoutOf; rw [h]; rfl
theorem layout_34 {w : BitVec 32} (h : majorOf w = 52) : layoutOf w = decodeMajor34 w := by unfold layoutOf; rw [h]; rfl
theorem layout_35 {w : BitVec 32} (h : majorOf w = 53) : layoutOf w = decodeMajor35 w := by unfold layoutOf; rw [h]; rfl
theorem layout_36 {w : BitVec 32} (h : majorOf w = 54) : layoutOf w = decodeMajor36 w := by unfold layoutOf; rw [h]; rfl
theorem layout_37 {w : BitVec 32} (h : majorOf w = 55) : layoutOf w = decodeMajor37 w := by unfold layoutOf; rw [h]; rfl
theorem layout_38 {w : BitVec 32} (h : majorOf w = 56) : layoutOf w = decodeMajor38 w := by unfold layoutOf; rw [h]; rfl
theorem layout_39 {w : BitVec 32} (h : majorOf w = 57) : layoutOf w = decodeMajor39 w := by unfold layoutOf; rw [h]; rfl
theorem layout_3A {w : BitVec 32} (h : majorOf w = 58) : layoutOf w = decodeMajor3A w := by unfold layoutOf; rw [h]; rfl
theorem layout_3B {w : BitVec 32} (h : majorOf w = 59) : layoutOf w = decodeMajor3B w := by unfold layoutOf; rw [h]; rfl
theorem layout_3C {w : BitVec 32} (h : majorOf w = 60) : layoutOf w = decodeMajor3C w := by unfold layoutOf; rw [h]; rfl
theorem layout_3D {w : BitVec 32} (h : majorOf w = 61) : layoutOf w = decodeMajor3D w := by unfold layoutOf; rw [h]; rfl
theorem layout_3E {w : BitVec 32} (h : majorOf w = 62) : layoutOf w = decodeMajor3E w := by unfold layoutOf; rw [h]; rfl

namespace Encoding

/-- A word of a well-formed instruction decodes to the instruction: no bit of its fields is dropped. -/
def Statement (i : Instr) : Prop := ∀ w, encode i = some w → i.wf → decodeWord w = some i

theorem add (d : Reg) (a : Reg) (b : Reg) : Statement (.add d a b) := by
  intro wd e hw
  obtain ⟨f0, f1, f2, f3, f4⟩ := cat_6_5_5_5_11 0#6 d a b 0#11 (Option.some.inj e)
  refine decode_of ((layout_00 (congrArg BitVec.toNat f0)).trans ?_) hw
  refine (if_pos f4).trans ?_
  rw [f1, f2, f3]

theorem addImm (d : Reg) (a : Reg) (i : BitVec 16) : Statement (.addImm d a i) := by
  intro wd e hw
  obtain ⟨f0, f1, f2, f3⟩ := cat_6_5_5_16 1#6 d a i (Option.some.inj e)
  refine decode_of ((layout_01 (congrArg BitVec.toNat f0)).trans ?_) hw
  rw [f1, f2, f3]

theorem sub (d : Reg) (a : Reg) (b : Reg) : Statement (.sub d a b) := by
  intro wd e hw
  obtain ⟨f0, f1, f2, f3, f4⟩ := cat_6_5_5_5_11 0#6 d a b 1#11 (Option.some.inj e)
  refine decode_of ((layout_00 (congrArg BitVec.toNat f0)).trans ?_) hw
  refine (if_neg (fun e => absurd (f4.symm.trans e) (by decide))).trans ?_
  refine (if_pos f4).trans ?_
  rw [f1, f2, f3]

theorem mul (d : Reg) (a : Reg) (b : Reg) : Statement (.mul d a b) := by
  intro wd e hw
  obtain ⟨f0, f1, f2, f3, f4⟩ := cat_6_5_5_5_11 0#6 d a b 2#11 (Option.some.inj e)
  refine decode_of ((layout_00 (congrArg BitVec.toNat f0)).trans ?_) hw
  refine (if_neg (fun e => absurd (f4.symm.trans e) (by decide))).trans ?_
  refine (if_neg (fun e => absurd (f4.symm.trans e) (by decide))).trans ?_
  refine (if_pos f4).trans ?_
  rw [f1, f2, f3]

theorem mulh (d : Reg) (a : Reg) (b : Reg) : Statement (.mulh d a b) := by
  intro wd e hw
  obtain ⟨f0, f1, f2, f3, f4⟩ := cat_6_5_5_5_11 0#6 d a b 3#11 (Option.some.inj e)
  refine decode_of ((layout_00 (congrArg BitVec.toNat f0)).trans ?_) hw
  refine (if_neg (fun e => absurd (f4.symm.trans e) (by decide))).trans ?_
  refine (if_neg (fun e => absurd (f4.symm.trans e) (by decide))).trans ?_
  refine (if_neg (fun e => absurd (f4.symm.trans e) (by decide))).trans ?_
  refine (if_pos f4).trans ?_
  rw [f1, f2, f3]

theorem mulhU (d : Reg) (a : Reg) (b : Reg) : Statement (.mulhU d a b) := by
  intro wd e hw
  obtain ⟨f0, f1, f2, f3, f4⟩ := cat_6_5_5_5_11 0#6 d a b 4#11 (Option.some.inj e)
  refine decode_of ((layout_00 (congrArg BitVec.toNat f0)).trans ?_) hw
  refine (if_neg (fun e => absurd (f4.symm.trans e) (by decide))).trans ?_
  refine (if_neg (fun e => absurd (f4.symm.trans e) (by decide))).trans ?_
  refine (if_neg (fun e => absurd (f4.symm.trans e) (by decide))).trans ?_
  refine (if_neg (fun e => absurd (f4.symm.trans e) (by decide))).trans ?_
  refine (if_pos f4).trans ?_
  rw [f1, f2, f3]

theorem div (d : Reg) (a : Reg) (b : Reg) : Statement (.div d a b) := by
  intro wd e hw
  obtain ⟨f0, f1, f2, f3, f4⟩ := cat_6_5_5_5_11 0#6 d a b 5#11 (Option.some.inj e)
  refine decode_of ((layout_00 (congrArg BitVec.toNat f0)).trans ?_) hw
  refine (if_neg (fun e => absurd (f4.symm.trans e) (by decide))).trans ?_
  refine (if_neg (fun e => absurd (f4.symm.trans e) (by decide))).trans ?_
  refine (if_neg (fun e => absurd (f4.symm.trans e) (by decide))).trans ?_
  refine (if_neg (fun e => absurd (f4.symm.trans e) (by decide))).trans ?_
  refine (if_neg (fun e => absurd (f4.symm.trans e) (by decide))).trans ?_
  refine (if_pos f4).trans ?_
  rw [f1, f2, f3]

theorem divU (d : Reg) (a : Reg) (b : Reg) : Statement (.divU d a b) := by
  intro wd e hw
  obtain ⟨f0, f1, f2, f3, f4⟩ := cat_6_5_5_5_11 0#6 d a b 6#11 (Option.some.inj e)
  refine decode_of ((layout_00 (congrArg BitVec.toNat f0)).trans ?_) hw
  refine (if_neg (fun e => absurd (f4.symm.trans e) (by decide))).trans ?_
  refine (if_neg (fun e => absurd (f4.symm.trans e) (by decide))).trans ?_
  refine (if_neg (fun e => absurd (f4.symm.trans e) (by decide))).trans ?_
  refine (if_neg (fun e => absurd (f4.symm.trans e) (by decide))).trans ?_
  refine (if_neg (fun e => absurd (f4.symm.trans e) (by decide))).trans ?_
  refine (if_neg (fun e => absurd (f4.symm.trans e) (by decide))).trans ?_
  refine (if_pos f4).trans ?_
  rw [f1, f2, f3]

theorem rem (d : Reg) (a : Reg) (b : Reg) : Statement (.rem d a b) := by
  intro wd e hw
  obtain ⟨f0, f1, f2, f3, f4⟩ := cat_6_5_5_5_11 0#6 d a b 7#11 (Option.some.inj e)
  refine decode_of ((layout_00 (congrArg BitVec.toNat f0)).trans ?_) hw
  refine (if_neg (fun e => absurd (f4.symm.trans e) (by decide))).trans ?_
  refine (if_neg (fun e => absurd (f4.symm.trans e) (by decide))).trans ?_
  refine (if_neg (fun e => absurd (f4.symm.trans e) (by decide))).trans ?_
  refine (if_neg (fun e => absurd (f4.symm.trans e) (by decide))).trans ?_
  refine (if_neg (fun e => absurd (f4.symm.trans e) (by decide))).trans ?_
  refine (if_neg (fun e => absurd (f4.symm.trans e) (by decide))).trans ?_
  refine (if_neg (fun e => absurd (f4.symm.trans e) (by decide))).trans ?_
  refine (if_pos f4).trans ?_
  rw [f1, f2, f3]

theorem remU (d : Reg) (a : Reg) (b : Reg) : Statement (.remU d a b) := by
  intro wd e hw
  obtain ⟨f0, f1, f2, f3, f4⟩ := cat_6_5_5_5_11 0#6 d a b 8#11 (Option.some.inj e)
  refine decode_of ((layout_00 (congrArg BitVec.toNat f0)).trans ?_) hw
  refine (if_neg (fun e => absurd (f4.symm.trans e) (by decide))).trans ?_
  refine (if_neg (fun e => absurd (f4.symm.trans e) (by decide))).trans ?_
  refine (if_neg (fun e => absurd (f4.symm.trans e) (by decide))).trans ?_
  refine (if_neg (fun e => absurd (f4.symm.trans e) (by decide))).trans ?_
  refine (if_neg (fun e => absurd (f4.symm.trans e) (by decide))).trans ?_
  refine (if_neg (fun e => absurd (f4.symm.trans e) (by decide))).trans ?_
  refine (if_neg (fun e => absurd (f4.symm.trans e) (by decide))).trans ?_
  refine (if_neg (fun e => absurd (f4.symm.trans e) (by decide))).trans ?_
  refine (if_pos f4).trans ?_
  rw [f1, f2, f3]

theorem and (d : Reg) (a : Reg) (b : Reg) : Statement (.and d a b) := by
  intro wd e hw
  obtain ⟨f0, f1, f2, f3, f4⟩ := cat_6_5_5_5_11 0#6 d a b 9#11 (Option.some.inj e)
  refine decode_of ((layout_00 (congrArg BitVec.toNat f0)).trans ?_) hw
  refine (if_neg (fun e => absurd (f4.symm.trans e) (by decide))).trans ?_
  refine (if_neg (fun e => absurd (f4.symm.trans e) (by decide))).trans ?_
  refine (if_neg (fun e => absurd (f4.symm.trans e) (by decide))).trans ?_
  refine (if_neg (fun e => absurd (f4.symm.trans e) (by decide))).trans ?_
  refine (if_neg (fun e => absurd (f4.symm.trans e) (by decide))).trans ?_
  refine (if_neg (fun e => absurd (f4.symm.trans e) (by decide))).trans ?_
  refine (if_neg (fun e => absurd (f4.symm.trans e) (by decide))).trans ?_
  refine (if_neg (fun e => absurd (f4.symm.trans e) (by decide))).trans ?_
  refine (if_neg (fun e => absurd (f4.symm.trans e) (by decide))).trans ?_
  refine (if_pos f4).trans ?_
  rw [f1, f2, f3]

theorem andImm (d : Reg) (a : Reg) (i : BitVec 16) : Statement (.andImm d a i) := by
  intro wd e hw
  obtain ⟨f0, f1, f2, f3⟩ := cat_6_5_5_16 2#6 d a i (Option.some.inj e)
  refine decode_of ((layout_02 (congrArg BitVec.toNat f0)).trans ?_) hw
  rw [f1, f2, f3]

theorem or (d : Reg) (a : Reg) (b : Reg) : Statement (.or d a b) := by
  intro wd e hw
  obtain ⟨f0, f1, f2, f3, f4⟩ := cat_6_5_5_5_11 0#6 d a b 0xa#11 (Option.some.inj e)
  refine decode_of ((layout_00 (congrArg BitVec.toNat f0)).trans ?_) hw
  refine (if_neg (fun e => absurd (f4.symm.trans e) (by decide))).trans ?_
  refine (if_neg (fun e => absurd (f4.symm.trans e) (by decide))).trans ?_
  refine (if_neg (fun e => absurd (f4.symm.trans e) (by decide))).trans ?_
  refine (if_neg (fun e => absurd (f4.symm.trans e) (by decide))).trans ?_
  refine (if_neg (fun e => absurd (f4.symm.trans e) (by decide))).trans ?_
  refine (if_neg (fun e => absurd (f4.symm.trans e) (by decide))).trans ?_
  refine (if_neg (fun e => absurd (f4.symm.trans e) (by decide))).trans ?_
  refine (if_neg (fun e => absurd (f4.symm.trans e) (by decide))).trans ?_
  refine (if_neg (fun e => absurd (f4.symm.trans e) (by decide))).trans ?_
  refine (if_neg (fun e => absurd (f4.symm.trans e) (by decide))).trans ?_
  refine (if_pos f4).trans ?_
  rw [f1, f2, f3]

theorem orImm (d : Reg) (a : Reg) (i : BitVec 16) : Statement (.orImm d a i) := by
  intro wd e hw
  obtain ⟨f0, f1, f2, f3⟩ := cat_6_5_5_16 3#6 d a i (Option.some.inj e)
  refine decode_of ((layout_03 (congrArg BitVec.toNat f0)).trans ?_) hw
  rw [f1, f2, f3]

theorem xor (d : Reg) (a : Reg) (b : Reg) : Statement (.xor d a b) := by
  intro wd e hw
  obtain ⟨f0, f1, f2, f3, f4⟩ := cat_6_5_5_5_11 0#6 d a b 0xb#11 (Option.some.inj e)
  refine decode_of ((layout_00 (congrArg BitVec.toNat f0)).trans ?_) hw
  refine (if_neg (fun e => absurd (f4.symm.trans e) (by decide))).trans ?_
  refine (if_neg (fun e => absurd (f4.symm.trans e) (by decide))).trans ?_
  refine (if_neg (fun e => absurd (f4.symm.trans e) (by decide))).trans ?_
  refine (if_neg (fun e => absurd (f4.symm.trans e) (by decide))).trans ?_
  refine (if_neg (fun e => absurd (f4.symm.trans e) (by decide))).trans ?_
  refine (if_neg (fun e => absurd (f4.symm.trans e) (by decide))).trans ?_
  refine (if_neg (fun e => absurd (f4.symm.trans e) (by decide))).trans ?_
  refine (if_neg (fun e => absurd (f4.symm.trans e) (by decide))).trans ?_
  refine (if_neg (fun e => absurd (f4.symm.trans e) (by decide))).trans ?_
  refine (if_neg (fun e => absurd (f4.symm.trans e) (by decide))).trans ?_
  refine (if_neg (fun e => absurd (f4.symm.trans e) (by decide))).trans ?_
  refine (if_pos f4).trans ?_
  rw [f1, f2, f3]

theorem xorImm (d : Reg) (a : Reg) (i : BitVec 16) : Statement (.xorImm d a i) := by
  intro wd e hw
  obtain ⟨f0, f1, f2, f3⟩ := cat_6_5_5_16 4#6 d a i (Option.some.inj e)
  refine decode_of ((layout_04 (congrArg BitVec.toNat f0)).trans ?_) hw
  rw [f1, f2, f3]

theorem shl (d : Reg) (a : Reg) (b : Reg) : Statement (.shl d a b) := by
  intro wd e hw
  obtain ⟨f0, f1, f2, f3, f4⟩ := cat_6_5_5_5_11 0#6 d a b 0xc#11 (Option.some.inj e)
  refine decode_of ((layout_00 (congrArg BitVec.toNat f0)).trans ?_) hw
  refine (if_neg (fun e => absurd (f4.symm.trans e) (by decide))).trans ?_
  refine (if_neg (fun e => absurd (f4.symm.trans e) (by decide))).trans ?_
  refine (if_neg (fun e => absurd (f4.symm.trans e) (by decide))).trans ?_
  refine (if_neg (fun e => absurd (f4.symm.trans e) (by decide))).trans ?_
  refine (if_neg (fun e => absurd (f4.symm.trans e) (by decide))).trans ?_
  refine (if_neg (fun e => absurd (f4.symm.trans e) (by decide))).trans ?_
  refine (if_neg (fun e => absurd (f4.symm.trans e) (by decide))).trans ?_
  refine (if_neg (fun e => absurd (f4.symm.trans e) (by decide))).trans ?_
  refine (if_neg (fun e => absurd (f4.symm.trans e) (by decide))).trans ?_
  refine (if_neg (fun e => absurd (f4.symm.trans e) (by decide))).trans ?_
  refine (if_neg (fun e => absurd (f4.symm.trans e) (by decide))).trans ?_
  refine (if_neg (fun e => absurd (f4.symm.trans e) (by decide))).trans ?_
  refine (if_pos f4).trans ?_
  rw [f1, f2, f3]

theorem shr (d : Reg) (a : Reg) (b : Reg) : Statement (.shr d a b) := by
  intro wd e hw
  obtain ⟨f0, f1, f2, f3, f4⟩ := cat_6_5_5_5_11 0#6 d a b 0xd#11 (Option.some.inj e)
  refine decode_of ((layout_00 (congrArg BitVec.toNat f0)).trans ?_) hw
  refine (if_neg (fun e => absurd (f4.symm.trans e) (by decide))).trans ?_
  refine (if_neg (fun e => absurd (f4.symm.trans e) (by decide))).trans ?_
  refine (if_neg (fun e => absurd (f4.symm.trans e) (by decide))).trans ?_
  refine (if_neg (fun e => absurd (f4.symm.trans e) (by decide))).trans ?_
  refine (if_neg (fun e => absurd (f4.symm.trans e) (by decide))).trans ?_
  refine (if_neg (fun e => absurd (f4.symm.trans e) (by decide))).trans ?_
  refine (if_neg (fun e => absurd (f4.symm.trans e) (by decide))).trans ?_
  refine (if_neg (fun e => absurd (f4.symm.trans e) (by decide))).trans ?_
  refine (if_neg (fun e => absurd (f4.symm.trans e) (by decide))).trans ?_
  refine (if_neg (fun e => absurd (f4.symm.trans e) (by decide))).trans ?_
  refine (if_neg (fun e => absurd (f4.symm.trans e) (by decide))).trans ?_
  refine (if_neg (fun e => absurd (f4.symm.trans e) (by decide))).trans ?_
  refine (if_neg (fun e => absurd (f4.symm.trans e) (by decide))).trans ?_
  refine (if_pos f4).trans ?_
  rw [f1, f2, f3]

theorem sra (d : Reg) (a : Reg) (b : Reg) : Statement (.sra d a b) := by
  intro wd e hw
  obtain ⟨f0, f1, f2, f3, f4⟩ := cat_6_5_5_5_11 0#6 d a b 0xe#11 (Option.some.inj e)
  refine decode_of ((layout_00 (congrArg BitVec.toNat f0)).trans ?_) hw
  refine (if_neg (fun e => absurd (f4.symm.trans e) (by decide))).trans ?_
  refine (if_neg (fun e => absurd (f4.symm.trans e) (by decide))).trans ?_
  refine (if_neg (fun e => absurd (f4.symm.trans e) (by decide))).trans ?_
  refine (if_neg (fun e => absurd (f4.symm.trans e) (by decide))).trans ?_
  refine (if_neg (fun e => absurd (f4.symm.trans e) (by decide))).trans ?_
  refine (if_neg (fun e => absurd (f4.symm.trans e) (by decide))).trans ?_
  refine (if_neg (fun e => absurd (f4.symm.trans e) (by decide))).trans ?_
  refine (if_neg (fun e => absurd (f4.symm.trans e) (by decide))).trans ?_
  refine (if_neg (fun e => absurd (f4.symm.trans e) (by decide))).trans ?_
  refine (if_neg (fun e => absurd (f4.symm.trans e) (by decide))).trans ?_
  refine (if_neg (fun e => absurd (f4.symm.trans e) (by decide))).trans ?_
  refine (if_neg (fun e => absurd (f4.symm.trans e) (by decide))).trans ?_
  refine (if_neg (fun e => absurd (f4.symm.trans e) (by decide))).trans ?_
  refine (if_neg (fun e => absurd (f4.symm.trans e) (by decide))).trans ?_
  refine (if_pos f4).trans ?_
  rw [f1, f2, f3]

theorem shlI (d : Reg) (a : Reg) (k : BitVec 5) (h : Bit) : Statement (.shlI d a k h) := by
  intro wd e hw
  obtain ⟨f0, f1, f2, f3, f4, f5, f6⟩ := cat_6_5_5_5_4_1_6 0#6 d a k 0#4 h 0x18#6 (Option.some.inj e)
  refine decode_of ((layout_00 (congrArg BitVec.toNat f0)).trans ?_) hw
  refine (if_neg (field_clash f6 0 0 6 (by decide) (by decide) rfl (by decide))).trans ?_
  refine (if_neg (field_clash f6 0 0 6 (by decide) (by decide) rfl (by decide))).trans ?_
  refine (if_neg (field_clash f6 0 0 6 (by decide) (by decide) rfl (by decide))).trans ?_
  refine (if_neg (field_clash f6 0 0 6 (by decide) (by decide) rfl (by decide))).trans ?_
  refine (if_neg (field_clash f6 0 0 6 (by decide) (by decide) rfl (by decide))).trans ?_
  refine (if_neg (field_clash f6 0 0 6 (by decide) (by decide) rfl (by decide))).trans ?_
  refine (if_neg (field_clash f6 0 0 6 (by decide) (by decide) rfl (by decide))).trans ?_
  refine (if_neg (field_clash f6 0 0 6 (by decide) (by decide) rfl (by decide))).trans ?_
  refine (if_neg (field_clash f6 0 0 6 (by decide) (by decide) rfl (by decide))).trans ?_
  refine (if_neg (field_clash f6 0 0 6 (by decide) (by decide) rfl (by decide))).trans ?_
  refine (if_neg (field_clash f6 0 0 6 (by decide) (by decide) rfl (by decide))).trans ?_
  refine (if_neg (field_clash f6 0 0 6 (by decide) (by decide) rfl (by decide))).trans ?_
  refine (if_neg (field_clash f6 0 0 6 (by decide) (by decide) rfl (by decide))).trans ?_
  refine (if_neg (field_clash f6 0 0 6 (by decide) (by decide) rfl (by decide))).trans ?_
  refine (if_neg (field_clash f6 0 0 6 (by decide) (by decide) rfl (by decide))).trans ?_
  refine (if_pos ⟨f4, f6⟩).trans ?_
  rw [f1, f2, f3, f5]

theorem shrI (d : Reg) (a : Reg) (k : BitVec 5) (h : Bit) : Statement (.shrI d a k h) := by
  intro wd e hw
  obtain ⟨f0, f1, f2, f3, f4, f5, f6⟩ := cat_6_5_5_5_4_1_6 0#6 d a k 0#4 h 0x19#6 (Option.some.inj e)
  refine decode_of ((layout_00 (congrArg BitVec.toNat f0)).trans ?_) hw
  refine (if_neg (field_clash f6 0 0 6 (by decide) (by decide) rfl (by decide))).trans ?_
  refine (if_neg (field_clash f6 0 0 6 (by decide) (by decide) rfl (by decide))).trans ?_
  refine (if_neg (field_clash f6 0 0 6 (by decide) (by decide) rfl (by decide))).trans ?_
  refine (if_neg (field_clash f6 0 0 6 (by decide) (by decide) rfl (by decide))).trans ?_
  refine (if_neg (field_clash f6 0 0 6 (by decide) (by decide) rfl (by decide))).trans ?_
  refine (if_neg (field_clash f6 0 0 6 (by decide) (by decide) rfl (by decide))).trans ?_
  refine (if_neg (field_clash f6 0 0 6 (by decide) (by decide) rfl (by decide))).trans ?_
  refine (if_neg (field_clash f6 0 0 6 (by decide) (by decide) rfl (by decide))).trans ?_
  refine (if_neg (field_clash f6 0 0 6 (by decide) (by decide) rfl (by decide))).trans ?_
  refine (if_neg (field_clash f6 0 0 6 (by decide) (by decide) rfl (by decide))).trans ?_
  refine (if_neg (field_clash f6 0 0 6 (by decide) (by decide) rfl (by decide))).trans ?_
  refine (if_neg (field_clash f6 0 0 6 (by decide) (by decide) rfl (by decide))).trans ?_
  refine (if_neg (field_clash f6 0 0 6 (by decide) (by decide) rfl (by decide))).trans ?_
  refine (if_neg (field_clash f6 0 0 6 (by decide) (by decide) rfl (by decide))).trans ?_
  refine (if_neg (field_clash f6 0 0 6 (by decide) (by decide) rfl (by decide))).trans ?_
  refine (if_neg (fun h => (fun e => absurd (f6.symm.trans e) (by decide)) h.2)).trans ?_
  refine (if_pos ⟨f4, f6⟩).trans ?_
  rw [f1, f2, f3, f5]

theorem sraI (d : Reg) (a : Reg) (k : BitVec 5) (h : Bit) : Statement (.sraI d a k h) := by
  intro wd e hw
  obtain ⟨f0, f1, f2, f3, f4, f5, f6⟩ := cat_6_5_5_5_4_1_6 0#6 d a k 0#4 h 0x1a#6 (Option.some.inj e)
  refine decode_of ((layout_00 (congrArg BitVec.toNat f0)).trans ?_) hw
  refine (if_neg (field_clash f6 0 0 6 (by decide) (by decide) rfl (by decide))).trans ?_
  refine (if_neg (field_clash f6 0 0 6 (by decide) (by decide) rfl (by decide))).trans ?_
  refine (if_neg (field_clash f6 0 0 6 (by decide) (by decide) rfl (by decide))).trans ?_
  refine (if_neg (field_clash f6 0 0 6 (by decide) (by decide) rfl (by decide))).trans ?_
  refine (if_neg (field_clash f6 0 0 6 (by decide) (by decide) rfl (by decide))).trans ?_
  refine (if_neg (field_clash f6 0 0 6 (by decide) (by decide) rfl (by decide))).trans ?_
  refine (if_neg (field_clash f6 0 0 6 (by decide) (by decide) rfl (by decide))).trans ?_
  refine (if_neg (field_clash f6 0 0 6 (by decide) (by decide) rfl (by decide))).trans ?_
  refine (if_neg (field_clash f6 0 0 6 (by decide) (by decide) rfl (by decide))).trans ?_
  refine (if_neg (field_clash f6 0 0 6 (by decide) (by decide) rfl (by decide))).trans ?_
  refine (if_neg (field_clash f6 0 0 6 (by decide) (by decide) rfl (by decide))).trans ?_
  refine (if_neg (field_clash f6 0 0 6 (by decide) (by decide) rfl (by decide))).trans ?_
  refine (if_neg (field_clash f6 0 0 6 (by decide) (by decide) rfl (by decide))).trans ?_
  refine (if_neg (field_clash f6 0 0 6 (by decide) (by decide) rfl (by decide))).trans ?_
  refine (if_neg (field_clash f6 0 0 6 (by decide) (by decide) rfl (by decide))).trans ?_
  refine (if_neg (fun h => (fun e => absurd (f6.symm.trans e) (by decide)) h.2)).trans ?_
  refine (if_neg (fun h => (fun e => absurd (f6.symm.trans e) (by decide)) h.2)).trans ?_
  refine (if_pos ⟨f4, f6⟩).trans ?_
  rw [f1, f2, f3, f5]

theorem slt (d : Reg) (a : Reg) (b : Reg) : Statement (.slt d a b) := by
  intro wd e hw
  obtain ⟨f0, f1, f2, f3, f4⟩ := cat_6_5_5_5_11 0#6 d a b 0xf#11 (Option.some.inj e)
  refine decode_of ((layout_00 (congrArg BitVec.toNat f0)).trans ?_) hw
  refine (if_neg (fun e => absurd (f4.symm.trans e) (by decide))).trans ?_
  refine (if_neg (fun e => absurd (f4.symm.trans e) (by decide))).trans ?_
  refine (if_neg (fun e => absurd (f4.symm.trans e) (by decide))).trans ?_
  refine (if_neg (fun e => absurd (f4.symm.trans e) (by decide))).trans ?_
  refine (if_neg (fun e => absurd (f4.symm.trans e) (by decide))).trans ?_
  refine (if_neg (fun e => absurd (f4.symm.trans e) (by decide))).trans ?_
  refine (if_neg (fun e => absurd (f4.symm.trans e) (by decide))).trans ?_
  refine (if_neg (fun e => absurd (f4.symm.trans e) (by decide))).trans ?_
  refine (if_neg (fun e => absurd (f4.symm.trans e) (by decide))).trans ?_
  refine (if_neg (fun e => absurd (f4.symm.trans e) (by decide))).trans ?_
  refine (if_neg (fun e => absurd (f4.symm.trans e) (by decide))).trans ?_
  refine (if_neg (fun e => absurd (f4.symm.trans e) (by decide))).trans ?_
  refine (if_neg (fun e => absurd (f4.symm.trans e) (by decide))).trans ?_
  refine (if_neg (fun e => absurd (f4.symm.trans e) (by decide))).trans ?_
  refine (if_neg (fun e => absurd (f4.symm.trans e) (by decide))).trans ?_
  refine (if_neg (fun h => (field_clash f4 0 0 6 (by decide) (by decide) rfl (by decide)) h.2)).trans ?_
  refine (if_neg (fun h => (field_clash f4 0 0 6 (by decide) (by decide) rfl (by decide)) h.2)).trans ?_
  refine (if_neg (fun h => (field_clash f4 0 0 6 (by decide) (by decide) rfl (by decide)) h.2)).trans ?_
  refine (if_pos f4).trans ?_
  rw [f1, f2, f3]

theorem sltU (d : Reg) (a : Reg) (b : Reg) : Statement (.sltU d a b) := by
  intro wd e hw
  obtain ⟨f0, f1, f2, f3, f4⟩ := cat_6_5_5_5_11 0#6 d a b 0x10#11 (Option.some.inj e)
  refine decode_of ((layout_00 (congrArg BitVec.toNat f0)).trans ?_) hw
  refine (if_neg (fun e => absurd (f4.symm.trans e) (by decide))).trans ?_
  refine (if_neg (fun e => absurd (f4.symm.trans e) (by decide))).trans ?_
  refine (if_neg (fun e => absurd (f4.symm.trans e) (by decide))).trans ?_
  refine (if_neg (fun e => absurd (f4.symm.trans e) (by decide))).trans ?_
  refine (if_neg (fun e => absurd (f4.symm.trans e) (by decide))).trans ?_
  refine (if_neg (fun e => absurd (f4.symm.trans e) (by decide))).trans ?_
  refine (if_neg (fun e => absurd (f4.symm.trans e) (by decide))).trans ?_
  refine (if_neg (fun e => absurd (f4.symm.trans e) (by decide))).trans ?_
  refine (if_neg (fun e => absurd (f4.symm.trans e) (by decide))).trans ?_
  refine (if_neg (fun e => absurd (f4.symm.trans e) (by decide))).trans ?_
  refine (if_neg (fun e => absurd (f4.symm.trans e) (by decide))).trans ?_
  refine (if_neg (fun e => absurd (f4.symm.trans e) (by decide))).trans ?_
  refine (if_neg (fun e => absurd (f4.symm.trans e) (by decide))).trans ?_
  refine (if_neg (fun e => absurd (f4.symm.trans e) (by decide))).trans ?_
  refine (if_neg (fun e => absurd (f4.symm.trans e) (by decide))).trans ?_
  refine (if_neg (fun h => (field_clash f4 0 0 6 (by decide) (by decide) rfl (by decide)) h.2)).trans ?_
  refine (if_neg (fun h => (field_clash f4 0 0 6 (by decide) (by decide) rfl (by decide)) h.2)).trans ?_
  refine (if_neg (fun h => (field_clash f4 0 0 6 (by decide) (by decide) rfl (by decide)) h.2)).trans ?_
  refine (if_neg (fun e => absurd (f4.symm.trans e) (by decide))).trans ?_
  refine (if_pos f4).trans ?_
  rw [f1, f2, f3]

theorem sltImm (d : Reg) (a : Reg) (i : BitVec 16) : Statement (.sltImm d a i) := by
  intro wd e hw
  obtain ⟨f0, f1, f2, f3⟩ := cat_6_5_5_16 5#6 d a i (Option.some.inj e)
  refine decode_of ((layout_05 (congrArg BitVec.toNat f0)).trans ?_) hw
  rw [f1, f2, f3]

theorem sltUImm (d : Reg) (a : Reg) (i : BitVec 16) : Statement (.sltUImm d a i) := by
  intro wd e hw
  obtain ⟨f0, f1, f2, f3⟩ := cat_6_5_5_16 6#6 d a i (Option.some.inj e)
  refine decode_of ((layout_06 (congrArg BitVec.toNat f0)).trans ?_) hw
  rw [f1, f2, f3]

theorem min (d : Reg) (a : Reg) (b : Reg) : Statement (.min d a b) := by
  intro wd e hw
  obtain ⟨f0, f1, f2, f3, f4⟩ := cat_6_5_5_5_11 0#6 d a b 0x11#11 (Option.some.inj e)
  refine decode_of ((layout_00 (congrArg BitVec.toNat f0)).trans ?_) hw
  refine (if_neg (fun e => absurd (f4.symm.trans e) (by decide))).trans ?_
  refine (if_neg (fun e => absurd (f4.symm.trans e) (by decide))).trans ?_
  refine (if_neg (fun e => absurd (f4.symm.trans e) (by decide))).trans ?_
  refine (if_neg (fun e => absurd (f4.symm.trans e) (by decide))).trans ?_
  refine (if_neg (fun e => absurd (f4.symm.trans e) (by decide))).trans ?_
  refine (if_neg (fun e => absurd (f4.symm.trans e) (by decide))).trans ?_
  refine (if_neg (fun e => absurd (f4.symm.trans e) (by decide))).trans ?_
  refine (if_neg (fun e => absurd (f4.symm.trans e) (by decide))).trans ?_
  refine (if_neg (fun e => absurd (f4.symm.trans e) (by decide))).trans ?_
  refine (if_neg (fun e => absurd (f4.symm.trans e) (by decide))).trans ?_
  refine (if_neg (fun e => absurd (f4.symm.trans e) (by decide))).trans ?_
  refine (if_neg (fun e => absurd (f4.symm.trans e) (by decide))).trans ?_
  refine (if_neg (fun e => absurd (f4.symm.trans e) (by decide))).trans ?_
  refine (if_neg (fun e => absurd (f4.symm.trans e) (by decide))).trans ?_
  refine (if_neg (fun e => absurd (f4.symm.trans e) (by decide))).trans ?_
  refine (if_neg (fun h => (field_clash f4 0 0 6 (by decide) (by decide) rfl (by decide)) h.2)).trans ?_
  refine (if_neg (fun h => (field_clash f4 0 0 6 (by decide) (by decide) rfl (by decide)) h.2)).trans ?_
  refine (if_neg (fun h => (field_clash f4 0 0 6 (by decide) (by decide) rfl (by decide)) h.2)).trans ?_
  refine (if_neg (fun e => absurd (f4.symm.trans e) (by decide))).trans ?_
  refine (if_neg (fun e => absurd (f4.symm.trans e) (by decide))).trans ?_
  refine (if_pos f4).trans ?_
  rw [f1, f2, f3]

theorem minU (d : Reg) (a : Reg) (b : Reg) : Statement (.minU d a b) := by
  intro wd e hw
  obtain ⟨f0, f1, f2, f3, f4⟩ := cat_6_5_5_5_11 0#6 d a b 0x12#11 (Option.some.inj e)
  refine decode_of ((layout_00 (congrArg BitVec.toNat f0)).trans ?_) hw
  refine (if_neg (fun e => absurd (f4.symm.trans e) (by decide))).trans ?_
  refine (if_neg (fun e => absurd (f4.symm.trans e) (by decide))).trans ?_
  refine (if_neg (fun e => absurd (f4.symm.trans e) (by decide))).trans ?_
  refine (if_neg (fun e => absurd (f4.symm.trans e) (by decide))).trans ?_
  refine (if_neg (fun e => absurd (f4.symm.trans e) (by decide))).trans ?_
  refine (if_neg (fun e => absurd (f4.symm.trans e) (by decide))).trans ?_
  refine (if_neg (fun e => absurd (f4.symm.trans e) (by decide))).trans ?_
  refine (if_neg (fun e => absurd (f4.symm.trans e) (by decide))).trans ?_
  refine (if_neg (fun e => absurd (f4.symm.trans e) (by decide))).trans ?_
  refine (if_neg (fun e => absurd (f4.symm.trans e) (by decide))).trans ?_
  refine (if_neg (fun e => absurd (f4.symm.trans e) (by decide))).trans ?_
  refine (if_neg (fun e => absurd (f4.symm.trans e) (by decide))).trans ?_
  refine (if_neg (fun e => absurd (f4.symm.trans e) (by decide))).trans ?_
  refine (if_neg (fun e => absurd (f4.symm.trans e) (by decide))).trans ?_
  refine (if_neg (fun e => absurd (f4.symm.trans e) (by decide))).trans ?_
  refine (if_neg (fun h => (field_clash f4 0 0 6 (by decide) (by decide) rfl (by decide)) h.2)).trans ?_
  refine (if_neg (fun h => (field_clash f4 0 0 6 (by decide) (by decide) rfl (by decide)) h.2)).trans ?_
  refine (if_neg (fun h => (field_clash f4 0 0 6 (by decide) (by decide) rfl (by decide)) h.2)).trans ?_
  refine (if_neg (fun e => absurd (f4.symm.trans e) (by decide))).trans ?_
  refine (if_neg (fun e => absurd (f4.symm.trans e) (by decide))).trans ?_
  refine (if_neg (fun e => absurd (f4.symm.trans e) (by decide))).trans ?_
  refine (if_pos f4).trans ?_
  rw [f1, f2, f3]

theorem max (d : Reg) (a : Reg) (b : Reg) : Statement (.max d a b) := by
  intro wd e hw
  obtain ⟨f0, f1, f2, f3, f4⟩ := cat_6_5_5_5_11 0#6 d a b 0x13#11 (Option.some.inj e)
  refine decode_of ((layout_00 (congrArg BitVec.toNat f0)).trans ?_) hw
  refine (if_neg (fun e => absurd (f4.symm.trans e) (by decide))).trans ?_
  refine (if_neg (fun e => absurd (f4.symm.trans e) (by decide))).trans ?_
  refine (if_neg (fun e => absurd (f4.symm.trans e) (by decide))).trans ?_
  refine (if_neg (fun e => absurd (f4.symm.trans e) (by decide))).trans ?_
  refine (if_neg (fun e => absurd (f4.symm.trans e) (by decide))).trans ?_
  refine (if_neg (fun e => absurd (f4.symm.trans e) (by decide))).trans ?_
  refine (if_neg (fun e => absurd (f4.symm.trans e) (by decide))).trans ?_
  refine (if_neg (fun e => absurd (f4.symm.trans e) (by decide))).trans ?_
  refine (if_neg (fun e => absurd (f4.symm.trans e) (by decide))).trans ?_
  refine (if_neg (fun e => absurd (f4.symm.trans e) (by decide))).trans ?_
  refine (if_neg (fun e => absurd (f4.symm.trans e) (by decide))).trans ?_
  refine (if_neg (fun e => absurd (f4.symm.trans e) (by decide))).trans ?_
  refine (if_neg (fun e => absurd (f4.symm.trans e) (by decide))).trans ?_
  refine (if_neg (fun e => absurd (f4.symm.trans e) (by decide))).trans ?_
  refine (if_neg (fun e => absurd (f4.symm.trans e) (by decide))).trans ?_
  refine (if_neg (fun h => (field_clash f4 0 0 6 (by decide) (by decide) rfl (by decide)) h.2)).trans ?_
  refine (if_neg (fun h => (field_clash f4 0 0 6 (by decide) (by decide) rfl (by decide)) h.2)).trans ?_
  refine (if_neg (fun h => (field_clash f4 0 0 6 (by decide) (by decide) rfl (by decide)) h.2)).trans ?_
  refine (if_neg (fun e => absurd (f4.symm.trans e) (by decide))).trans ?_
  refine (if_neg (fun e => absurd (f4.symm.trans e) (by decide))).trans ?_
  refine (if_neg (fun e => absurd (f4.symm.trans e) (by decide))).trans ?_
  refine (if_neg (fun e => absurd (f4.symm.trans e) (by decide))).trans ?_
  refine (if_pos f4).trans ?_
  rw [f1, f2, f3]

theorem maxU (d : Reg) (a : Reg) (b : Reg) : Statement (.maxU d a b) := by
  intro wd e hw
  obtain ⟨f0, f1, f2, f3, f4⟩ := cat_6_5_5_5_11 0#6 d a b 0x14#11 (Option.some.inj e)
  refine decode_of ((layout_00 (congrArg BitVec.toNat f0)).trans ?_) hw
  refine (if_neg (fun e => absurd (f4.symm.trans e) (by decide))).trans ?_
  refine (if_neg (fun e => absurd (f4.symm.trans e) (by decide))).trans ?_
  refine (if_neg (fun e => absurd (f4.symm.trans e) (by decide))).trans ?_
  refine (if_neg (fun e => absurd (f4.symm.trans e) (by decide))).trans ?_
  refine (if_neg (fun e => absurd (f4.symm.trans e) (by decide))).trans ?_
  refine (if_neg (fun e => absurd (f4.symm.trans e) (by decide))).trans ?_
  refine (if_neg (fun e => absurd (f4.symm.trans e) (by decide))).trans ?_
  refine (if_neg (fun e => absurd (f4.symm.trans e) (by decide))).trans ?_
  refine (if_neg (fun e => absurd (f4.symm.trans e) (by decide))).trans ?_
  refine (if_neg (fun e => absurd (f4.symm.trans e) (by decide))).trans ?_
  refine (if_neg (fun e => absurd (f4.symm.trans e) (by decide))).trans ?_
  refine (if_neg (fun e => absurd (f4.symm.trans e) (by decide))).trans ?_
  refine (if_neg (fun e => absurd (f4.symm.trans e) (by decide))).trans ?_
  refine (if_neg (fun e => absurd (f4.symm.trans e) (by decide))).trans ?_
  refine (if_neg (fun e => absurd (f4.symm.trans e) (by decide))).trans ?_
  refine (if_neg (fun h => (field_clash f4 0 0 6 (by decide) (by decide) rfl (by decide)) h.2)).trans ?_
  refine (if_neg (fun h => (field_clash f4 0 0 6 (by decide) (by decide) rfl (by decide)) h.2)).trans ?_
  refine (if_neg (fun h => (field_clash f4 0 0 6 (by decide) (by decide) rfl (by decide)) h.2)).trans ?_
  refine (if_neg (fun e => absurd (f4.symm.trans e) (by decide))).trans ?_
  refine (if_neg (fun e => absurd (f4.symm.trans e) (by decide))).trans ?_
  refine (if_neg (fun e => absurd (f4.symm.trans e) (by decide))).trans ?_
  refine (if_neg (fun e => absurd (f4.symm.trans e) (by decide))).trans ?_
  refine (if_neg (fun e => absurd (f4.symm.trans e) (by decide))).trans ?_
  refine (if_pos f4).trans ?_
  rw [f1, f2, f3]

theorem clz (d : Reg) (a : Reg) : Statement (.clz d a) := by
  intro wd e hw
  obtain ⟨f0, f1, f2, f3⟩ := cat_6_5_5_16 0#6 d a 0x15#16 (Option.some.inj e)
  refine decode_of ((layout_00 (congrArg BitVec.toNat f0)).trans ?_) hw
  refine (if_neg (field_clash f3 0 0 11 (by decide) (by decide) rfl (by decide))).trans ?_
  refine (if_neg (field_clash f3 0 0 11 (by decide) (by decide) rfl (by decide))).trans ?_
  refine (if_neg (field_clash f3 0 0 11 (by decide) (by decide) rfl (by decide))).trans ?_
  refine (if_neg (field_clash f3 0 0 11 (by decide) (by decide) rfl (by decide))).trans ?_
  refine (if_neg (field_clash f3 0 0 11 (by decide) (by decide) rfl (by decide))).trans ?_
  refine (if_neg (field_clash f3 0 0 11 (by decide) (by decide) rfl (by decide))).trans ?_
  refine (if_neg (field_clash f3 0 0 11 (by decide) (by decide) rfl (by decide))).trans ?_
  refine (if_neg (field_clash f3 0 0 11 (by decide) (by decide) rfl (by decide))).trans ?_
  refine (if_neg (field_clash f3 0 0 11 (by decide) (by decide) rfl (by decide))).trans ?_
  refine (if_neg (field_clash f3 0 0 11 (by decide) (by decide) rfl (by decide))).trans ?_
  refine (if_neg (field_clash f3 0 0 11 (by decide) (by decide) rfl (by decide))).trans ?_
  refine (if_neg (field_clash f3 0 0 11 (by decide) (by decide) rfl (by decide))).trans ?_
  refine (if_neg (field_clash f3 0 0 11 (by decide) (by decide) rfl (by decide))).trans ?_
  refine (if_neg (field_clash f3 0 0 11 (by decide) (by decide) rfl (by decide))).trans ?_
  refine (if_neg (field_clash f3 0 0 11 (by decide) (by decide) rfl (by decide))).trans ?_
  refine (if_neg (fun h => (field_clash f3 0 0 6 (by decide) (by decide) rfl (by decide)) h.2)).trans ?_
  refine (if_neg (fun h => (field_clash f3 0 0 6 (by decide) (by decide) rfl (by decide)) h.2)).trans ?_
  refine (if_neg (fun h => (field_clash f3 0 0 6 (by decide) (by decide) rfl (by decide)) h.2)).trans ?_
  refine (if_neg (field_clash f3 0 0 11 (by decide) (by decide) rfl (by decide))).trans ?_
  refine (if_neg (field_clash f3 0 0 11 (by decide) (by decide) rfl (by decide))).trans ?_
  refine (if_neg (field_clash f3 0 0 11 (by decide) (by decide) rfl (by decide))).trans ?_
  refine (if_neg (field_clash f3 0 0 11 (by decide) (by decide) rfl (by decide))).trans ?_
  refine (if_neg (field_clash f3 0 0 11 (by decide) (by decide) rfl (by decide))).trans ?_
  refine (if_neg (field_clash f3 0 0 11 (by decide) (by decide) rfl (by decide))).trans ?_
  refine (if_pos f3).trans ?_
  rw [f1, f2]

theorem popc (d : Reg) (a : Reg) : Statement (.popc d a) := by
  intro wd e hw
  obtain ⟨f0, f1, f2, f3⟩ := cat_6_5_5_16 0#6 d a 0x16#16 (Option.some.inj e)
  refine decode_of ((layout_00 (congrArg BitVec.toNat f0)).trans ?_) hw
  refine (if_neg (field_clash f3 0 0 11 (by decide) (by decide) rfl (by decide))).trans ?_
  refine (if_neg (field_clash f3 0 0 11 (by decide) (by decide) rfl (by decide))).trans ?_
  refine (if_neg (field_clash f3 0 0 11 (by decide) (by decide) rfl (by decide))).trans ?_
  refine (if_neg (field_clash f3 0 0 11 (by decide) (by decide) rfl (by decide))).trans ?_
  refine (if_neg (field_clash f3 0 0 11 (by decide) (by decide) rfl (by decide))).trans ?_
  refine (if_neg (field_clash f3 0 0 11 (by decide) (by decide) rfl (by decide))).trans ?_
  refine (if_neg (field_clash f3 0 0 11 (by decide) (by decide) rfl (by decide))).trans ?_
  refine (if_neg (field_clash f3 0 0 11 (by decide) (by decide) rfl (by decide))).trans ?_
  refine (if_neg (field_clash f3 0 0 11 (by decide) (by decide) rfl (by decide))).trans ?_
  refine (if_neg (field_clash f3 0 0 11 (by decide) (by decide) rfl (by decide))).trans ?_
  refine (if_neg (field_clash f3 0 0 11 (by decide) (by decide) rfl (by decide))).trans ?_
  refine (if_neg (field_clash f3 0 0 11 (by decide) (by decide) rfl (by decide))).trans ?_
  refine (if_neg (field_clash f3 0 0 11 (by decide) (by decide) rfl (by decide))).trans ?_
  refine (if_neg (field_clash f3 0 0 11 (by decide) (by decide) rfl (by decide))).trans ?_
  refine (if_neg (field_clash f3 0 0 11 (by decide) (by decide) rfl (by decide))).trans ?_
  refine (if_neg (fun h => (field_clash f3 0 0 6 (by decide) (by decide) rfl (by decide)) h.2)).trans ?_
  refine (if_neg (fun h => (field_clash f3 0 0 6 (by decide) (by decide) rfl (by decide)) h.2)).trans ?_
  refine (if_neg (fun h => (field_clash f3 0 0 6 (by decide) (by decide) rfl (by decide)) h.2)).trans ?_
  refine (if_neg (field_clash f3 0 0 11 (by decide) (by decide) rfl (by decide))).trans ?_
  refine (if_neg (field_clash f3 0 0 11 (by decide) (by decide) rfl (by decide))).trans ?_
  refine (if_neg (field_clash f3 0 0 11 (by decide) (by decide) rfl (by decide))).trans ?_
  refine (if_neg (field_clash f3 0 0 11 (by decide) (by decide) rfl (by decide))).trans ?_
  refine (if_neg (field_clash f3 0 0 11 (by decide) (by decide) rfl (by decide))).trans ?_
  refine (if_neg (field_clash f3 0 0 11 (by decide) (by decide) rfl (by decide))).trans ?_
  refine (if_neg (fun e => absurd (f3.symm.trans e) (by decide))).trans ?_
  refine (if_pos f3).trans ?_
  rw [f1, f2]

theorem sel (d : Reg) (a : Reg) (b : Reg) : Statement (.sel d a b) := by
  intro wd e hw
  obtain ⟨f0, f1, f2, f3, f4⟩ := cat_6_5_5_5_11 0#6 d a b 0x17#11 (Option.some.inj e)
  refine decode_of ((layout_00 (congrArg BitVec.toNat f0)).trans ?_) hw
  refine (if_neg (fun e => absurd (f4.symm.trans e) (by decide))).trans ?_
  refine (if_neg (fun e => absurd (f4.symm.trans e) (by decide))).trans ?_
  refine (if_neg (fun e => absurd (f4.symm.trans e) (by decide))).trans ?_
  refine (if_neg (fun e => absurd (f4.symm.trans e) (by decide))).trans ?_
  refine (if_neg (fun e => absurd (f4.symm.trans e) (by decide))).trans ?_
  refine (if_neg (fun e => absurd (f4.symm.trans e) (by decide))).trans ?_
  refine (if_neg (fun e => absurd (f4.symm.trans e) (by decide))).trans ?_
  refine (if_neg (fun e => absurd (f4.symm.trans e) (by decide))).trans ?_
  refine (if_neg (fun e => absurd (f4.symm.trans e) (by decide))).trans ?_
  refine (if_neg (fun e => absurd (f4.symm.trans e) (by decide))).trans ?_
  refine (if_neg (fun e => absurd (f4.symm.trans e) (by decide))).trans ?_
  refine (if_neg (fun e => absurd (f4.symm.trans e) (by decide))).trans ?_
  refine (if_neg (fun e => absurd (f4.symm.trans e) (by decide))).trans ?_
  refine (if_neg (fun e => absurd (f4.symm.trans e) (by decide))).trans ?_
  refine (if_neg (fun e => absurd (f4.symm.trans e) (by decide))).trans ?_
  refine (if_neg (fun h => (field_clash f4 0 0 6 (by decide) (by decide) rfl (by decide)) h.2)).trans ?_
  refine (if_neg (fun h => (field_clash f4 0 0 6 (by decide) (by decide) rfl (by decide)) h.2)).trans ?_
  refine (if_neg (fun h => (field_clash f4 0 0 6 (by decide) (by decide) rfl (by decide)) h.2)).trans ?_
  refine (if_neg (fun e => absurd (f4.symm.trans e) (by decide))).trans ?_
  refine (if_neg (fun e => absurd (f4.symm.trans e) (by decide))).trans ?_
  refine (if_neg (fun e => absurd (f4.symm.trans e) (by decide))).trans ?_
  refine (if_neg (fun e => absurd (f4.symm.trans e) (by decide))).trans ?_
  refine (if_neg (fun e => absurd (f4.symm.trans e) (by decide))).trans ?_
  refine (if_neg (fun e => absurd (f4.symm.trans e) (by decide))).trans ?_
  refine (if_neg (field_clash f4 0 0 11 (by decide) (by decide) rfl (by decide))).trans ?_
  refine (if_neg (field_clash f4 0 0 11 (by decide) (by decide) rfl (by decide))).trans ?_
  refine (if_pos f4).trans ?_
  rw [f1, f2, f3]

theorem lui (d : Reg) (i : BitVec 16) : Statement (.lui d i) := by
  intro wd e hw
  obtain ⟨f0, f1, f2, f3⟩ := cat_6_5_5_16 7#6 d 0#5 i (Option.some.inj e)
  refine decode_of ((layout_07 (congrArg BitVec.toNat f0)).trans ?_) hw
  refine (if_pos f2).trans ?_
  rw [f1, f3]

theorem ldB (d : Reg) (a : Reg) (i : BitVec 16) : Statement (.ldB d a i) := by
  intro wd e hw
  obtain ⟨f0, f1, f2, f3⟩ := cat_6_5_5_16 8#6 d a i (Option.some.inj e)
  refine decode_of ((layout_08 (congrArg BitVec.toNat f0)).trans ?_) hw
  rw [f1, f2, f3]

theorem ldBu (d : Reg) (a : Reg) (i : BitVec 16) : Statement (.ldBu d a i) := by
  intro wd e hw
  obtain ⟨f0, f1, f2, f3⟩ := cat_6_5_5_16 9#6 d a i (Option.some.inj e)
  refine decode_of ((layout_09 (congrArg BitVec.toNat f0)).trans ?_) hw
  rw [f1, f2, f3]

theorem ldH (d : Reg) (a : Reg) (i : BitVec 16) : Statement (.ldH d a i) := by
  intro wd e hw
  obtain ⟨f0, f1, f2, f3⟩ := cat_6_5_5_16 0xa#6 d a i (Option.some.inj e)
  refine decode_of ((layout_0A (congrArg BitVec.toNat f0)).trans ?_) hw
  rw [f1, f2, f3]

theorem ldHu (d : Reg) (a : Reg) (i : BitVec 16) : Statement (.ldHu d a i) := by
  intro wd e hw
  obtain ⟨f0, f1, f2, f3⟩ := cat_6_5_5_16 0xb#6 d a i (Option.some.inj e)
  refine decode_of ((layout_0B (congrArg BitVec.toNat f0)).trans ?_) hw
  rw [f1, f2, f3]

theorem ldW (d : Reg) (a : Reg) (i : BitVec 16) : Statement (.ldW d a i) := by
  intro wd e hw
  obtain ⟨f0, f1, f2, f3⟩ := cat_6_5_5_16 0xc#6 d a i (Option.some.inj e)
  refine decode_of ((layout_0C (congrArg BitVec.toNat f0)).trans ?_) hw
  rw [f1, f2, f3]

theorem ldWu (d : Reg) (a : Reg) (i : BitVec 16) : Statement (.ldWu d a i) := by
  intro wd e hw
  obtain ⟨f0, f1, f2, f3⟩ := cat_6_5_5_16 0xd#6 d a i (Option.some.inj e)
  refine decode_of ((layout_0D (congrArg BitVec.toNat f0)).trans ?_) hw
  rw [f1, f2, f3]

theorem ldD (d : Reg) (a : Reg) (i : BitVec 16) : Statement (.ldD d a i) := by
  intro wd e hw
  obtain ⟨f0, f1, f2, f3⟩ := cat_6_5_5_16 0xe#6 d a i (Option.some.inj e)
  refine decode_of ((layout_0E (congrArg BitVec.toNat f0)).trans ?_) hw
  rw [f1, f2, f3]

theorem stB (d : Reg) (a : Reg) (i : BitVec 16) : Statement (.stB d a i) := by
  intro wd e hw
  obtain ⟨f0, f1, f2, f3⟩ := cat_6_5_5_16 0x10#6 d a i (Option.some.inj e)
  refine decode_of ((layout_10 (congrArg BitVec.toNat f0)).trans ?_) hw
  rw [f1, f2, f3]

theorem stH (d : Reg) (a : Reg) (i : BitVec 16) : Statement (.stH d a i) := by
  intro wd e hw
  obtain ⟨f0, f1, f2, f3⟩ := cat_6_5_5_16 0x11#6 d a i (Option.some.inj e)
  refine decode_of ((layout_11 (congrArg BitVec.toNat f0)).trans ?_) hw
  rw [f1, f2, f3]

theorem stW (d : Reg) (a : Reg) (i : BitVec 16) : Statement (.stW d a i) := by
  intro wd e hw
  obtain ⟨f0, f1, f2, f3⟩ := cat_6_5_5_16 0x12#6 d a i (Option.some.inj e)
  refine decode_of ((layout_12 (congrArg BitVec.toNat f0)).trans ?_) hw
  rw [f1, f2, f3]

theorem stD (d : Reg) (a : Reg) (i : BitVec 16) : Statement (.stD d a i) := by
  intro wd e hw
  obtain ⟨f0, f1, f2, f3⟩ := cat_6_5_5_16 0x13#6 d a i (Option.some.inj e)
  refine decode_of ((layout_13 (congrArg BitVec.toNat f0)).trans ?_) hw
  rw [f1, f2, f3]

theorem beq (a : Reg) (b : Reg) (o : BitVec 16) : Statement (.beq a b o) := by
  intro wd e hw
  obtain ⟨f0, f1, f2, f3⟩ := cat_6_5_5_16 0x14#6 a b o (Option.some.inj e)
  refine decode_of ((layout_14 (congrArg BitVec.toNat f0)).trans ?_) hw
  rw [f1, f2, f3]

theorem bne (a : Reg) (b : Reg) (o : BitVec 16) : Statement (.bne a b o) := by
  intro wd e hw
  obtain ⟨f0, f1, f2, f3⟩ := cat_6_5_5_16 0x15#6 a b o (Option.some.inj e)
  refine decode_of ((layout_15 (congrArg BitVec.toNat f0)).trans ?_) hw
  rw [f1, f2, f3]

theorem blt (a : Reg) (b : Reg) (o : BitVec 16) : Statement (.blt a b o) := by
  intro wd e hw
  obtain ⟨f0, f1, f2, f3⟩ := cat_6_5_5_16 0x16#6 a b o (Option.some.inj e)
  refine decode_of ((layout_16 (congrArg BitVec.toNat f0)).trans ?_) hw
  rw [f1, f2, f3]

theorem bge (a : Reg) (b : Reg) (o : BitVec 16) : Statement (.bge a b o) := by
  intro wd e hw
  obtain ⟨f0, f1, f2, f3⟩ := cat_6_5_5_16 0x17#6 a b o (Option.some.inj e)
  refine decode_of ((layout_17 (congrArg BitVec.toNat f0)).trans ?_) hw
  rw [f1, f2, f3]

theorem bltU (a : Reg) (b : Reg) (o : BitVec 16) : Statement (.bltU a b o) := by
  intro wd e hw
  obtain ⟨f0, f1, f2, f3⟩ := cat_6_5_5_16 0x18#6 a b o (Option.some.inj e)
  refine decode_of ((layout_18 (congrArg BitVec.toNat f0)).trans ?_) hw
  rw [f1, f2, f3]

theorem bgeU (a : Reg) (b : Reg) (o : BitVec 16) : Statement (.bgeU a b o) := by
  intro wd e hw
  obtain ⟨f0, f1, f2, f3⟩ := cat_6_5_5_16 0x19#6 a b o (Option.some.inj e)
  refine decode_of ((layout_19 (congrArg BitVec.toNat f0)).trans ?_) hw
  rw [f1, f2, f3]

theorem jmp (o : BitVec 26) : Statement (.jmp o) := by
  intro wd e hw
  obtain ⟨f0, f1⟩ := cat_6_26 0x1a#6 o (Option.some.inj e)
  refine decode_of ((layout_1A (congrArg BitVec.toNat f0)).trans ?_) hw
  rw [f1]

theorem jal (o : BitVec 26) : Statement (.jal o) := by
  intro wd e hw
  obtain ⟨f0, f1⟩ := cat_6_26 0x1b#6 o (Option.some.inj e)
  refine decode_of ((layout_1B (congrArg BitVec.toNat f0)).trans ?_) hw
  rw [f1]

theorem strip (a : Reg) (p : BitVec 4) (o : BitVec 17) : Statement (.strip a p o) := by
  intro wd e hw
  obtain ⟨f0, f1, f2, f3⟩ := cat_6_5_4_17 0x1c#6 a p o (Option.some.inj e)
  refine decode_of ((layout_1C (congrArg BitVec.toNat f0)).trans ?_) hw
  rw [f1, f2, f3]

theorem btag (a : Reg) (c : BitVec 5) (o : BitVec 16) : Statement (.btag a c o) := by
  intro wd e hw
  obtain ⟨f0, f1, f2, f3⟩ := cat_6_5_5_16 0x1d#6 a c o (Option.some.inj e)
  refine decode_of ((layout_1D (congrArg BitVec.toNat f0)).trans ?_) hw
  rw [f1, f2, f3]

theorem bmask (m : MaskNo) (c : BitVec 5) (o : BitVec 16) : Statement (.bmask m c o) := by
  intro wd e hw
  obtain ⟨f0, f1, f2, f3⟩ := cat_8_3_5_16 0xf8#8 m c o (Option.some.inj e)
  refine decode_of ((layout_3E (congrArg BitVec.toNat (field_sub f0 2 6 (by decide)))).trans ?_) hw
  refine (if_pos (field_sub f0 0 2 (by decide))).trans ?_
  rw [f1, f2, f3]

theorem aadd (d : Reg) (a : Reg) (b : Reg) (s : Bit) (w : Bit) : Statement (.aadd d a b s w) := by
  intro wd e hw
  obtain ⟨f0, f1, f2, f3, f4, f5, f6, f7, f8⟩ := cat_6_5_5_5_2_1_1_1_6 0x1e#6 d a b 0#2 s 0#1 w 0#6 (Option.some.inj e)
  refine decode_of ((layout_1E (congrArg BitVec.toNat f0)).trans ?_) hw
  refine (if_pos ⟨f4, f6, f8⟩).trans ?_
  rw [f1, f2, f3, f5, f7]

theorem amin (d : Reg) (a : Reg) (b : Reg) (s : Bit) (u : Bit) (w : Bit) : Statement (.amin d a b s u w) := by
  intro wd e hw
  obtain ⟨f0, f1, f2, f3, f4, f5, f6, f7, f8⟩ := cat_6_5_5_5_2_1_1_1_6 0x1e#6 d a b 0#2 s u w 1#6 (Option.some.inj e)
  refine decode_of ((layout_1E (congrArg BitVec.toNat f0)).trans ?_) hw
  refine (if_neg (fun h => (fun e => absurd (f8.symm.trans e) (by decide)) h.2.2)).trans ?_
  refine (if_pos ⟨f4, f8⟩).trans ?_
  rw [f1, f2, f3, f5, f6, f7]

theorem amax (d : Reg) (a : Reg) (b : Reg) (s : Bit) (u : Bit) (w : Bit) : Statement (.amax d a b s u w) := by
  intro wd e hw
  obtain ⟨f0, f1, f2, f3, f4, f5, f6, f7, f8⟩ := cat_6_5_5_5_2_1_1_1_6 0x1e#6 d a b 0#2 s u w 2#6 (Option.some.inj e)
  refine decode_of ((layout_1E (congrArg BitVec.toNat f0)).trans ?_) hw
  refine (if_neg (fun h => (fun e => absurd (f8.symm.trans e) (by decide)) h.2.2)).trans ?_
  refine (if_neg (fun h => (fun e => absurd (f8.symm.trans e) (by decide)) h.2)).trans ?_
  refine (if_pos ⟨f4, f8⟩).trans ?_
  rw [f1, f2, f3, f5, f6, f7]

theorem aand (d : Reg) (a : Reg) (b : Reg) (s : Bit) (w : Bit) : Statement (.aand d a b s w) := by
  intro wd e hw
  obtain ⟨f0, f1, f2, f3, f4, f5, f6, f7, f8⟩ := cat_6_5_5_5_2_1_1_1_6 0x1e#6 d a b 0#2 s 0#1 w 3#6 (Option.some.inj e)
  refine decode_of ((layout_1E (congrArg BitVec.toNat f0)).trans ?_) hw
  refine (if_neg (fun h => (fun e => absurd (f8.symm.trans e) (by decide)) h.2.2)).trans ?_
  refine (if_neg (fun h => (fun e => absurd (f8.symm.trans e) (by decide)) h.2)).trans ?_
  refine (if_neg (fun h => (fun e => absurd (f8.symm.trans e) (by decide)) h.2)).trans ?_
  refine (if_pos ⟨f4, f6, f8⟩).trans ?_
  rw [f1, f2, f3, f5, f7]

theorem aor (d : Reg) (a : Reg) (b : Reg) (s : Bit) (w : Bit) : Statement (.aor d a b s w) := by
  intro wd e hw
  obtain ⟨f0, f1, f2, f3, f4, f5, f6, f7, f8⟩ := cat_6_5_5_5_2_1_1_1_6 0x1e#6 d a b 0#2 s 0#1 w 4#6 (Option.some.inj e)
  refine decode_of ((layout_1E (congrArg BitVec.toNat f0)).trans ?_) hw
  refine (if_neg (fun h => (fun e => absurd (f8.symm.trans e) (by decide)) h.2.2)).trans ?_
  refine (if_neg (fun h => (fun e => absurd (f8.symm.trans e) (by decide)) h.2)).trans ?_
  refine (if_neg (fun h => (fun e => absurd (f8.symm.trans e) (by decide)) h.2)).trans ?_
  refine (if_neg (fun h => (fun e => absurd (f8.symm.trans e) (by decide)) h.2.2)).trans ?_
  refine (if_pos ⟨f4, f6, f8⟩).trans ?_
  rw [f1, f2, f3, f5, f7]

theorem axchg (d : Reg) (a : Reg) (b : Reg) (s : Bit) (w : Bit) : Statement (.axchg d a b s w) := by
  intro wd e hw
  obtain ⟨f0, f1, f2, f3, f4, f5, f6, f7, f8⟩ := cat_6_5_5_5_2_1_1_1_6 0x1e#6 d a b 0#2 s 0#1 w 5#6 (Option.some.inj e)
  refine decode_of ((layout_1E (congrArg BitVec.toNat f0)).trans ?_) hw
  refine (if_neg (fun h => (fun e => absurd (f8.symm.trans e) (by decide)) h.2.2)).trans ?_
  refine (if_neg (fun h => (fun e => absurd (f8.symm.trans e) (by decide)) h.2)).trans ?_
  refine (if_neg (fun h => (fun e => absurd (f8.symm.trans e) (by decide)) h.2)).trans ?_
  refine (if_neg (fun h => (fun e => absurd (f8.symm.trans e) (by decide)) h.2.2)).trans ?_
  refine (if_neg (fun h => (fun e => absurd (f8.symm.trans e) (by decide)) h.2.2)).trans ?_
  refine (if_pos ⟨f4, f6, f8⟩).trans ?_
  rw [f1, f2, f3, f5, f7]

theorem acas (d : Reg) (a : Reg) (b : Reg) (s : Bit) (w : Bit) : Statement (.acas d a b s w) := by
  intro wd e hw
  obtain ⟨f0, f1, f2, f3, f4, f5, f6, f7, f8⟩ := cat_6_5_5_5_2_1_1_1_6 0x1e#6 d a b 0#2 s 0#1 w 6#6 (Option.some.inj e)
  refine decode_of ((layout_1E (congrArg BitVec.toNat f0)).trans ?_) hw
  refine (if_neg (fun h => (fun e => absurd (f8.symm.trans e) (by decide)) h.2.2)).trans ?_
  refine (if_neg (fun h => (fun e => absurd (f8.symm.trans e) (by decide)) h.2)).trans ?_
  refine (if_neg (fun h => (fun e => absurd (f8.symm.trans e) (by decide)) h.2)).trans ?_
  refine (if_neg (fun h => (fun e => absurd (f8.symm.trans e) (by decide)) h.2.2)).trans ?_
  refine (if_neg (fun h => (fun e => absurd (f8.symm.trans e) (by decide)) h.2.2)).trans ?_
  refine (if_neg (fun h => (fun e => absurd (f8.symm.trans e) (by decide)) h.2.2)).trans ?_
  refine (if_pos ⟨f4, f6, f8⟩).trans ?_
  rw [f1, f2, f3, f5, f7]

theorem phase (g : BitVec 2) : Statement (.phase g) := by
  intro wd e hw
  obtain ⟨f0, f1, f2⟩ := cat_24_2_6 0x7c0000#24 g 0#6 (Option.some.inj e)
  refine decode_of ((layout_1F (congrArg BitVec.toNat (field_sub f0 18 6 (by decide)))).trans ?_) hw
  refine (if_pos ⟨(field_sub f0 0 18 (by decide)), f2⟩).trans ?_
  rw [f1]

theorem pub (a : Reg) (b : Reg) (c : BitVec 3) : Statement (.pub a b c) := by
  intro wd e hw
  obtain ⟨f0, f1, f2, f3, f4, f5⟩ := cat_11_5_5_2_3_6 0x3e0#11 a b 0#2 c 1#6 (Option.some.inj e)
  refine decode_of ((layout_1F (congrArg BitVec.toNat (field_sub f0 5 6 (by decide)))).trans ?_) hw
  refine (if_neg (fun h => (fun e => absurd (f5.symm.trans e) (by decide)) h.2)).trans ?_
  refine (if_pos ⟨(field_sub f0 0 5 (by decide)), f3, f5⟩).trans ?_
  rw [f1, f2, f4]

theorem acq (d : Reg) (a : Reg) (c : BitVec 3) : Statement (.acq d a c) := by
  intro wd e hw
  obtain ⟨f0, f1, f2, f3, f4, f5⟩ := cat_6_5_5_7_3_6 0x1f#6 d a 0#7 c 2#6 (Option.some.inj e)
  refine decode_of ((layout_1F (congrArg BitVec.toNat f0)).trans ?_) hw
  refine (if_neg (fun h => (fun e => absurd (f5.symm.trans e) (by decide)) h.2)).trans ?_
  refine (if_neg (fun h => (fun e => absurd (f5.symm.trans e) (by decide)) h.2.2)).trans ?_
  refine (if_pos ⟨f3, f5⟩).trans ?_
  rw [f1, f2, f4]

theorem fence (k : BitVec 3) : Statement (.fence k) := by
  intro wd e hw
  obtain ⟨f0, f1, f2⟩ := cat_23_3_6 0x3e0000#23 k 3#6 (Option.some.inj e)
  refine decode_of ((layout_1F (congrArg BitVec.toNat (field_sub f0 17 6 (by decide)))).trans ?_) hw
  refine (if_neg (fun h => (fun e => absurd (f2.symm.trans e) (by decide)) h.2)).trans ?_
  refine (if_neg (fun h => (fun e => absurd (f2.symm.trans e) (by decide)) h.2.2)).trans ?_
  refine (if_neg (fun h => (fun e => absurd (f2.symm.trans e) (by decide)) h.2)).trans ?_
  refine (if_pos ⟨(field_sub f0 0 17 (by decide)), f2⟩).trans ?_
  rw [f1]

theorem qfence (a : Reg) : Statement (.qfence a) := by
  intro wd e hw
  obtain ⟨f0, f1, f2⟩ := cat_11_5_16 0x3e0#11 a 4#16 (Option.some.inj e)
  refine decode_of ((layout_1F (congrArg BitVec.toNat (field_sub f0 5 6 (by decide)))).trans ?_) hw
  refine (if_neg (fun h => (field_clash f2 0 0 6 (by decide) (by decide) rfl (by decide)) h.2)).trans ?_
  refine (if_neg (fun h => (field_clash f2 0 0 6 (by decide) (by decide) rfl (by decide)) h.2.2)).trans ?_
  refine (if_neg (fun h => (field_clash f2 0 0 6 (by decide) (by decide) rfl (by decide)) h.2)).trans ?_
  refine (if_neg (fun h => (field_clash f2 0 0 6 (by decide) (by decide) rfl (by decide)) h.2)).trans ?_
  refine (if_pos ⟨(field_sub f0 0 5 (by decide)), f2⟩).trans ?_
  rw [f1]

theorem gbar (g : BitVec 2) : Statement (.gbar g) := by
  intro wd e hw
  obtain ⟨f0, f1, f2⟩ := cat_24_2_6 0x7c0000#24 g 5#6 (Option.some.inj e)
  refine decode_of ((layout_1F (congrArg BitVec.toNat (field_sub f0 18 6 (by decide)))).trans ?_) hw
  refine (if_neg (fun h => (fun e => absurd (f2.symm.trans e) (by decide)) h.2)).trans ?_
  refine (if_neg (fun h => (fun e => absurd (f2.symm.trans e) (by decide)) h.2.2)).trans ?_
  refine (if_neg (fun h => (fun e => absurd (f2.symm.trans e) (by decide)) h.2)).trans ?_
  refine (if_neg (fun h => (fun e => absurd (f2.symm.trans e) (by decide)) h.2)).trans ?_
  refine (if_neg (fun h => (field_clash f2 0 0 6 (by decide) (by decide) rfl (by decide)) h.2)).trans ?_
  refine (if_pos ⟨(field_sub f0 0 18 (by decide)), f2⟩).trans ?_
  rw [f1]

theorem rclm (a : Reg) : Statement (.rclm a) := by
  intro wd e hw
  obtain ⟨f0, f1, f2⟩ := cat_11_5_16 0x3e0#11 a 6#16 (Option.some.inj e)
  refine decode_of ((layout_1F (congrArg BitVec.toNat (field_sub f0 5 6 (by decide)))).trans ?_) hw
  refine (if_neg (fun h => (field_clash f2 0 0 6 (by decide) (by decide) rfl (by decide)) h.2)).trans ?_
  refine (if_neg (fun h => (field_clash f2 0 0 6 (by decide) (by decide) rfl (by decide)) h.2.2)).trans ?_
  refine (if_neg (fun h => (field_clash f2 0 0 6 (by decide) (by decide) rfl (by decide)) h.2)).trans ?_
  refine (if_neg (fun h => (field_clash f2 0 0 6 (by decide) (by decide) rfl (by decide)) h.2)).trans ?_
  refine (if_neg (fun h => (fun e => absurd (f2.symm.trans e) (by decide)) h.2)).trans ?_
  refine (if_neg (fun h => (field_clash f2 0 0 6 (by decide) (by decide) rfl (by decide)) h.2)).trans ?_
  refine (if_pos ⟨(field_sub f0 0 5 (by decide)), f2⟩).trans ?_
  rw [f1]

theorem vadd (d : Ent) (a : Ent) (b : Ent) (x : Bit) (y : Bit) (m : MaskNo) : Statement (.vadd d a b x y m) := by
  intro wd e hw
  obtain ⟨f0, f1, f2, f3, f4, f5, f6, f7⟩ := cat_6_6_6_6_1_1_3_3 0x20#6 d a b x y m 0#3 (Option.some.inj e)
  refine decode_of ((layout_20 (congrArg BitVec.toNat f0)).trans ?_) hw
  refine (if_pos f7).trans ?_
  rw [f1, f2, f3, f4, f5, f6]

theorem vsub (d : Ent) (a : Ent) (b : Ent) (x : Bit) (y : Bit) (m : MaskNo) : Statement (.vsub d a b x y m) := by
  intro wd e hw
  obtain ⟨f0, f1, f2, f3, f4, f5, f6, f7⟩ := cat_6_6_6_6_1_1_3_3 0x20#6 d a b x y m 1#3 (Option.some.inj e)
  refine decode_of ((layout_20 (congrArg BitVec.toNat f0)).trans ?_) hw
  refine (if_neg (fun e => absurd (f7.symm.trans e) (by decide))).trans ?_
  refine (if_pos f7).trans ?_
  rw [f1, f2, f3, f4, f5, f6]

theorem vmul (d : Ent) (a : Ent) (b : Ent) (x : Bit) (y : Bit) (m : MaskNo) : Statement (.vmul d a b x y m) := by
  intro wd e hw
  obtain ⟨f0, f1, f2, f3, f4, f5, f6, f7⟩ := cat_6_6_6_6_1_1_3_3 0x20#6 d a b x y m 2#3 (Option.some.inj e)
  refine decode_of ((layout_20 (congrArg BitVec.toNat f0)).trans ?_) hw
  refine (if_neg (fun e => absurd (f7.symm.trans e) (by decide))).trans ?_
  refine (if_neg (fun e => absurd (f7.symm.trans e) (by decide))).trans ?_
  refine (if_pos f7).trans ?_
  rw [f1, f2, f3, f4, f5, f6]

theorem vdiv (d : Ent) (a : Ent) (b : Ent) (x : Bit) (y : Bit) (m : MaskNo) : Statement (.vdiv d a b x y m) := by
  intro wd e hw
  obtain ⟨f0, f1, f2, f3, f4, f5, f6, f7⟩ := cat_6_6_6_6_1_1_3_3 0x20#6 d a b x y m 3#3 (Option.some.inj e)
  refine decode_of ((layout_20 (congrArg BitVec.toNat f0)).trans ?_) hw
  refine (if_neg (fun e => absurd (f7.symm.trans e) (by decide))).trans ?_
  refine (if_neg (fun e => absurd (f7.symm.trans e) (by decide))).trans ?_
  refine (if_neg (fun e => absurd (f7.symm.trans e) (by decide))).trans ?_
  refine (if_pos f7).trans ?_
  rw [f1, f2, f3, f4, f5, f6]

theorem vmin (d : Ent) (a : Ent) (b : Ent) (x : Bit) (y : Bit) (m : MaskNo) : Statement (.vmin d a b x y m) := by
  intro wd e hw
  obtain ⟨f0, f1, f2, f3, f4, f5, f6, f7⟩ := cat_6_6_6_6_1_1_3_3 0x20#6 d a b x y m 4#3 (Option.some.inj e)
  refine decode_of ((layout_20 (congrArg BitVec.toNat f0)).trans ?_) hw
  refine (if_neg (fun e => absurd (f7.symm.trans e) (by decide))).trans ?_
  refine (if_neg (fun e => absurd (f7.symm.trans e) (by decide))).trans ?_
  refine (if_neg (fun e => absurd (f7.symm.trans e) (by decide))).trans ?_
  refine (if_neg (fun e => absurd (f7.symm.trans e) (by decide))).trans ?_
  refine (if_pos f7).trans ?_
  rw [f1, f2, f3, f4, f5, f6]

theorem vmax (d : Ent) (a : Ent) (b : Ent) (x : Bit) (y : Bit) (m : MaskNo) : Statement (.vmax d a b x y m) := by
  intro wd e hw
  obtain ⟨f0, f1, f2, f3, f4, f5, f6, f7⟩ := cat_6_6_6_6_1_1_3_3 0x20#6 d a b x y m 5#3 (Option.some.inj e)
  refine decode_of ((layout_20 (congrArg BitVec.toNat f0)).trans ?_) hw
  refine (if_neg (fun e => absurd (f7.symm.trans e) (by decide))).trans ?_
  refine (if_neg (fun e => absurd (f7.symm.trans e) (by decide))).trans ?_
  refine (if_neg (fun e => absurd (f7.symm.trans e) (by decide))).trans ?_
  refine (if_neg (fun e => absurd (f7.symm.trans e) (by decide))).trans ?_
  refine (if_neg (fun e => absurd (f7.symm.trans e) (by decide))).trans ?_
  refine (if_pos f7).trans ?_
  rw [f1, f2, f3, f4, f5, f6]

theorem vabs (d : Ent) (a : Ent) (x : Bit) (m : MaskNo) : Statement (.vabs d a x m) := by
  intro wd e hw
  obtain ⟨f0, f1, f2, f3, f4, f5, f6, f7⟩ := cat_6_6_6_6_1_1_3_3 0x20#6 d a 0#6 x 0#1 m 6#3 (Option.some.inj e)
  refine decode_of ((layout_20 (congrArg BitVec.toNat f0)).trans ?_) hw
  refine (if_neg (fun e => absurd (f7.symm.trans e) (by decide))).trans ?_
  refine (if_neg (fun e => absurd (f7.symm.trans e) (by decide))).trans ?_
  refine (if_neg (fun e => absurd (f7.symm.trans e) (by decide))).trans ?_
  refine (if_neg (fun e => absurd (f7.symm.trans e) (by decide))).trans ?_
  refine (if_neg (fun e => absurd (f7.symm.trans e) (by decide))).trans ?_
  refine (if_neg (fun e => absurd (f7.symm.trans e) (by decide))).trans ?_
  refine (if_pos ⟨f3, f5, f7⟩).trans ?_
  rw [f1, f2, f4, f6]

theorem vneg (d : Ent) (a : Ent) (x : Bit) (m : MaskNo) : Statement (.vneg d a x m) := by
  intro wd e hw
  obtain ⟨f0, f1, f2, f3, f4, f5, f6, f7⟩ := cat_6_6_6_6_1_1_3_3 0x20#6 d a 0#6 x 0#1 m 7#3 (Option.some.inj e)
  refine decode_of ((layout_20 (congrArg BitVec.toNat f0)).trans ?_) hw
  refine (if_neg (fun e => absurd (f7.symm.trans e) (by decide))).trans ?_
  refine (if_neg (fun e => absurd (f7.symm.trans e) (by decide))).trans ?_
  refine (if_neg (fun e => absurd (f7.symm.trans e) (by decide))).trans ?_
  refine (if_neg (fun e => absurd (f7.symm.trans e) (by decide))).trans ?_
  refine (if_neg (fun e => absurd (f7.symm.trans e) (by decide))).trans ?_
  refine (if_neg (fun e => absurd (f7.symm.trans e) (by decide))).trans ?_
  refine (if_neg (fun h => (fun e => absurd (f7.symm.trans e) (by decide)) h.2.2)).trans ?_
  refine (if_pos ⟨f3, f5, f7⟩).trans ?_
  rw [f1, f2, f4, f6]

theorem vfma (d : Ent) (a : Ent) (b : Ent) (x : Bit) (y : Bit) (m : MaskNo) : Statement (.vfma d a b x y m) := by
  intro wd e hw
  obtain ⟨f0, f1, f2, f3, f4, f5, f6, f7⟩ := cat_6_6_6_6_1_1_3_3 0x21#6 d a b x y m 0#3 (Option.some.inj e)
  refine decode_of ((layout_21 (congrArg BitVec.toNat f0)).trans ?_) hw
  refine (if_pos f7).trans ?_
  rw [f1, f2, f3, f4, f5, f6]

theorem vfms (d : Ent) (a : Ent) (b : Ent) (x : Bit) (y : Bit) (m : MaskNo) : Statement (.vfms d a b x y m) := by
  intro wd e hw
  obtain ⟨f0, f1, f2, f3, f4, f5, f6, f7⟩ := cat_6_6_6_6_1_1_3_3 0x21#6 d a b x y m 1#3 (Option.some.inj e)
  refine decode_of ((layout_21 (congrArg BitVec.toNat f0)).trans ?_) hw
  refine (if_neg (fun e => absurd (f7.symm.trans e) (by decide))).trans ?_
  refine (if_pos f7).trans ?_
  rw [f1, f2, f3, f4, f5, f6]

theorem vsqrt (d : Ent) (a : Ent) (x : Bit) (m : MaskNo) : Statement (.vsqrt d a x m) := by
  intro wd e hw
  obtain ⟨f0, f1, f2, f3, f4, f5, f6, f7⟩ := cat_6_6_6_6_1_1_3_3 0x21#6 d a 0#6 x 0#1 m 2#3 (Option.some.inj e)
  refine decode_of ((layout_21 (congrArg BitVec.toNat f0)).trans ?_) hw
  refine (if_neg (fun e => absurd (f7.symm.trans e) (by decide))).trans ?_
  refine (if_neg (fun e => absurd (f7.symm.trans e) (by decide))).trans ?_
  refine (if_pos ⟨f3, f5, f7⟩).trans ?_
  rw [f1, f2, f4, f6]

theorem vrcp (d : Ent) (a : Ent) (x : Bit) (m : MaskNo) : Statement (.vrcp d a x m) := by
  intro wd e hw
  obtain ⟨f0, f1, f2, f3, f4, f5, f6, f7⟩ := cat_6_6_6_6_1_1_3_3 0x21#6 d a 0#6 x 0#1 m 3#3 (Option.some.inj e)
  refine decode_of ((layout_21 (congrArg BitVec.toNat f0)).trans ?_) hw
  refine (if_neg (fun e => absurd (f7.symm.trans e) (by decide))).trans ?_
  refine (if_neg (fun e => absurd (f7.symm.trans e) (by decide))).trans ?_
  refine (if_neg (fun h => (fun e => absurd (f7.symm.trans e) (by decide)) h.2.2)).trans ?_
  refine (if_pos ⟨f3, f5, f7⟩).trans ?_
  rw [f1, f2, f4, f6]

theorem vrsqrt (d : Ent) (a : Ent) (x : Bit) (m : MaskNo) : Statement (.vrsqrt d a x m) := by
  intro wd e hw
  obtain ⟨f0, f1, f2, f3, f4, f5, f6, f7⟩ := cat_6_6_6_6_1_1_3_3 0x21#6 d a 0#6 x 0#1 m 4#3 (Option.some.inj e)
  refine decode_of ((layout_21 (congrArg BitVec.toNat f0)).trans ?_) hw
  refine (if_neg (fun e => absurd (f7.symm.trans e) (by decide))).trans ?_
  refine (if_neg (fun e => absurd (f7.symm.trans e) (by decide))).trans ?_
  refine (if_neg (fun h => (fun e => absurd (f7.symm.trans e) (by decide)) h.2.2)).trans ?_
  refine (if_neg (fun h => (fun e => absurd (f7.symm.trans e) (by decide)) h.2.2)).trans ?_
  refine (if_pos ⟨f3, f5, f7⟩).trans ?_
  rw [f1, f2, f4, f6]

theorem vexp2 (d : Ent) (a : Ent) (x : Bit) (m : MaskNo) : Statement (.vexp2 d a x m) := by
  intro wd e hw
  obtain ⟨f0, f1, f2, f3, f4, f5, f6, f7⟩ := cat_6_6_6_6_1_1_3_3 0x21#6 d a 0#6 x 0#1 m 5#3 (Option.some.inj e)
  refine decode_of ((layout_21 (congrArg BitVec.toNat f0)).trans ?_) hw
  refine (if_neg (fun e => absurd (f7.symm.trans e) (by decide))).trans ?_
  refine (if_neg (fun e => absurd (f7.symm.trans e) (by decide))).trans ?_
  refine (if_neg (fun h => (fun e => absurd (f7.symm.trans e) (by decide)) h.2.2)).trans ?_
  refine (if_neg (fun h => (fun e => absurd (f7.symm.trans e) (by decide)) h.2.2)).trans ?_
  refine (if_neg (fun h => (fun e => absurd (f7.symm.trans e) (by decide)) h.2.2)).trans ?_
  refine (if_pos ⟨f3, f5, f7⟩).trans ?_
  rw [f1, f2, f4, f6]

theorem vand (d : Ent) (a : Ent) (b : Ent) (x : Bit) (y : Bit) (m : MaskNo) : Statement (.vand d a b x y m) := by
  intro wd e hw
  obtain ⟨f0, f1, f2, f3, f4, f5, f6, f7⟩ := cat_6_6_6_6_1_1_3_3 0x22#6 d a b x y m 0#3 (Option.some.inj e)
  refine decode_of ((layout_22 (congrArg BitVec.toNat f0)).trans ?_) hw
  refine (if_pos f7).trans ?_
  rw [f1, f2, f3, f4, f5, f6]

theorem vor (d : Ent) (a : Ent) (b : Ent) (x : Bit) (y : Bit) (m : MaskNo) : Statement (.vor d a b x y m) := by
  intro wd e hw
  obtain ⟨f0, f1, f2, f3, f4, f5, f6, f7⟩ := cat_6_6_6_6_1_1_3_3 0x22#6 d a b x y m 1#3 (Option.some.inj e)
  refine decode_of ((layout_22 (congrArg BitVec.toNat f0)).trans ?_) hw
  refine (if_neg (fun e => absurd (f7.symm.trans e) (by decide))).trans ?_
  refine (if_pos f7).trans ?_
  rw [f1, f2, f3, f4, f5, f6]

theorem vxor (d : Ent) (a : Ent) (b : Ent) (x : Bit) (y : Bit) (m : MaskNo) : Statement (.vxor d a b x y m) := by
  intro wd e hw
  obtain ⟨f0, f1, f2, f3, f4, f5, f6, f7⟩ := cat_6_6_6_6_1_1_3_3 0x22#6 d a b x y m 2#3 (Option.some.inj e)
  refine decode_of ((layout_22 (congrArg BitVec.toNat f0)).trans ?_) hw
  refine (if_neg (fun e => absurd (f7.symm.trans e) (by decide))).trans ?_
  refine (if_neg (fun e => absurd (f7.symm.trans e) (by decide))).trans ?_
  refine (if_pos f7).trans ?_
  rw [f1, f2, f3, f4, f5, f6]

theorem vnot (d : Ent) (a : Ent) (x : Bit) (m : MaskNo) : Statement (.vnot d a x m) := by
  intro wd e hw
  obtain ⟨f0, f1, f2, f3, f4, f5, f6, f7⟩ := cat_6_6_6_6_1_1_3_3 0x22#6 d a 0#6 x 0#1 m 3#3 (Option.some.inj e)
  refine decode_of ((layout_22 (congrArg BitVec.toNat f0)).trans ?_) hw
  refine (if_neg (fun e => absurd (f7.symm.trans e) (by decide))).trans ?_
  refine (if_neg (fun e => absurd (f7.symm.trans e) (by decide))).trans ?_
  refine (if_neg (fun e => absurd (f7.symm.trans e) (by decide))).trans ?_
  refine (if_pos ⟨f3, f5, f7⟩).trans ?_
  rw [f1, f2, f4, f6]

theorem vshl (d : Ent) (a : Ent) (b : Ent) (x : Bit) (y : Bit) (m : MaskNo) : Statement (.vshl d a b x y m) := by
  intro wd e hw
  obtain ⟨f0, f1, f2, f3, f4, f5, f6, f7⟩ := cat_6_6_6_6_1_1_3_3 0x22#6 d a b x y m 4#3 (Option.some.inj e)
  refine decode_of ((layout_22 (congrArg BitVec.toNat f0)).trans ?_) hw
  refine (if_neg (fun e => absurd (f7.symm.trans e) (by decide))).trans ?_
  refine (if_neg (fun e => absurd (f7.symm.trans e) (by decide))).trans ?_
  refine (if_neg (fun e => absurd (f7.symm.trans e) (by decide))).trans ?_
  refine (if_neg (fun h => (fun e => absurd (f7.symm.trans e) (by decide)) h.2.2)).trans ?_
  refine (if_pos f7).trans ?_
  rw [f1, f2, f3, f4, f5, f6]

theorem vshr (d : Ent) (a : Ent) (b : Ent) (x : Bit) (y : Bit) (m : MaskNo) : Statement (.vshr d a b x y m) := by
  intro wd e hw
  obtain ⟨f0, f1, f2, f3, f4, f5, f6, f7⟩ := cat_6_6_6_6_1_1_3_3 0x22#6 d a b x y m 5#3 (Option.some.inj e)
  refine decode_of ((layout_22 (congrArg BitVec.toNat f0)).trans ?_) hw
  refine (if_neg (fun e => absurd (f7.symm.trans e) (by decide))).trans ?_
  refine (if_neg (fun e => absurd (f7.symm.trans e) (by decide))).trans ?_
  refine (if_neg (fun e => absurd (f7.symm.trans e) (by decide))).trans ?_
  refine (if_neg (fun h => (fun e => absurd (f7.symm.trans e) (by decide)) h.2.2)).trans ?_
  refine (if_neg (fun e => absurd (f7.symm.trans e) (by decide))).trans ?_
  refine (if_pos f7).trans ?_
  rw [f1, f2, f3, f4, f5, f6]

theorem vsra (d : Ent) (a : Ent) (b : Ent) (x : Bit) (y : Bit) (m : MaskNo) : Statement (.vsra d a b x y m) := by
  intro wd e hw
  obtain ⟨f0, f1, f2, f3, f4, f5, f6, f7⟩ := cat_6_6_6_6_1_1_3_3 0x22#6 d a b x y m 6#3 (Option.some.inj e)
  refine decode_of ((layout_22 (congrArg BitVec.toNat f0)).trans ?_) hw
  refine (if_neg (fun e => absurd (f7.symm.trans e) (by decide))).trans ?_
  refine (if_neg (fun e => absurd (f7.symm.trans e) (by decide))).trans ?_
  refine (if_neg (fun e => absurd (f7.symm.trans e) (by decide))).trans ?_
  refine (if_neg (fun h => (fun e => absurd (f7.symm.trans e) (by decide)) h.2.2)).trans ?_
  refine (if_neg (fun e => absurd (f7.symm.trans e) (by decide))).trans ?_
  refine (if_neg (fun e => absurd (f7.symm.trans e) (by decide))).trans ?_
  refine (if_pos f7).trans ?_
  rw [f1, f2, f3, f4, f5, f6]

theorem vcmpEq (d : MaskNo) (a : Ent) (b : Ent) (x : Bit) (y : Bit) (m : MaskNo) : Statement (.vcmpEq d a b x y m) := by
  intro wd e hw
  obtain ⟨f0, f1, f2, f3, f4, f5, f6, f7⟩ := cat_9_3_6_6_1_1_3_3 0x118#9 d a b x y m 0#3 (Option.some.inj e)
  refine decode_of ((layout_23 (congrArg BitVec.toNat (field_sub f0 3 6 (by decide)))).trans ?_) hw
  refine (if_pos ⟨(field_sub f0 0 3 (by decide)), f7⟩).trans ?_
  rw [f1, f2, f3, f4, f5, f6]

theorem vcmpNe (d : MaskNo) (a : Ent) (b : Ent) (x : Bit) (y : Bit) (m : MaskNo) : Statement (.vcmpNe d a b x y m) := by
  intro wd e hw
  obtain ⟨f0, f1, f2, f3, f4, f5, f6, f7⟩ := cat_9_3_6_6_1_1_3_3 0x118#9 d a b x y m 1#3 (Option.some.inj e)
  refine decode_of ((layout_23 (congrArg BitVec.toNat (field_sub f0 3 6 (by decide)))).trans ?_) hw
  refine (if_neg (fun h => (fun e => absurd (f7.symm.trans e) (by decide)) h.2)).trans ?_
  refine (if_pos ⟨(field_sub f0 0 3 (by decide)), f7⟩).trans ?_
  rw [f1, f2, f3, f4, f5, f6]

theorem vcmpLt (d : MaskNo) (a : Ent) (b : Ent) (x : Bit) (y : Bit) (m : MaskNo) : Statement (.vcmpLt d a b x y m) := by
  intro wd e hw
  obtain ⟨f0, f1, f2, f3, f4, f5, f6, f7⟩ := cat_9_3_6_6_1_1_3_3 0x118#9 d a b x y m 2#3 (Option.some.inj e)
  refine decode_of ((layout_23 (congrArg BitVec.toNat (field_sub f0 3 6 (by decide)))).trans ?_) hw
  refine (if_neg (fun h => (fun e => absurd (f7.symm.trans e) (by decide)) h.2)).trans ?_
  refine (if_neg (fun h => (fun e => absurd (f7.symm.trans e) (by decide)) h.2)).trans ?_
  refine (if_pos ⟨(field_sub f0 0 3 (by decide)), f7⟩).trans ?_
  rw [f1, f2, f3, f4, f5, f6]

theorem vcmpLe (d : MaskNo) (a : Ent) (b : Ent) (x : Bit) (y : Bit) (m : MaskNo) : Statement (.vcmpLe d a b x y m) := by
  intro wd e hw
  obtain ⟨f0, f1, f2, f3, f4, f5, f6, f7⟩ := cat_9_3_6_6_1_1_3_3 0x118#9 d a b x y m 3#3 (Option.some.inj e)
  refine decode_of ((layout_23 (congrArg BitVec.toNat (field_sub f0 3 6 (by decide)))).trans ?_) hw
  refine (if_neg (fun h => (fun e => absurd (f7.symm.trans e) (by decide)) h.2)).trans ?_
  refine (if_neg (fun h => (fun e => absurd (f7.symm.trans e) (by decide)) h.2)).trans ?_
  refine (if_neg (fun h => (fun e => absurd (f7.symm.trans e) (by decide)) h.2)).trans ?_
  refine (if_pos ⟨(field_sub f0 0 3 (by decide)), f7⟩).trans ?_
  rw [f1, f2, f3, f4, f5, f6]

theorem vcmpUn (d : MaskNo) (a : Ent) (b : Ent) (x : Bit) (y : Bit) (m : MaskNo) : Statement (.vcmpUn d a b x y m) := by
  intro wd e hw
  obtain ⟨f0, f1, f2, f3, f4, f5, f6, f7⟩ := cat_9_3_6_6_1_1_3_3 0x118#9 d a b x y m 4#3 (Option.some.inj e)
  refine decode_of ((layout_23 (congrArg BitVec.toNat (field_sub f0 3 6 (by decide)))).trans ?_) hw
  refine (if_neg (fun h => (fun e => absurd (f7.symm.trans e) (by decide)) h.2)).trans ?_
  refine (if_neg (fun h => (fun e => absurd (f7.symm.trans e) (by decide)) h.2)).trans ?_
  refine (if_neg (fun h => (fun e => absurd (f7.symm.trans e) (by decide)) h.2)).trans ?_
  refine (if_neg (fun h => (fun e => absurd (f7.symm.trans e) (by decide)) h.2)).trans ?_
  refine (if_pos ⟨(field_sub f0 0 3 (by decide)), f7⟩).trans ?_
  rw [f1, f2, f3, f4, f5, f6]

theorem vsel (d : Ent) (a : Ent) (b : Ent) (x : Bit) (y : Bit) (m : MaskNo) : Statement (.vsel d a b x y m) := by
  intro wd e hw
  obtain ⟨f0, f1, f2, f3, f4, f5, f6, f7⟩ := cat_6_6_6_6_1_1_3_3 0x23#6 d a b x y m 5#3 (Option.some.inj e)
  refine decode_of ((layout_23 (congrArg BitVec.toNat f0)).trans ?_) hw
  refine (if_neg (fun h => (fun e => absurd (f7.symm.trans e) (by decide)) h.2)).trans ?_
  refine (if_neg (fun h => (fun e => absurd (f7.symm.trans e) (by decide)) h.2)).trans ?_
  refine (if_neg (fun h => (fun e => absurd (f7.symm.trans e) (by decide)) h.2)).trans ?_
  refine (if_neg (fun h => (fun e => absurd (f7.symm.trans e) (by decide)) h.2)).trans ?_
  refine (if_neg (fun h => (fun e => absurd (f7.symm.trans e) (by decide)) h.2)).trans ?_
  refine (if_pos f7).trans ?_
  rw [f1, f2, f3, f4, f5, f6]

theorem vmov (d : Ent) (a : Ent) (x : Bit) (m : MaskNo) : Statement (.vmov d a x m) := by
  intro wd e hw
  obtain ⟨f0, f1, f2, f3, f4, f5, f6, f7⟩ := cat_6_6_6_6_1_1_3_3 0x23#6 d a 0#6 x 0#1 m 6#3 (Option.some.inj e)
  refine decode_of ((layout_23 (congrArg BitVec.toNat f0)).trans ?_) hw
  refine (if_neg (fun h => (fun e => absurd (f7.symm.trans e) (by decide)) h.2)).trans ?_
  refine (if_neg (fun h => (fun e => absurd (f7.symm.trans e) (by decide)) h.2)).trans ?_
  refine (if_neg (fun h => (fun e => absurd (f7.symm.trans e) (by decide)) h.2)).trans ?_
  refine (if_neg (fun h => (fun e => absurd (f7.symm.trans e) (by decide)) h.2)).trans ?_
  refine (if_neg (fun h => (fun e => absurd (f7.symm.trans e) (by decide)) h.2)).trans ?_
  refine (if_neg (fun e => absurd (f7.symm.trans e) (by decide))).trans ?_
  refine (if_pos ⟨f3, f5, f7⟩).trans ?_
  rw [f1, f2, f4, f6]

theorem vidx (d : Ent) (m : MaskNo) : Statement (.vidx d m) := by
  intro wd e hw
  obtain ⟨f0, f1, f2, f3, f4⟩ := cat_6_6_14_3_3 0x23#6 d 0#14 m 7#3 (Option.some.inj e)
  refine decode_of ((layout_23 (congrArg BitVec.toNat f0)).trans ?_) hw
  refine (if_neg (fun h => (fun e => absurd (f4.symm.trans e) (by decide)) h.2)).trans ?_
  refine (if_neg (fun h => (fun e => absurd (f4.symm.trans e) (by decide)) h.2)).trans ?_
  refine (if_neg (fun h => (fun e => absurd (f4.symm.trans e) (by decide)) h.2)).trans ?_
  refine (if_neg (fun h => (fun e => absurd (f4.symm.trans e) (by decide)) h.2)).trans ?_
  refine (if_neg (fun h => (fun e => absurd (f4.symm.trans e) (by decide)) h.2)).trans ?_
  refine (if_neg (fun e => absurd (f4.symm.trans e) (by decide))).trans ?_
  refine (if_neg (fun h => (fun e => absurd (f4.symm.trans e) (by decide)) h.2.2)).trans ?_
  refine (if_pos ⟨f2, f4⟩).trans ?_
  rw [f1, f3]

theorem vcvtRm (d : Ent) (a : Ent) (x : Bit) (m : MaskNo) (r : BitVec 3) : Statement (.vcvtRm d a x m r) := by
  intro wd e hw
  obtain ⟨f0, f1, f2, f3, f4, f5, f6, f7⟩ := cat_6_6_6_6_1_1_3_3 0x24#6 d a 0#6 x 0#1 m r (Option.some.inj e)
  refine decode_of ((layout_24 (congrArg BitVec.toNat f0)).trans ?_) hw
  refine (if_neg (fun h => (fun e => by have h := f7.symm.trans e; have g : r = 6#3 := h; subst g; exact Bool.false_ne_true hw) h.2.2)).trans ?_
  refine (if_pos ⟨f3, f5⟩).trans ?_
  rw [f1, f2, f4, f6, f7]

theorem vcvt (d : Ent) (a : Ent) (x : Bit) (m : MaskNo) : Statement (.vcvt d a x m) := by
  intro wd e hw
  obtain ⟨f0, f1, f2, f3, f4, f5, f6, f7⟩ := cat_6_6_6_6_1_1_3_3 0x24#6 d a 0#6 x 0#1 m 6#3 (Option.some.inj e)
  refine decode_of ((layout_24 (congrArg BitVec.toNat f0)).trans ?_) hw
  refine (if_pos ⟨f3, f5, f7⟩).trans ?_
  rw [f1, f2, f4, f6]

theorem vrsum (d : Ent) (a : Ent) (x : Bit) (m : MaskNo) : Statement (.vrsum d a x m) := by
  intro wd e hw
  obtain ⟨f0, f1, f2, f3, f4, f5, f6, f7⟩ := cat_6_6_6_6_1_1_3_3 0x25#6 d a 0#6 x 0#1 m 0#3 (Option.some.inj e)
  refine decode_of ((layout_25 (congrArg BitVec.toNat f0)).trans ?_) hw
  refine (if_pos ⟨f3, f5, f7⟩).trans ?_
  rw [f1, f2, f4, f6]

theorem vrmax (d : Ent) (a : Ent) (x : Bit) (m : MaskNo) : Statement (.vrmax d a x m) := by
  intro wd e hw
  obtain ⟨f0, f1, f2, f3, f4, f5, f6, f7⟩ := cat_6_6_6_6_1_1_3_3 0x25#6 d a 0#6 x 0#1 m 1#3 (Option.some.inj e)
  refine decode_of ((layout_25 (congrArg BitVec.toNat f0)).trans ?_) hw
  refine (if_neg (fun h => (fun e => absurd (f7.symm.trans e) (by decide)) h.2.2)).trans ?_
  refine (if_pos ⟨f3, f5, f7⟩).trans ?_
  rw [f1, f2, f4, f6]

theorem vrmin (d : Ent) (a : Ent) (x : Bit) (m : MaskNo) : Statement (.vrmin d a x m) := by
  intro wd e hw
  obtain ⟨f0, f1, f2, f3, f4, f5, f6, f7⟩ := cat_6_6_6_6_1_1_3_3 0x25#6 d a 0#6 x 0#1 m 2#3 (Option.some.inj e)
  refine decode_of ((layout_25 (congrArg BitVec.toNat f0)).trans ?_) hw
  refine (if_neg (fun h => (fun e => absurd (f7.symm.trans e) (by decide)) h.2.2)).trans ?_
  refine (if_neg (fun h => (fun e => absurd (f7.symm.trans e) (by decide)) h.2.2)).trans ?_
  refine (if_pos ⟨f3, f5, f7⟩).trans ?_
  rw [f1, f2, f4, f6]

theorem vscan (d : Ent) (a : Ent) (x : Bit) (m : MaskNo) : Statement (.vscan d a x m) := by
  intro wd e hw
  obtain ⟨f0, f1, f2, f3, f4, f5, f6, f7⟩ := cat_6_6_6_6_1_1_3_3 0x25#6 d a 0#6 x 0#1 m 3#3 (Option.some.inj e)
  refine decode_of ((layout_25 (congrArg BitVec.toNat f0)).trans ?_) hw
  refine (if_neg (fun h => (fun e => absurd (f7.symm.trans e) (by decide)) h.2.2)).trans ?_
  refine (if_neg (fun h => (fun e => absurd (f7.symm.trans e) (by decide)) h.2.2)).trans ?_
  refine (if_neg (fun h => (fun e => absurd (f7.symm.trans e) (by decide)) h.2.2)).trans ?_
  refine (if_pos ⟨f3, f5, f7⟩).trans ?_
  rw [f1, f2, f4, f6]

theorem vrsumSeg (d : Ent) (a : Ent) (x : Bit) (m : MaskNo) : Statement (.vrsumSeg d a x m) := by
  intro wd e hw
  obtain ⟨f0, f1, f2, f3, f4, f5, f6, f7⟩ := cat_6_6_6_6_1_1_3_3 0x25#6 d a 0#6 x 0#1 m 4#3 (Option.some.inj e)
  refine decode_of ((layout_25 (congrArg BitVec.toNat f0)).trans ?_) hw
  refine (if_neg (fun h => (fun e => absurd (f7.symm.trans e) (by decide)) h.2.2)).trans ?_
  refine (if_neg (fun h => (fun e => absurd (f7.symm.trans e) (by decide)) h.2.2)).trans ?_
  refine (if_neg (fun h => (fun e => absurd (f7.symm.trans e) (by decide)) h.2.2)).trans ?_
  refine (if_neg (fun h => (fun e => absurd (f7.symm.trans e) (by decide)) h.2.2)).trans ?_
  refine (if_pos ⟨f3, f5, f7⟩).trans ?_
  rw [f1, f2, f4, f6]

theorem vrmaxSeg (d : Ent) (a : Ent) (x : Bit) (m : MaskNo) : Statement (.vrmaxSeg d a x m) := by
  intro wd e hw
  obtain ⟨f0, f1, f2, f3, f4, f5, f6, f7⟩ := cat_6_6_6_6_1_1_3_3 0x25#6 d a 0#6 x 0#1 m 5#3 (Option.some.inj e)
  refine decode_of ((layout_25 (congrArg BitVec.toNat f0)).trans ?_) hw
  refine (if_neg (fun h => (fun e => absurd (f7.symm.trans e) (by decide)) h.2.2)).trans ?_
  refine (if_neg (fun h => (fun e => absurd (f7.symm.trans e) (by decide)) h.2.2)).trans ?_
  refine (if_neg (fun h => (fun e => absurd (f7.symm.trans e) (by decide)) h.2.2)).trans ?_
  refine (if_neg (fun h => (fun e => absurd (f7.symm.trans e) (by decide)) h.2.2)).trans ?_
  refine (if_neg (fun h => (fun e => absurd (f7.symm.trans e) (by decide)) h.2.2)).trans ?_
  refine (if_pos ⟨f3, f5, f7⟩).trans ?_
  rw [f1, f2, f4, f6]

theorem vrminSeg (d : Ent) (a : Ent) (x : Bit) (m : MaskNo) : Statement (.vrminSeg d a x m) := by
  intro wd e hw
  obtain ⟨f0, f1, f2, f3, f4, f5, f6, f7⟩ := cat_6_6_6_6_1_1_3_3 0x25#6 d a 0#6 x 0#1 m 6#3 (Option.some.inj e)
  refine decode_of ((layout_25 (congrArg BitVec.toNat f0)).trans ?_) hw
  refine (if_neg (fun h => (fun e => absurd (f7.symm.trans e) (by decide)) h.2.2)).trans ?_
  refine (if_neg (fun h => (fun e => absurd (f7.symm.trans e) (by decide)) h.2.2)).trans ?_
  refine (if_neg (fun h => (fun e => absurd (f7.symm.trans e) (by decide)) h.2.2)).trans ?_
  refine (if_neg (fun h => (fun e => absurd (f7.symm.trans e) (by decide)) h.2.2)).trans ?_
  refine (if_neg (fun h => (fun e => absurd (f7.symm.trans e) (by decide)) h.2.2)).trans ?_
  refine (if_neg (fun h => (fun e => absurd (f7.symm.trans e) (by decide)) h.2.2)).trans ?_
  refine (if_pos ⟨f3, f5, f7⟩).trans ?_
  rw [f1, f2, f4, f6]

theorem vscanSeg (d : Ent) (a : Ent) (x : Bit) (m : MaskNo) : Statement (.vscanSeg d a x m) := by
  intro wd e hw
  obtain ⟨f0, f1, f2, f3, f4, f5, f6, f7⟩ := cat_6_6_6_6_1_1_3_3 0x25#6 d a 0#6 x 0#1 m 7#3 (Option.some.inj e)
  refine decode_of ((layout_25 (congrArg BitVec.toNat f0)).trans ?_) hw
  refine (if_neg (fun h => (fun e => absurd (f7.symm.trans e) (by decide)) h.2.2)).trans ?_
  refine (if_neg (fun h => (fun e => absurd (f7.symm.trans e) (by decide)) h.2.2)).trans ?_
  refine (if_neg (fun h => (fun e => absurd (f7.symm.trans e) (by decide)) h.2.2)).trans ?_
  refine (if_neg (fun h => (fun e => absurd (f7.symm.trans e) (by decide)) h.2.2)).trans ?_
  refine (if_neg (fun h => (fun e => absurd (f7.symm.trans e) (by decide)) h.2.2)).trans ?_
  refine (if_neg (fun h => (fun e => absurd (f7.symm.trans e) (by decide)) h.2.2)).trans ?_
  refine (if_neg (fun h => (fun e => absurd (f7.symm.trans e) (by decide)) h.2.2)).trans ?_
  refine (if_pos ⟨f3, f5, f7⟩).trans ?_
  rw [f1, f2, f4, f6]

theorem vperm (d : Ent) (a : Ent) (b : Ent) (x : Bit) (y : Bit) (m : MaskNo) : Statement (.vperm d a b x y m) := by
  intro wd e hw
  obtain ⟨f0, f1, f2, f3, f4, f5, f6, f7⟩ := cat_6_6_6_6_1_1_3_3 0x26#6 d a b x y m 0#3 (Option.some.inj e)
  refine decode_of ((layout_26 (congrArg BitVec.toNat f0)).trans ?_) hw
  refine (if_pos f7).trans ?_
  rw [f1, f2, f3, f4, f5, f6]

theorem vcompr (d : Ent) (a : Ent) (x : Bit) (m : MaskNo) : Statement (.vcompr d a x m) := by
  intro wd e hw
  obtain ⟨f0, f1, f2, f3, f4, f5, f6, f7⟩ := cat_6_6_6_6_1_1_3_3 0x26#6 d a 0#6 x 0#1 m 1#3 (Option.some.inj e)
  refine decode_of ((layout_26 (congrArg BitVec.toNat f0)).trans ?_) hw
  refine (if_neg (fun e => absurd (f7.symm.trans e) (by decide))).trans ?_
  refine (if_pos ⟨f3, f5, f7⟩).trans ?_
  rw [f1, f2, f4, f6]

theorem vexpnd (d : Ent) (a : Ent) (x : Bit) (m : MaskNo) : Statement (.vexpnd d a x m) := by
  intro wd e hw
  obtain ⟨f0, f1, f2, f3, f4, f5, f6, f7⟩ := cat_6_6_6_6_1_1_3_3 0x26#6 d a 0#6 x 0#1 m 2#3 (Option.some.inj e)
  refine decode_of ((layout_26 (congrArg BitVec.toNat f0)).trans ?_) hw
  refine (if_neg (fun e => absurd (f7.symm.trans e) (by decide))).trans ?_
  refine (if_neg (fun h => (fun e => absurd (f7.symm.trans e) (by decide)) h.2.2)).trans ?_
  refine (if_pos ⟨f3, f5, f7⟩).trans ?_
  rw [f1, f2, f4, f6]

theorem vnmsel (d : Ent) (a : Ent) (b : Ent) (x : Bit) : Statement (.vnmsel d a b x) := by
  intro wd e hw
  obtain ⟨f0, f1, f2, f3, f4, f5⟩ := cat_6_6_6_6_1_7 0x26#6 d a b x 3#7 (Option.some.inj e)
  refine decode_of ((layout_26 (congrArg BitVec.toNat f0)).trans ?_) hw
  refine (if_neg (field_clash f5 0 0 3 (by decide) (by decide) rfl (by decide))).trans ?_
  refine (if_neg (fun h => (field_clash f5 0 0 3 (by decide) (by decide) rfl (by decide)) h.2.2)).trans ?_
  refine (if_neg (fun h => (field_clash f5 0 0 3 (by decide) (by decide) rfl (by decide)) h.2.2)).trans ?_
  refine (if_pos f5).trans ?_
  rw [f1, f2, f3, f4]

theorem vqnt (d : Ent) (a : Ent) (b : Ent) (x : Bit) : Statement (.vqnt d a b x) := by
  intro wd e hw
  obtain ⟨f0, f1, f2, f3, f4, f5⟩ := cat_6_6_6_6_1_7 0x27#6 d a b x 0#7 (Option.some.inj e)
  refine decode_of ((layout_27 (congrArg BitVec.toNat f0)).trans ?_) hw
  refine (if_pos f5).trans ?_
  rw [f1, f2, f3, f4]

theorem vdqnt (d : Ent) (a : Ent) (b : Ent) (x : Bit) (y : Bit) : Statement (.vdqnt d a b x y) := by
  intro wd e hw
  obtain ⟨f0, f1, f2, f3, f4, f5, f6⟩ := cat_6_6_6_6_1_1_6 0x27#6 d a b x y 1#6 (Option.some.inj e)
  refine decode_of ((layout_27 (congrArg BitVec.toNat f0)).trans ?_) hw
  refine (if_neg (field_clash f6 0 0 6 (by decide) (by decide) rfl (by decide))).trans ?_
  refine (if_pos f6).trans ?_
  rw [f1, f2, f3, f4, f5]

theorem vhad (d : Ent) (a : Ent) (k : BitVec 6) (x : Bit) : Statement (.vhad d a k x) := by
  intro wd e hw
  obtain ⟨f0, f1, f2, f3, f4, f5⟩ := cat_6_6_6_6_1_7 0x27#6 d a k x 2#7 (Option.some.inj e)
  refine decode_of ((layout_27 (congrArg BitVec.toNat f0)).trans ?_) hw
  refine (if_neg (fun e => absurd (f5.symm.trans e) (by decide))).trans ?_
  refine (if_neg (field_clash f5 0 0 6 (by decide) (by decide) rfl (by decide))).trans ?_
  refine (if_pos f5).trans ?_
  rw [f1, f2, f3, f4]

theorem vhadC (a : Ent) (k : BitVec 6) (x : Bit) : Statement (.vhadC a k x) := by
  intro wd e hw
  obtain ⟨f0, f1, f2, f3, f4⟩ := cat_12_6_6_1_7 0x9ff#12 a k x 3#7 (Option.some.inj e)
  refine decode_of ((layout_27 (congrArg BitVec.toNat (field_sub f0 6 6 (by decide)))).trans ?_) hw
  refine (if_neg (fun e => absurd (f4.symm.trans e) (by decide))).trans ?_
  refine (if_neg (field_clash f4 0 0 6 (by decide) (by decide) rfl (by decide))).trans ?_
  refine (if_neg (fun e => absurd (f4.symm.trans e) (by decide))).trans ?_
  refine (if_pos ⟨(field_sub f0 0 6 (by decide)), f4⟩).trans ?_
  rw [f1, f2, f3]

theorem cpix (d : Ent) (a : Ent) (b : Reg) (m : MaskNo) (t : BitVec 6) : Statement (.cpix d a b m t) := by
  intro wd e hw
  obtain ⟨f0, f1, f2, f3, f4, f5⟩ := cat_6_6_6_5_3_6 0x28#6 d a b m t (Option.some.inj e)
  refine decode_of ((layout_28 (congrArg BitVec.toNat f0)).trans ?_) hw
  rw [f1, f2, f3, f4, f5]

theorem vaddSat (d : Ent) (a : Ent) (b : Ent) (x : Bit) (y : Bit) (m : MaskNo) : Statement (.vaddSat d a b x y m) := by
  intro wd e hw
  obtain ⟨f0, f1, f2, f3, f4, f5, f6, f7⟩ := cat_6_6_6_6_1_1_3_3 0x29#6 d a b x y m 0#3 (Option.some.inj e)
  refine decode_of ((layout_29 (congrArg BitVec.toNat f0)).trans ?_) hw
  refine (if_pos f7).trans ?_
  rw [f1, f2, f3, f4, f5, f6]

theorem vsubSat (d : Ent) (a : Ent) (b : Ent) (x : Bit) (y : Bit) (m : MaskNo) : Statement (.vsubSat d a b x y m) := by
  intro wd e hw
  obtain ⟨f0, f1, f2, f3, f4, f5, f6, f7⟩ := cat_6_6_6_6_1_1_3_3 0x29#6 d a b x y m 1#3 (Option.some.inj e)
  refine decode_of ((layout_29 (congrArg BitVec.toNat f0)).trans ?_) hw
  refine (if_neg (fun e => absurd (f7.symm.trans e) (by decide))).trans ?_
  refine (if_pos f7).trans ?_
  rw [f1, f2, f3, f4, f5, f6]

theorem vmulSat (d : Ent) (a : Ent) (b : Ent) (x : Bit) (y : Bit) (m : MaskNo) : Statement (.vmulSat d a b x y m) := by
  intro wd e hw
  obtain ⟨f0, f1, f2, f3, f4, f5, f6, f7⟩ := cat_6_6_6_6_1_1_3_3 0x29#6 d a b x y m 2#3 (Option.some.inj e)
  refine decode_of ((layout_29 (congrArg BitVec.toNat f0)).trans ?_) hw
  refine (if_neg (fun e => absurd (f7.symm.trans e) (by decide))).trans ?_
  refine (if_neg (fun e => absurd (f7.symm.trans e) (by decide))).trans ?_
  refine (if_pos f7).trans ?_
  rw [f1, f2, f3, f4, f5, f6]

theorem vshlSat (d : Ent) (a : Ent) (b : Ent) (x : Bit) (y : Bit) (m : MaskNo) : Statement (.vshlSat d a b x y m) := by
  intro wd e hw
  obtain ⟨f0, f1, f2, f3, f4, f5, f6, f7⟩ := cat_6_6_6_6_1_1_3_3 0x29#6 d a b x y m 3#3 (Option.some.inj e)
  refine decode_of ((layout_29 (congrArg BitVec.toNat f0)).trans ?_) hw
  refine (if_neg (fun e => absurd (f7.symm.trans e) (by decide))).trans ?_
  refine (if_neg (fun e => absurd (f7.symm.trans e) (by decide))).trans ?_
  refine (if_neg (fun e => absurd (f7.symm.trans e) (by decide))).trans ?_
  refine (if_pos f7).trans ?_
  rw [f1, f2, f3, f4, f5, f6]

theorem vaddS (d : Ent) (a : Ent) (b : Reg) (x : Bit) (m : MaskNo) : Statement (.vaddS d a b x m) := by
  intro wd e hw
  obtain ⟨f0, f1, f2, f3, f4, f5, f6, f7⟩ := cat_6_6_6_5_1_2_3_3 0x2c#6 d a b x 0#2 m 0#3 (Option.some.inj e)
  refine decode_of ((layout_2C (congrArg BitVec.toNat f0)).trans ?_) hw
  refine (if_pos ⟨f5, f7⟩).trans ?_
  rw [f1, f2, f3, f4, f6]

theorem vsubS (d : Ent) (a : Ent) (b : Reg) (x : Bit) (m : MaskNo) : Statement (.vsubS d a b x m) := by
  intro wd e hw
  obtain ⟨f0, f1, f2, f3, f4, f5, f6, f7⟩ := cat_6_6_6_5_1_2_3_3 0x2c#6 d a b x 0#2 m 1#3 (Option.some.inj e)
  refine decode_of ((layout_2C (congrArg BitVec.toNat f0)).trans ?_) hw
  refine (if_neg (fun h => (fun e => absurd (f7.symm.trans e) (by decide)) h.2)).trans ?_
  refine (if_pos ⟨f5, f7⟩).trans ?_
  rw [f1, f2, f3, f4, f6]

theorem vmulS (d : Ent) (a : Ent) (b : Reg) (x : Bit) (m : MaskNo) : Statement (.vmulS d a b x m) := by
  intro wd e hw
  obtain ⟨f0, f1, f2, f3, f4, f5, f6, f7⟩ := cat_6_6_6_5_1_2_3_3 0x2c#6 d a b x 0#2 m 2#3 (Option.some.inj e)
  refine decode_of ((layout_2C (congrArg BitVec.toNat f0)).trans ?_) hw
  refine (if_neg (fun h => (fun e => absurd (f7.symm.trans e) (by decide)) h.2)).trans ?_
  refine (if_neg (fun h => (fun e => absurd (f7.symm.trans e) (by decide)) h.2)).trans ?_
  refine (if_pos ⟨f5, f7⟩).trans ?_
  rw [f1, f2, f3, f4, f6]

theorem vminS (d : Ent) (a : Ent) (b : Reg) (x : Bit) (m : MaskNo) : Statement (.vminS d a b x m) := by
  intro wd e hw
  obtain ⟨f0, f1, f2, f3, f4, f5, f6, f7⟩ := cat_6_6_6_5_1_2_3_3 0x2c#6 d a b x 0#2 m 3#3 (Option.some.inj e)
  refine decode_of ((layout_2C (congrArg BitVec.toNat f0)).trans ?_) hw
  refine (if_neg (fun h => (fun e => absurd (f7.symm.trans e) (by decide)) h.2)).trans ?_
  refine (if_neg (fun h => (fun e => absurd (f7.symm.trans e) (by decide)) h.2)).trans ?_
  refine (if_neg (fun h => (fun e => absurd (f7.symm.trans e) (by decide)) h.2)).trans ?_
  refine (if_pos ⟨f5, f7⟩).trans ?_
  rw [f1, f2, f3, f4, f6]

theorem vmaxS (d : Ent) (a : Ent) (b : Reg) (x : Bit) (m : MaskNo) : Statement (.vmaxS d a b x m) := by
  intro wd e hw
  obtain ⟨f0, f1, f2, f3, f4, f5, f6, f7⟩ := cat_6_6_6_5_1_2_3_3 0x2c#6 d a b x 0#2 m 4#3 (Option.some.inj e)
  refine decode_of ((layout_2C (congrArg BitVec.toNat f0)).trans ?_) hw
  refine (if_neg (fun h => (fun e => absurd (f7.symm.trans e) (by decide)) h.2)).trans ?_
  refine (if_neg (fun h => (fun e => absurd (f7.symm.trans e) (by decide)) h.2)).trans ?_
  refine (if_neg (fun h => (fun e => absurd (f7.symm.trans e) (by decide)) h.2)).trans ?_
  refine (if_neg (fun h => (fun e => absurd (f7.symm.trans e) (by decide)) h.2)).trans ?_
  refine (if_pos ⟨f5, f7⟩).trans ?_
  rw [f1, f2, f3, f4, f6]

theorem vfmaS (d : Ent) (a : Ent) (b : Reg) (x : Bit) (m : MaskNo) : Statement (.vfmaS d a b x m) := by
  intro wd e hw
  obtain ⟨f0, f1, f2, f3, f4, f5, f6, f7⟩ := cat_6_6_6_5_1_2_3_3 0x2c#6 d a b x 0#2 m 5#3 (Option.some.inj e)
  refine decode_of ((layout_2C (congrArg BitVec.toNat f0)).trans ?_) hw
  refine (if_neg (fun h => (fun e => absurd (f7.symm.trans e) (by decide)) h.2)).trans ?_
  refine (if_neg (fun h => (fun e => absurd (f7.symm.trans e) (by decide)) h.2)).trans ?_
  refine (if_neg (fun h => (fun e => absurd (f7.symm.trans e) (by decide)) h.2)).trans ?_
  refine (if_neg (fun h => (fun e => absurd (f7.symm.trans e) (by decide)) h.2)).trans ?_
  refine (if_neg (fun h => (fun e => absurd (f7.symm.trans e) (by decide)) h.2)).trans ?_
  refine (if_pos ⟨f5, f7⟩).trans ?_
  rw [f1, f2, f3, f4, f6]

theorem vshlS (d : Ent) (a : Ent) (b : Reg) (x : Bit) (m : MaskNo) : Statement (.vshlS d a b x m) := by
  intro wd e hw
  obtain ⟨f0, f1, f2, f3, f4, f5, f6, f7⟩ := cat_6_6_6_5_1_2_3_3 0x2c#6 d a b x 0#2 m 6#3 (Option.some.inj e)
  refine decode_of ((layout_2C (congrArg BitVec.toNat f0)).trans ?_) hw
  refine (if_neg (fun h => (fun e => absurd (f7.symm.trans e) (by decide)) h.2)).trans ?_
  refine (if_neg (fun h => (fun e => absurd (f7.symm.trans e) (by decide)) h.2)).trans ?_
  refine (if_neg (fun h => (fun e => absurd (f7.symm.trans e) (by decide)) h.2)).trans ?_
  refine (if_neg (fun h => (fun e => absurd (f7.symm.trans e) (by decide)) h.2)).trans ?_
  refine (if_neg (fun h => (fun e => absurd (f7.symm.trans e) (by decide)) h.2)).trans ?_
  refine (if_neg (fun h => (fun e => absurd (f7.symm.trans e) (by decide)) h.2)).trans ?_
  refine (if_pos ⟨f5, f7⟩).trans ?_
  rw [f1, f2, f3, f4, f6]

theorem vshrS (d : Ent) (a : Ent) (b : Reg) (x : Bit) (m : MaskNo) : Statement (.vshrS d a b x m) := by
  intro wd e hw
  obtain ⟨f0, f1, f2, f3, f4, f5, f6, f7⟩ := cat_6_6_6_5_1_2_3_3 0x2c#6 d a b x 0#2 m 7#3 (Option.some.inj e)
  refine decode_of ((layout_2C (congrArg BitVec.toNat f0)).trans ?_) hw
  refine (if_neg (fun h => (fun e => absurd (f7.symm.trans e) (by decide)) h.2)).trans ?_
  refine (if_neg (fun h => (fun e => absurd (f7.symm.trans e) (by decide)) h.2)).trans ?_
  refine (if_neg (fun h => (fun e => absurd (f7.symm.trans e) (by decide)) h.2)).trans ?_
  refine (if_neg (fun h => (fun e => absurd (f7.symm.trans e) (by decide)) h.2)).trans ?_
  refine (if_neg (fun h => (fun e => absurd (f7.symm.trans e) (by decide)) h.2)).trans ?_
  refine (if_neg (fun h => (fun e => absurd (f7.symm.trans e) (by decide)) h.2)).trans ?_
  refine (if_neg (fun h => (fun e => absurd (f7.symm.trans e) (by decide)) h.2)).trans ?_
  refine (if_pos ⟨f5, f7⟩).trans ?_
  rw [f1, f2, f3, f4, f6]

theorem vbcast (d : Ent) (b : Reg) (m : MaskNo) : Statement (.vbcast d b m) := by
  intro wd e hw
  obtain ⟨f0, f1, f2, f3, f4, f5, f6⟩ := cat_6_6_6_5_3_3_3 0x2d#6 d 0#6 b 0#3 m 0#3 (Option.some.inj e)
  refine decode_of ((layout_2D (congrArg BitVec.toNat f0)).trans ?_) hw
  refine (if_pos ⟨f2, f4, f6⟩).trans ?_
  rw [f1, f3, f5]

theorem vextr (d : Reg) (a : Ent) (b : Reg) (x : Bit) : Statement (.vextr d a b x) := by
  intro wd e hw
  obtain ⟨f0, f1, f2, f3, f4, f5⟩ := cat_7_5_6_5_1_8 0x5a#7 d a b x 1#8 (Option.some.inj e)
  refine decode_of ((layout_2D (congrArg BitVec.toNat (field_sub f0 1 6 (by decide)))).trans ?_) hw
  refine (if_neg (fun h => (field_clash f5 0 0 3 (by decide) (by decide) rfl (by decide)) h.2.2)).trans ?_
  refine (if_pos ⟨(field_sub f0 0 1 (by decide)), f5⟩).trans ?_
  rw [f1, f2, f3, f4]

theorem vins (d : Ent) (a : Ent) (b : Reg) (x : Bit) (m : MaskNo) : Statement (.vins d a b x m) := by
  intro wd e hw
  obtain ⟨f0, f1, f2, f3, f4, f5, f6, f7⟩ := cat_6_6_6_5_1_2_3_3 0x2d#6 d a b x 0#2 m 2#3 (Option.some.inj e)
  refine decode_of ((layout_2D (congrArg BitVec.toNat f0)).trans ?_) hw
  refine (if_neg (fun h => (fun e => absurd (f7.symm.trans e) (by decide)) h.2.2)).trans ?_
  refine (if_neg (fun h => (field_clash f7 0 0 3 (by decide) (by decide) rfl (by decide)) h.2)).trans ?_
  refine (if_pos ⟨f5, f7⟩).trans ?_
  rw [f1, f2, f3, f4, f6]

theorem vslide (d : Ent) (a : Ent) (b : Reg) (x : Bit) (m : MaskNo) : Statement (.vslide d a b x m) := by
  intro wd e hw
  obtain ⟨f0, f1, f2, f3, f4, f5, f6, f7⟩ := cat_6_6_6_5_1_2_3_3 0x2d#6 d a b x 0#2 m 3#3 (Option.some.inj e)
  refine decode_of ((layout_2D (congrArg BitVec.toNat f0)).trans ?_) hw
  refine (if_neg (fun h => (fun e => absurd (f7.symm.trans e) (by decide)) h.2.2)).trans ?_
  refine (if_neg (fun h => (field_clash f7 0 0 3 (by decide) (by decide) rfl (by decide)) h.2)).trans ?_
  refine (if_neg (fun h => (fun e => absurd (f7.symm.trans e) (by decide)) h.2)).trans ?_
  refine (if_pos ⟨f5, f7⟩).trans ?_
  rw [f1, f2, f3, f4, f6]

theorem vappend (a : Ent) (b : Reg) (x : Bit) (m : MaskNo) : Statement (.vappend a b x m) := by
  intro wd e hw
  obtain ⟨f0, f1, f2, f3, f4, f5, f6⟩ := cat_12_6_5_1_2_3_3 0xb40#12 a b x 0#2 m 4#3 (Option.some.inj e)
  refine decode_of ((layout_2D (congrArg BitVec.toNat (field_sub f0 6 6 (by decide)))).trans ?_) hw
  refine (if_neg (fun h => (fun e => absurd (f6.symm.trans e) (by decide)) h.2.2)).trans ?_
  refine (if_neg (fun h => (field_clash f6 0 0 3 (by decide) (by decide) rfl (by decide)) h.2)).trans ?_
  refine (if_neg (fun h => (fun e => absurd (f6.symm.trans e) (by decide)) h.2)).trans ?_
  refine (if_neg (fun h => (fun e => absurd (f6.symm.trans e) (by decide)) h.2)).trans ?_
  refine (if_pos ⟨(field_sub f0 0 6 (by decide)), f4, f6⟩).trans ?_
  rw [f1, f2, f3, f5]

theorem vsraS (d : Ent) (a : Ent) (b : Reg) (x : Bit) (m : MaskNo) : Statement (.vsraS d a b x m) := by
  intro wd e hw
  obtain ⟨f0, f1, f2, f3, f4, f5, f6, f7⟩ := cat_6_6_6_5_1_2_3_3 0x2d#6 d a b x 0#2 m 5#3 (Option.some.inj e)
  refine decode_of ((layout_2D (congrArg BitVec.toNat f0)).trans ?_) hw
  refine (if_neg (fun h => (fun e => absurd (f7.symm.trans e) (by decide)) h.2.2)).trans ?_
  refine (if_neg (fun h => (field_clash f7 0 0 3 (by decide) (by decide) rfl (by decide)) h.2)).trans ?_
  refine (if_neg (fun h => (fun e => absurd (f7.symm.trans e) (by decide)) h.2)).trans ?_
  refine (if_neg (fun h => (fun e => absurd (f7.symm.trans e) (by decide)) h.2)).trans ?_
  refine (if_neg (fun h => (fun e => absurd (f7.symm.trans e) (by decide)) h.2.2)).trans ?_
  refine (if_pos ⟨f5, f7⟩).trans ?_
  rw [f1, f2, f3, f4, f6]

theorem vld (v : Ent) (b : Reg) (m : MaskNo) : Statement (.vld v b m) := by
  intro wd e hw
  obtain ⟨f0, f1, f2, f3, f4, f5⟩ := cat_6_6_5_9_3_3 0x30#6 v b 0#9 m 0#3 (Option.some.inj e)
  refine decode_of ((layout_30 (congrArg BitVec.toNat f0)).trans ?_) hw
  refine (if_pos ⟨f3, f5⟩).trans ?_
  rw [f1, f2, f4]

theorem vlds (v : Ent) (b : Reg) (s : Reg) (m : MaskNo) : Statement (.vlds v b s m) := by
  intro wd e hw
  obtain ⟨f0, f1, f2, f3, f4, f5, f6, f7⟩ := cat_6_6_5_1_5_3_3_3 0x30#6 v b 0#1 s 0#3 m 1#3 (Option.some.inj e)
  refine decode_of ((layout_30 (congrArg BitVec.toNat f0)).trans ?_) hw
  refine (if_neg (fun h => (fun e => absurd (f7.symm.trans e) (by decide)) h.2)).trans ?_
  refine (if_pos ⟨f3, f5, f7⟩).trans ?_
  rw [f1, f2, f4, f6]

theorem vldf (v : Ent) (b : Reg) (m : MaskNo) : Statement (.vldf v b m) := by
  intro wd e hw
  obtain ⟨f0, f1, f2, f3, f4, f5⟩ := cat_6_6_5_9_3_3 0x30#6 v b 0#9 m 2#3 (Option.some.inj e)
  refine decode_of ((layout_30 (congrArg BitVec.toNat f0)).trans ?_) hw
  refine (if_neg (fun h => (fun e => absurd (f5.symm.trans e) (by decide)) h.2)).trans ?_
  refine (if_neg (fun h => (fun e => absurd (f5.symm.trans e) (by decide)) h.2.2)).trans ?_
  refine (if_pos ⟨f3, f5⟩).trans ?_
  rw [f1, f2, f4]

theorem vst (v : Ent) (b : Reg) (m : MaskNo) : Statement (.vst v b m) := by
  intro wd e hw
  obtain ⟨f0, f1, f2, f3, f4, f5⟩ := cat_6_6_5_9_3_3 0x31#6 v b 0#9 m 0#3 (Option.some.inj e)
  refine decode_of ((layout_31 (congrArg BitVec.toNat f0)).trans ?_) hw
  refine (if_pos ⟨f3, f5⟩).trans ?_
  rw [f1, f2, f4]

theorem vsts (v : Ent) (b : Reg) (s : Reg) (m : MaskNo) : Statement (.vsts v b s m) := by
  intro wd e hw
  obtain ⟨f0, f1, f2, f3, f4, f5, f6, f7⟩ := cat_6_6_5_1_5_3_3_3 0x31#6 v b 0#1 s 0#3 m 1#3 (Option.some.inj e)
  refine decode_of ((layout_31 (congrArg BitVec.toNat f0)).trans ?_) hw
  refine (if_neg (fun h => (fun e => absurd (f7.symm.trans e) (by decide)) h.2)).trans ?_
  refine (if_pos ⟨f3, f5, f7⟩).trans ?_
  rw [f1, f2, f4, f6]

theorem vldx (v : Ent) (b : Reg) (i : Ent) (c : Bit) (o : BitVec 2) (m : MaskNo) : Statement (.vldx v b i c o m) := by
  intro wd e hw
  obtain ⟨f0, f1, f2, f3, f4, f5, f6, f7⟩ := cat_6_6_5_6_1_2_3_3 0x32#6 v b i c o m 0#3 (Option.some.inj e)
  refine decode_of ((layout_32 (congrArg BitVec.toNat f0)).trans ?_) hw
  refine (if_pos f7).trans ?_
  rw [f1, f2, f3, f4, f5, f6]

theorem vstxO (v : Ent) (b : Reg) (i : Ent) (c : Bit) (o : BitVec 2) (m : MaskNo) : Statement (.vstxO v b i c o m) := by
  intro wd e hw
  obtain ⟨f0, f1, f2, f3, f4, f5, f6, f7⟩ := cat_6_6_5_6_1_2_3_3 0x32#6 v b i c o m 1#3 (Option.some.inj e)
  refine decode_of ((layout_32 (congrArg BitVec.toNat f0)).trans ?_) hw
  refine (if_neg (fun e => absurd (f7.symm.trans e) (by decide))).trans ?_
  refine (if_pos f7).trans ?_
  rw [f1, f2, f3, f4, f5, f6]

theorem vstxU (v : Ent) (b : Reg) (i : Ent) (c : Bit) (o : BitVec 2) (m : MaskNo) : Statement (.vstxU v b i c o m) := by
  intro wd e hw
  obtain ⟨f0, f1, f2, f3, f4, f5, f6, f7⟩ := cat_6_6_5_6_1_2_3_3 0x32#6 v b i c o m 2#3 (Option.some.inj e)
  refine decode_of ((layout_32 (congrArg BitVec.toNat f0)).trans ?_) hw
  refine (if_neg (fun e => absurd (f7.symm.trans e) (by decide))).trans ?_
  refine (if_neg (fun e => absurd (f7.symm.trans e) (by decide))).trans ?_
  refine (if_pos f7).trans ?_
  rw [f1, f2, f3, f4, f5, f6]

theorem vld2 (v : Ent) (b : Reg) (s : Reg) (m : MaskNo) : Statement (.vld2 v b s m) := by
  intro wd e hw
  obtain ⟨f0, f1, f2, f3, f4, f5, f6, f7⟩ := cat_6_6_5_1_5_3_3_3 0x33#6 v b 0#1 s 0#3 m 0#3 (Option.some.inj e)
  refine decode_of ((layout_33 (congrArg BitVec.toNat f0)).trans ?_) hw
  refine (if_pos ⟨f3, f5, f7⟩).trans ?_
  rw [f1, f2, f4, f6]

theorem vst2 (v : Ent) (b : Reg) (s : Reg) (m : MaskNo) : Statement (.vst2 v b s m) := by
  intro wd e hw
  obtain ⟨f0, f1, f2, f3, f4, f5, f6, f7⟩ := cat_6_6_5_1_5_3_3_3 0x33#6 v b 0#1 s 0#3 m 1#3 (Option.some.inj e)
  refine decode_of ((layout_33 (congrArg BitVec.toNat f0)).trans ?_) hw
  refine (if_neg (fun h => (fun e => absurd (f7.symm.trans e) (by decide)) h.2.2)).trans ?_
  refine (if_pos ⟨f3, f5, f7⟩).trans ?_
  rw [f1, f2, f4, f6]

theorem mmr (a : Ent) (p : BitVec 9) (c : BitVec 2) (x : Bit) : Statement (.mmr a p c x) := by
  intro wd e hw
  obtain ⟨f0, f1, f2, f3, f4, f5, f6⟩ := cat_6_6_9_1_2_1_7 0x34#6 a p 0#1 c x 0#7 (Option.some.inj e)
  refine decode_of ((layout_34 (congrArg BitVec.toNat f0)).trans ?_) hw
  refine (if_pos ⟨f3, f6⟩).trans ?_
  rw [f1, f2, f4, f5]

theorem mmt (a : Ent) (p : BitVec 9) (c : BitVec 2) (x : Bit) : Statement (.mmt a p c x) := by
  intro wd e hw
  obtain ⟨f0, f1, f2, f3, f4, f5, f6⟩ := cat_6_6_9_1_2_1_7 0x34#6 a p 0#1 c x 1#7 (Option.some.inj e)
  refine decode_of ((layout_34 (congrArg BitVec.toNat f0)).trans ?_) hw
  refine (if_neg (fun h => (fun e => absurd (f6.symm.trans e) (by decide)) h.2)).trans ?_
  refine (if_pos ⟨f3, f6⟩).trans ?_
  rw [f1, f2, f4, f5]

theorem accrdRm (d : Ent) (p : BitVec 9) (r : BitVec 3) : Statement (.accrdRm d p r) := by
  intro wd e hw
  obtain ⟨f0, f1, f2, f3, f4⟩ := cat_6_6_9_3_8 0x34#6 d p r 2#8 (Option.some.inj e)
  refine decode_of ((layout_34 (congrArg BitVec.toNat f0)).trans ?_) hw
  refine (if_neg (fun h => (field_clash f4 0 0 7 (by decide) (by decide) rfl (by decide)) h.2)).trans ?_
  refine (if_neg (fun h => (field_clash f4 0 0 7 (by decide) (by decide) rfl (by decide)) h.2)).trans ?_
  refine (if_neg (fun e => by have h := f3.symm.trans (field_sub e 8 3 (by decide)); have g : r = 6#3 := h; subst g; exact Bool.false_ne_true hw)).trans ?_
  refine (if_neg (fun h => (field_clash f4 0 0 7 (by decide) (by decide) rfl (by decide)) h.2)).trans ?_
  refine (if_neg (fun h => (field_clash f4 0 0 7 (by decide) (by decide) rfl (by decide)) h.2)).trans ?_
  refine (if_neg (field_clash f4 0 0 8 (by decide) (by decide) rfl (by decide))).trans ?_
  refine (if_neg (field_clash f4 0 0 8 (by decide) (by decide) rfl (by decide))).trans ?_
  refine (if_neg (fun h => (field_clash f4 0 0 3 (by decide) (by decide) rfl (by decide)) h.2.2.2)).trans ?_
  refine (if_neg (field_clash f4 0 0 8 (by decide) (by decide) rfl (by decide))).trans ?_
  refine (if_neg (fun h => (field_clash f4 0 0 7 (by decide) (by decide) rfl (by decide)) h.2)).trans ?_
  refine (if_pos f4).trans ?_
  rw [f1, f2, f3]

theorem accrd (d : Ent) (p : BitVec 9) : Statement (.accrd d p) := by
  intro wd e hw
  obtain ⟨f0, f1, f2, f3⟩ := cat_6_6_9_11 0x34#6 d p 0x602#11 (Option.some.inj e)
  refine decode_of ((layout_34 (congrArg BitVec.toNat f0)).trans ?_) hw
  refine (if_neg (fun h => (field_clash f3 10 0 1 (by decide) (by decide) rfl (by decide)) h.1)).trans ?_
  refine (if_neg (fun h => (field_clash f3 10 0 1 (by decide) (by decide) rfl (by decide)) h.1)).trans ?_
  refine (if_pos f3).trans ?_
  rw [f1, f2]

theorem accwr (a : Ent) (p : BitVec 9) (x : Bit) : Statement (.accwr a p x) := by
  intro wd e hw
  obtain ⟨f0, f1, f2, f3, f4, f5⟩ := cat_6_6_9_3_1_7 0x34#6 a p 0#3 x 3#7 (Option.some.inj e)
  refine decode_of ((layout_34 (congrArg BitVec.toNat f0)).trans ?_) hw
  refine (if_neg (fun h => (fun e => absurd (f5.symm.trans e) (by decide)) h.2)).trans ?_
  refine (if_neg (fun h => (fun e => absurd (f5.symm.trans e) (by decide)) h.2)).trans ?_
  refine (if_neg (field_clash f3 0 8 3 (by decide) (by decide) rfl (by decide))).trans ?_
  refine (if_pos ⟨f3, f5⟩).trans ?_
  rw [f1, f2, f4]

theorem accwrA (a : Ent) (p : BitVec 9) (x : Bit) : Statement (.accwrA a p x) := by
  intro wd e hw
  obtain ⟨f0, f1, f2, f3, f4, f5⟩ := cat_6_6_9_3_1_7 0x34#6 a p 1#3 x 3#7 (Option.some.inj e)
  refine decode_of ((layout_34 (congrArg BitVec.toNat f0)).trans ?_) hw
  refine (if_neg (fun h => (fun e => absurd (f5.symm.trans e) (by decide)) h.2)).trans ?_
  refine (if_neg (fun h => (fun e => absurd (f5.symm.trans e) (by decide)) h.2)).trans ?_
  refine (if_neg (field_clash f3 0 8 3 (by decide) (by decide) rfl (by decide))).trans ?_
  refine (if_neg (fun h => (fun e => absurd (f3.symm.trans e) (by decide)) h.1)).trans ?_
  refine (if_pos ⟨f3, f5⟩).trans ?_
  rw [f1, f2, f4]

theorem accsc (n : BitVec 6) (p : BitVec 9) : Statement (.accsc n p) := by
  intro wd e hw
  obtain ⟨f0, f1, f2, f3⟩ := cat_6_6_9_11 0x34#6 n p 4#11 (Option.some.inj e)
  refine decode_of ((layout_34 (congrArg BitVec.toNat f0)).trans ?_) hw
  refine (if_neg (fun h => (field_clash f3 0 0 7 (by decide) (by decide) rfl (by decide)) h.2)).trans ?_
  refine (if_neg (fun h => (field_clash f3 0 0 7 (by decide) (by decide) rfl (by decide)) h.2)).trans ?_
  refine (if_neg (fun e => absurd (f3.symm.trans e) (by decide))).trans ?_
  refine (if_neg (fun h => (field_clash f3 0 0 7 (by decide) (by decide) rfl (by decide)) h.2)).trans ?_
  refine (if_neg (fun h => (field_clash f3 8 0 3 (by decide) (by decide) rfl (by decide)) h.1)).trans ?_
  refine (if_pos f3).trans ?_
  rw [f1, f2]

theorem accz (n : BitVec 6) (p : BitVec 9) : Statement (.accz n p) := by
  intro wd e hw
  obtain ⟨f0, f1, f2, f3⟩ := cat_6_6_9_11 0x34#6 n p 5#11 (Option.some.inj e)
  refine decode_of ((layout_34 (congrArg BitVec.toNat f0)).trans ?_) hw
  refine (if_neg (fun h => (field_clash f3 0 0 7 (by decide) (by decide) rfl (by decide)) h.2)).trans ?_
  refine (if_neg (fun h => (field_clash f3 0 0 7 (by decide) (by decide) rfl (by decide)) h.2)).trans ?_
  refine (if_neg (fun e => absurd (f3.symm.trans e) (by decide))).trans ?_
  refine (if_neg (fun h => (field_clash f3 0 0 7 (by decide) (by decide) rfl (by decide)) h.2)).trans ?_
  refine (if_neg (fun h => (field_clash f3 8 0 3 (by decide) (by decide) rfl (by decide)) h.1)).trans ?_
  refine (if_neg (fun e => absurd (f3.symm.trans e) (by decide))).trans ?_
  refine (if_pos f3).trans ?_
  rw [f1, f2]

theorem ldst (a : Reg) (b : Reg) (f : Bit) (g : BitVec 2) (t : BitVec 4) : Statement (.ldst a b f g t) := by
  intro wd e hw
  obtain ⟨f0, f1, f2, f3, f4, f5, f6, f7, f8⟩ := cat_7_5_5_4_1_2_1_4_3 0x68#7 a b 0#4 f g 0#1 t 6#3 (Option.some.inj e)
  refine decode_of ((layout_34 (congrArg BitVec.toNat (field_sub f0 1 6 (by decide)))).trans ?_) hw
  refine (if_neg (fun h => (field_clash f8 0 0 3 (by decide) (by decide) rfl (by decide)) h.2)).trans ?_
  refine (if_neg (fun h => (field_clash f8 0 0 3 (by decide) (by decide) rfl (by decide)) h.2)).trans ?_
  refine (if_neg (field_clash f8 0 0 3 (by decide) (by decide) rfl (by decide))).trans ?_
  refine (if_neg (fun h => (field_clash f8 0 0 3 (by decide) (by decide) rfl (by decide)) h.2)).trans ?_
  refine (if_neg (fun h => (field_clash f8 0 0 3 (by decide) (by decide) rfl (by decide)) h.2)).trans ?_
  refine (if_neg (field_clash f8 0 0 3 (by decide) (by decide) rfl (by decide))).trans ?_
  refine (if_neg (field_clash f8 0 0 3 (by decide) (by decide) rfl (by decide))).trans ?_
  refine (if_pos ⟨(field_sub f0 0 1 (by decide)), f3, f6, f8⟩).trans ?_
  rw [f1, f2, f4, f5, f7]

theorem swst : Statement .swst := by
  intro wd e _
  obtain rfl := Option.some.inj e
  rfl

theorem ldstp (a : Ent) (x : Bit) : Statement (.ldstp a x) := by
  intro wd e hw
  obtain ⟨f0, f1, f2, f3, f4⟩ := cat_6_6_12_1_7 0x34#6 a 1#12 x 7#7 (Option.some.inj e)
  refine decode_of ((layout_34 (congrArg BitVec.toNat f0)).trans ?_) hw
  refine (if_neg (fun h => (fun e => absurd (f4.symm.trans e) (by decide)) h.2)).trans ?_
  refine (if_neg (fun h => (fun e => absurd (f4.symm.trans e) (by decide)) h.2)).trans ?_
  refine (if_neg (field_clash f2 0 8 3 (by decide) (by decide) rfl (by decide))).trans ?_
  refine (if_neg (fun h => (field_clash f2 0 0 3 (by decide) (by decide) rfl (by decide)) h.1)).trans ?_
  refine (if_neg (fun h => (fun e => absurd (f4.symm.trans e) (by decide)) h.2)).trans ?_
  refine (if_neg (field_clash f2 0 8 3 (by decide) (by decide) rfl (by decide))).trans ?_
  refine (if_neg (field_clash f2 0 8 3 (by decide) (by decide) rfl (by decide))).trans ?_
  refine (if_neg (fun h => (field_clash f4 0 0 3 (by decide) (by decide) rfl (by decide)) h.2.2.2)).trans ?_
  refine (if_neg (field_clash f2 0 8 12 (by decide) (by decide) rfl (by decide))).trans ?_
  refine (if_pos ⟨f2, f4⟩).trans ?_
  rw [f1, f3]

theorem defr (d : Ent) (a : Reg) (b : Reg) : Statement (.defr d a b) := by
  intro wd e hw
  obtain ⟨f0, f1, f2, f3, f4⟩ := cat_6_6_5_5_10 0x35#6 d a b 0#10 (Option.some.inj e)
  refine decode_of ((layout_35 (congrArg BitVec.toNat f0)).trans ?_) hw
  refine (if_pos f4).trans ?_
  rw [f1, f2, f3]

theorem shrd (a : Ent) (g : Reg) (f : Reg) : Statement (.shrd a g f) := by
  intro wd e hw
  obtain ⟨f0, f1, f2, f3, f4⟩ := cat_6_6_5_5_10 0x35#6 a g f 1#10 (Option.some.inj e)
  refine decode_of ((layout_35 (congrArg BitVec.toNat f0)).trans ?_) hw
  refine (if_neg (fun e => absurd (f4.symm.trans e) (by decide))).trans ?_
  refine (if_pos f4).trans ?_
  rw [f1, f2, f3]

theorem layout (n : BitVec 6) (f : BitVec 5) : Statement (.layout n f) := by
  intro wd e hw
  obtain ⟨f0, f1, f2, f3, f4⟩ := cat_6_6_5_5_10 0x35#6 n 0#5 f 2#10 (Option.some.inj e)
  refine decode_of ((layout_35 (congrArg BitVec.toNat f0)).trans ?_) hw
  refine (if_neg (fun e => absurd (f4.symm.trans e) (by decide))).trans ?_
  refine (if_neg (fun e => absurd (f4.symm.trans e) (by decide))).trans ?_
  refine (if_pos ⟨f2, f4⟩).trans ?_
  rw [f1, f3]

theorem setvl (d : Reg) (a : Reg) : Statement (.setvl d a) := by
  intro wd e hw
  obtain ⟨f0, f1, f2, f3⟩ := cat_7_5_5_15 0x6a#7 d a 3#15 (Option.some.inj e)
  refine decode_of ((layout_35 (congrArg BitVec.toNat (field_sub f0 1 6 (by decide)))).trans ?_) hw
  refine (if_neg (field_clash f3 0 0 10 (by decide) (by decide) rfl (by decide))).trans ?_
  refine (if_neg (field_clash f3 0 0 10 (by decide) (by decide) rfl (by decide))).trans ?_
  refine (if_neg (fun h => (field_clash f3 0 0 10 (by decide) (by decide) rfl (by decide)) h.2)).trans ?_
  refine (if_pos ⟨(field_sub f0 0 1 (by decide)), f3⟩).trans ?_
  rw [f1, f2]

theorem pzero (d : Ent) : Statement (.pzero d) := by
  intro wd e hw
  obtain ⟨f0, f1, f2⟩ := cat_6_6_20 0x35#6 d 4#20 (Option.some.inj e)
  refine decode_of ((layout_35 (congrArg BitVec.toNat f0)).trans ?_) hw
  refine (if_neg (field_clash f2 0 0 10 (by decide) (by decide) rfl (by decide))).trans ?_
  refine (if_neg (field_clash f2 0 0 10 (by decide) (by decide) rfl (by decide))).trans ?_
  refine (if_neg (fun h => (field_clash f2 0 0 10 (by decide) (by decide) rfl (by decide)) h.2)).trans ?_
  refine (if_neg (fun h => (field_clash f2 0 0 15 (by decide) (by decide) rfl (by decide)) h.2)).trans ?_
  refine (if_pos f2).trans ?_
  rw [f1]

theorem repf (v : BitVec 6) (n : BitVec 5) (k : BitVec 5) (c : BitVec 7) : Statement (.repf v n k c) := by
  intro wd e hw
  obtain ⟨f0, f1, f2, f3, f4, f5⟩ := cat_6_6_5_5_7_3 0x35#6 v n k c 5#3 (Option.some.inj e)
  refine decode_of ((layout_35 (congrArg BitVec.toNat f0)).trans ?_) hw
  refine (if_neg (field_clash f5 0 0 3 (by decide) (by decide) rfl (by decide))).trans ?_
  refine (if_neg (field_clash f5 0 0 3 (by decide) (by decide) rfl (by decide))).trans ?_
  refine (if_neg (fun h => (field_clash f5 0 0 3 (by decide) (by decide) rfl (by decide)) h.2)).trans ?_
  refine (if_neg (fun h => (field_clash f5 0 0 3 (by decide) (by decide) rfl (by decide)) h.2)).trans ?_
  refine (if_neg (field_clash f5 0 0 3 (by decide) (by decide) rfl (by decide))).trans ?_
  refine (if_pos f5).trans ?_
  rw [f1, f2, f3, f4]

theorem mand (d : MaskNo) (a : MaskNo) (b : MaskNo) : Statement (.mand d a b) := by
  intro wd e hw
  obtain ⟨f0, f1, f2, f3, f4, f5, f6⟩ := cat_8_3_2_3_2_3_11 0xd8#8 d 0#2 a 0#2 b 0#11 (Option.some.inj e)
  refine decode_of ((layout_36 (congrArg BitVec.toNat (field_sub f0 2 6 (by decide)))).trans ?_) hw
  refine (if_pos ⟨(field_sub f0 0 2 (by decide)), f2, f4, f6⟩).trans ?_
  rw [f1, f3, f5]

theorem mor (d : MaskNo) (a : MaskNo) (b : MaskNo) : Statement (.mor d a b) := by
  intro wd e hw
  obtain ⟨f0, f1, f2, f3, f4, f5, f6⟩ := cat_8_3_2_3_2_3_11 0xd8#8 d 0#2 a 0#2 b 1#11 (Option.some.inj e)
  refine decode_of ((layout_36 (congrArg BitVec.toNat (field_sub f0 2 6 (by decide)))).trans ?_) hw
  refine (if_neg (fun h => (fun e => absurd (f6.symm.trans e) (by decide)) h.2.2.2)).trans ?_
  refine (if_pos ⟨(field_sub f0 0 2 (by decide)), f2, f4, f6⟩).trans ?_
  rw [f1, f3, f5]

theorem mxor (d : MaskNo) (a : MaskNo) (b : MaskNo) : Statement (.mxor d a b) := by
  intro wd e hw
  obtain ⟨f0, f1, f2, f3, f4, f5, f6⟩ := cat_8_3_2_3_2_3_11 0xd8#8 d 0#2 a 0#2 b 2#11 (Option.some.inj e)
  refine decode_of ((layout_36 (congrArg BitVec.toNat (field_sub f0 2 6 (by decide)))).trans ?_) hw
  refine (if_neg (fun h => (fun e => absurd (f6.symm.trans e) (by decide)) h.2.2.2)).trans ?_
  refine (if_neg (fun h => (fun e => absurd (f6.symm.trans e) (by decide)) h.2.2.2)).trans ?_
  refine (if_pos ⟨(field_sub f0 0 2 (by decide)), f2, f4, f6⟩).trans ?_
  rw [f1, f3, f5]

theorem mandn (d : MaskNo) (a : MaskNo) (b : MaskNo) : Statement (.mandn d a b) := by
  intro wd e hw
  obtain ⟨f0, f1, f2, f3, f4, f5, f6⟩ := cat_8_3_2_3_2_3_11 0xd8#8 d 0#2 a 0#2 b 3#11 (Option.some.inj e)
  refine decode_of ((layout_36 (congrArg BitVec.toNat (field_sub f0 2 6 (by decide)))).trans ?_) hw
  refine (if_neg (fun h => (fun e => absurd (f6.symm.trans e) (by decide)) h.2.2.2)).trans ?_
  refine (if_neg (fun h => (fun e => absurd (f6.symm.trans e) (by decide)) h.2.2.2)).trans ?_
  refine (if_neg (fun h => (fun e => absurd (f6.symm.trans e) (by decide)) h.2.2.2)).trans ?_
  refine (if_pos ⟨(field_sub f0 0 2 (by decide)), f2, f4, f6⟩).trans ?_
  rw [f1, f3, f5]

theorem mnot (d : MaskNo) (a : MaskNo) : Statement (.mnot d a) := by
  intro wd e hw
  obtain ⟨f0, f1, f2, f3, f4⟩ := cat_8_3_2_3_16 0xd8#8 d 0#2 a 4#16 (Option.some.inj e)
  refine decode_of ((layout_36 (congrArg BitVec.toNat (field_sub f0 2 6 (by decide)))).trans ?_) hw
  refine (if_neg (fun h => (field_clash f4 0 0 11 (by decide) (by decide) rfl (by decide)) h.2.2.2)).trans ?_
  refine (if_neg (fun h => (field_clash f4 0 0 11 (by decide) (by decide) rfl (by decide)) h.2.2.2)).trans ?_
  refine (if_neg (fun h => (field_clash f4 0 0 11 (by decide) (by decide) rfl (by decide)) h.2.2.2)).trans ?_
  refine (if_neg (fun h => (field_clash f4 0 0 11 (by decide) (by decide) rfl (by decide)) h.2.2.2)).trans ?_
  refine (if_pos ⟨(field_sub f0 0 2 (by decide)), f2, f4⟩).trans ?_
  rw [f1, f3]

theorem mpop (d : Reg) (a : MaskNo) : Statement (.mpop d a) := by
  intro wd e hw
  obtain ⟨f0, f1, f2, f3, f4⟩ := cat_6_5_2_3_16 0x36#6 d 0#2 a 5#16 (Option.some.inj e)
  refine decode_of ((layout_36 (congrArg BitVec.toNat f0)).trans ?_) hw
  refine (if_neg (fun h => (field_clash f4 0 0 11 (by decide) (by decide) rfl (by decide)) h.2.2.2)).trans ?_
  refine (if_neg (fun h => (field_clash f4 0 0 11 (by decide) (by decide) rfl (by decide)) h.2.2.2)).trans ?_
  refine (if_neg (fun h => (field_clash f4 0 0 11 (by decide) (by decide) rfl (by decide)) h.2.2.2)).trans ?_
  refine (if_neg (fun h => (field_clash f4 0 0 11 (by decide) (by decide) rfl (by decide)) h.2.2.2)).trans ?_
  refine (if_neg (fun h => (fun e => absurd (f4.symm.trans e) (by decide)) h.2.2)).trans ?_
  refine (if_pos ⟨f2, f4⟩).trans ?_
  rw [f1, f3]

theorem mfirst (d : Reg) (a : MaskNo) : Statement (.mfirst d a) := by
  intro wd e hw
  obtain ⟨f0, f1, f2, f3, f4⟩ := cat_6_5_2_3_16 0x36#6 d 0#2 a 6#16 (Option.some.inj e)
  refine decode_of ((layout_36 (congrArg BitVec.toNat f0)).trans ?_) hw
  refine (if_neg (fun h => (field_clash f4 0 0 11 (by decide) (by decide) rfl (by decide)) h.2.2.2)).trans ?_
  refine (if_neg (fun h => (field_clash f4 0 0 11 (by decide) (by decide) rfl (by decide)) h.2.2.2)).trans ?_
  refine (if_neg (fun h => (field_clash f4 0 0 11 (by decide) (by decide) rfl (by decide)) h.2.2.2)).trans ?_
  refine (if_neg (fun h => (field_clash f4 0 0 11 (by decide) (by decide) rfl (by decide)) h.2.2.2)).trans ?_
  refine (if_neg (fun h => (fun e => absurd (f4.symm.trans e) (by decide)) h.2.2)).trans ?_
  refine (if_neg (fun h => (fun e => absurd (f4.symm.trans e) (by decide)) h.2)).trans ?_
  refine (if_pos ⟨f2, f4⟩).trans ?_
  rw [f1, f3]

theorem msetn (d : MaskNo) (a : Reg) : Statement (.msetn d a) := by
  intro wd e hw
  obtain ⟨f0, f1, f2, f3⟩ := cat_8_3_5_16 0xd8#8 d a 7#16 (Option.some.inj e)
  refine decode_of ((layout_36 (congrArg BitVec.toNat (field_sub f0 2 6 (by decide)))).trans ?_) hw
  refine (if_neg (fun h => (field_clash f3 0 0 11 (by decide) (by decide) rfl (by decide)) h.2.2.2)).trans ?_
  refine (if_neg (fun h => (field_clash f3 0 0 11 (by decide) (by decide) rfl (by decide)) h.2.2.2)).trans ?_
  refine (if_neg (fun h => (field_clash f3 0 0 11 (by decide) (by decide) rfl (by decide)) h.2.2.2)).trans ?_
  refine (if_neg (fun h => (field_clash f3 0 0 11 (by decide) (by decide) rfl (by decide)) h.2.2.2)).trans ?_
  refine (if_neg (fun h => (fun e => absurd (f3.symm.trans e) (by decide)) h.2.2)).trans ?_
  refine (if_neg (fun h => (fun e => absurd (f3.symm.trans e) (by decide)) h.2)).trans ?_
  refine (if_neg (fun h => (fun e => absurd (f3.symm.trans e) (by decide)) h.2)).trans ?_
  refine (if_pos ⟨(field_sub f0 0 2 (by decide)), f3⟩).trans ?_
  rw [f1, f2]

theorem frnw (d : Reg) (a : Reg) : Statement (.frnw d a) := by
  intro wd e hw
  obtain ⟨f0, f1, f2, f3⟩ := cat_6_5_5_16 0x37#6 d a 0#16 (Option.some.inj e)
  refine decode_of ((layout_37 (congrArg BitVec.toNat f0)).trans ?_) hw
  refine (if_pos f3).trans ?_
  rw [f1, f2]

theorem flife (d : Reg) (a : Reg) : Statement (.flife d a) := by
  intro wd e hw
  obtain ⟨f0, f1, f2, f3⟩ := cat_6_5_5_16 0x37#6 d a 1#16 (Option.some.inj e)
  refine decode_of ((layout_37 (congrArg BitVec.toNat f0)).trans ?_) hw
  refine (if_neg (fun e => absurd (f3.symm.trans e) (by decide))).trans ?_
  refine (if_pos f3).trans ?_
  rw [f1, f2]

theorem finit (a : Reg) (b : Reg) : Statement (.finit a b) := by
  intro wd e hw
  obtain ⟨f0, f1, f2, f3⟩ := cat_11_5_5_11 0x6e0#11 a b 2#11 (Option.some.inj e)
  refine decode_of ((layout_37 (congrArg BitVec.toNat (field_sub f0 5 6 (by decide)))).trans ?_) hw
  refine (if_neg (field_clash f3 0 0 11 (by decide) (by decide) rfl (by decide))).trans ?_
  refine (if_neg (field_clash f3 0 0 11 (by decide) (by decide) rfl (by decide))).trans ?_
  refine (if_pos ⟨(field_sub f0 0 5 (by decide)), f3⟩).trans ?_
  rw [f1, f2]

theorem cpcfg (a : Reg) (b : Reg) (c : BitVec 2) : Statement (.cpcfg a b c) := by
  intro wd e hw
  obtain ⟨f0, f1, f2, f3, f4, f5⟩ := cat_11_5_5_3_2_6 0x700#11 a b 0#3 c 0#6 (Option.some.inj e)
  refine decode_of ((layout_38 (congrArg BitVec.toNat (field_sub f0 5 6 (by decide)))).trans ?_) hw
  refine (if_pos ⟨(field_sub f0 0 5 (by decide)), f3, f5⟩).trans ?_
  rw [f1, f2, f4]

theorem cpdrn (c : BitVec 2) : Statement (.cpdrn c) := by
  intro wd e hw
  obtain ⟨f0, f1, f2⟩ := cat_24_2_6 0xe00000#24 c 2#6 (Option.some.inj e)
  refine decode_of ((layout_38 (congrArg BitVec.toNat (field_sub f0 18 6 (by decide)))).trans ?_) hw
  refine (if_neg (fun h => (fun e => absurd (f2.symm.trans e) (by decide)) h.2.2)).trans ?_
  refine (if_pos ⟨(field_sub f0 0 18 (by decide)), f2⟩).trans ?_
  rw [f1]

theorem cpxf (a : Reg) (b : Reg) (c : BitVec 2) : Statement (.cpxf a b c) := by
  intro wd e hw
  obtain ⟨f0, f1, f2, f3, f4, f5⟩ := cat_11_5_5_3_2_6 0x700#11 a b 0#3 c 3#6 (Option.some.inj e)
  refine decode_of ((layout_38 (congrArg BitVec.toNat (field_sub f0 5 6 (by decide)))).trans ?_) hw
  refine (if_neg (fun h => (fun e => absurd (f5.symm.trans e) (by decide)) h.2.2)).trans ?_
  refine (if_neg (fun h => (fun e => absurd (f5.symm.trans e) (by decide)) h.2)).trans ?_
  refine (if_pos ⟨(field_sub f0 0 5 (by decide)), f3, f5⟩).trans ?_
  rw [f1, f2, f4]

theorem cpimg (a : Reg) (b : Reg) (c : BitVec 2) : Statement (.cpimg a b c) := by
  intro wd e hw
  obtain ⟨f0, f1, f2, f3, f4, f5⟩ := cat_11_5_5_3_2_6 0x700#11 a b 0#3 c 4#6 (Option.some.inj e)
  refine decode_of ((layout_38 (congrArg BitVec.toNat (field_sub f0 5 6 (by decide)))).trans ?_) hw
  refine (if_neg (fun h => (fun e => absurd (f5.symm.trans e) (by decide)) h.2.2)).trans ?_
  refine (if_neg (fun h => (fun e => absurd (f5.symm.trans e) (by decide)) h.2)).trans ?_
  refine (if_neg (fun h => (fun e => absurd (f5.symm.trans e) (by decide)) h.2.2)).trans ?_
  refine (if_pos ⟨(field_sub f0 0 5 (by decide)), f3, f5⟩).trans ?_
  rw [f1, f2, f4]

theorem twall (a : Reg) : Statement (.twall a) := by
  intro wd e hw
  obtain ⟨f0, f1, f2⟩ := cat_11_5_16 0x720#11 a 0#16 (Option.some.inj e)
  refine decode_of ((layout_39 (congrArg BitVec.toNat (field_sub f0 5 6 (by decide)))).trans ?_) hw
  refine (if_pos ⟨(field_sub f0 0 5 (by decide)), f2⟩).trans ?_
  rw [f1]

theorem twany (d : Reg) (a : Reg) : Statement (.twany d a) := by
  intro wd e hw
  obtain ⟨f0, f1, f2, f3⟩ := cat_6_5_5_16 0x39#6 d a 1#16 (Option.some.inj e)
  refine decode_of ((layout_39 (congrArg BitVec.toNat f0)).trans ?_) hw
  refine (if_neg (fun h => (fun e => absurd (f3.symm.trans e) (by decide)) h.2)).trans ?_
  refine (if_pos f3).trans ?_
  rw [f1, f2]

theorem tffr (d : Reg) (a : Reg) : Statement (.tffr d a) := by
  intro wd e hw
  obtain ⟨f0, f1, f2, f3⟩ := cat_6_5_5_16 0x39#6 d a 2#16 (Option.some.inj e)
  refine decode_of ((layout_39 (congrArg BitVec.toNat f0)).trans ?_) hw
  refine (if_neg (fun h => (fun e => absurd (f3.symm.trans e) (by decide)) h.2)).trans ?_
  refine (if_neg (fun e => absurd (f3.symm.trans e) (by decide))).trans ?_
  refine (if_pos f3).trans ?_
  rw [f1, f2]

theorem tclr (a : Reg) : Statement (.tclr a) := by
  intro wd e hw
  obtain ⟨f0, f1, f2⟩ := cat_11_5_16 0x720#11 a 3#16 (Option.some.inj e)
  refine decode_of ((layout_39 (congrArg BitVec.toNat (field_sub f0 5 6 (by decide)))).trans ?_) hw
  refine (if_neg (fun h => (fun e => absurd (f2.symm.trans e) (by decide)) h.2)).trans ?_
  refine (if_neg (fun e => absurd (f2.symm.trans e) (by decide))).trans ?_
  refine (if_neg (fun e => absurd (f2.symm.trans e) (by decide))).trans ?_
  refine (if_pos ⟨(field_sub f0 0 5 (by decide)), f2⟩).trans ?_
  rw [f1]

theorem sapp (d : Reg) (a : Reg) (b : Reg) : Statement (.sapp d a b) := by
  intro wd e hw
  obtain ⟨f0, f1, f2, f3, f4⟩ := cat_6_5_5_5_11 0x3a#6 d a b 0#11 (Option.some.inj e)
  refine decode_of ((layout_3A (congrArg BitVec.toNat f0)).trans ?_) hw
  refine (if_pos f4).trans ?_
  rw [f1, f2, f3]

theorem sckp (d : Reg) (a : Reg) (b : Reg) : Statement (.sckp d a b) := by
  intro wd e hw
  obtain ⟨f0, f1, f2, f3, f4⟩ := cat_6_5_5_5_11 0x3a#6 d a b 1#11 (Option.some.inj e)
  refine decode_of ((layout_3A (congrArg BitVec.toNat f0)).trans ?_) hw
  refine (if_neg (fun e => absurd (f4.symm.trans e) (by decide))).trans ?_
  refine (if_pos f4).trans ?_
  rw [f1, f2, f3]

theorem scur (d : Reg) (a : Reg) (c : BitVec 3) : Statement (.scur d a c) := by
  intro wd e hw
  obtain ⟨f0, f1, f2, f3, f4, f5⟩ := cat_6_5_5_7_3_6 0x3a#6 d a 0#7 c 2#6 (Option.some.inj e)
  refine decode_of ((layout_3A (congrArg BitVec.toNat f0)).trans ?_) hw
  refine (if_neg (field_clash f5 0 0 6 (by decide) (by decide) rfl (by decide))).trans ?_
  refine (if_neg (field_clash f5 0 0 6 (by decide) (by decide) rfl (by decide))).trans ?_
  refine (if_neg (fun e => by have h := f4.symm.trans (field_sub e 6 3 (by decide)); have g : c = 7#3 := h; subst g; exact Bool.false_ne_true hw)).trans ?_
  refine (if_neg (field_clash f5 0 0 6 (by decide) (by decide) rfl (by decide))).trans ?_
  refine (if_neg (field_clash f5 0 0 6 (by decide) (by decide) rfl (by decide))).trans ?_
  refine (if_pos ⟨f3, f5⟩).trans ?_
  rw [f1, f2, f4]

theorem scurArm (d : Reg) (a : Reg) : Statement (.scurArm d a) := by
  intro wd e hw
  obtain ⟨f0, f1, f2, f3⟩ := cat_6_5_5_16 0x3a#6 d a 0x1c2#16 (Option.some.inj e)
  refine decode_of ((layout_3A (congrArg BitVec.toNat f0)).trans ?_) hw
  refine (if_neg (field_clash f3 0 0 11 (by decide) (by decide) rfl (by decide))).trans ?_
  refine (if_neg (field_clash f3 0 0 11 (by decide) (by decide) rfl (by decide))).trans ?_
  refine (if_pos f3).trans ?_
  rw [f1, f2]

theorem srecv (d : Reg) (a : Reg) (b : Reg) : Statement (.srecv d a b) := by
  intro wd e hw
  obtain ⟨f0, f1, f2, f3, f4⟩ := cat_6_5_5_5_11 0x3a#6 d a b 3#11 (Option.some.inj e)
  refine decode_of ((layout_3A (congrArg BitVec.toNat f0)).trans ?_) hw
  refine (if_neg (fun e => absurd (f4.symm.trans e) (by decide))).trans ?_
  refine (if_neg (fun e => absurd (f4.symm.trans e) (by decide))).trans ?_
  refine (if_neg (field_clash f4 0 0 11 (by decide) (by decide) rfl (by decide))).trans ?_
  refine (if_pos f4).trans ?_
  rw [f1, f2, f3]

theorem strunc (d : Reg) (a : Reg) : Statement (.strunc d a) := by
  intro wd e hw
  obtain ⟨f0, f1, f2, f3⟩ := cat_6_5_5_16 0x3a#6 d a 4#16 (Option.some.inj e)
  refine decode_of ((layout_3A (congrArg BitVec.toNat f0)).trans ?_) hw
  refine (if_neg (field_clash f3 0 0 11 (by decide) (by decide) rfl (by decide))).trans ?_
  refine (if_neg (field_clash f3 0 0 11 (by decide) (by decide) rfl (by decide))).trans ?_
  refine (if_neg (fun e => absurd (f3.symm.trans e) (by decide))).trans ?_
  refine (if_neg (field_clash f3 0 0 11 (by decide) (by decide) rfl (by decide))).trans ?_
  refine (if_pos f3).trans ?_
  rw [f1, f2]

theorem gcast (a : Reg) (g : BitVec 2) : Statement (.gcast a g) := by
  intro wd e hw
  obtain ⟨f0, f1, f2, f3, f4⟩ := cat_11_5_8_2_6 0x760#11 a 0#8 g 0#6 (Option.some.inj e)
  refine decode_of ((layout_3B (congrArg BitVec.toNat (field_sub f0 5 6 (by decide)))).trans ?_) hw
  refine (if_pos ⟨(field_sub f0 0 5 (by decide)), f2, f4⟩).trans ?_
  rw [f1, f3]

theorem gred (a : Reg) (g : BitVec 2) : Statement (.gred a g) := by
  intro wd e hw
  obtain ⟨f0, f1, f2, f3, f4⟩ := cat_11_5_8_2_6 0x760#11 a 0#8 g 1#6 (Option.some.inj e)
  refine decode_of ((layout_3B (congrArg BitVec.toNat (field_sub f0 5 6 (by decide)))).trans ?_) hw
  refine (if_neg (fun h => (fun e => absurd (f4.symm.trans e) (by decide)) h.2.2)).trans ?_
  refine (if_pos ⟨(field_sub f0 0 5 (by decide)), f2, f4⟩).trans ?_
  rw [f1, f3]

theorem vfork (a : Reg) (m : MaskNo) : Statement (.vfork a m) := by
  intro wd e hw
  obtain ⟨f0, f1, f2, f3, f4⟩ := cat_11_5_7_3_6 0x780#11 a 0#7 m 0#6 (Option.some.inj e)
  refine decode_of ((layout_3C (congrArg BitVec.toNat (field_sub f0 5 6 (by decide)))).trans ?_) hw
  refine (if_pos ⟨(field_sub f0 0 5 (by decide)), f2, f4⟩).trans ?_
  rw [f1, f3]

theorem vjoin (d : Reg) : Statement (.vjoin d) := by
  intro wd e hw
  obtain ⟨f0, f1, f2⟩ := cat_6_5_21 0x3c#6 d 1#21 (Option.some.inj e)
  refine decode_of ((layout_3C (congrArg BitVec.toNat f0)).trans ?_) hw
  refine (if_neg (fun h => (field_clash f2 0 0 6 (by decide) (by decide) rfl (by decide)) h.2.2)).trans ?_
  refine (if_pos f2).trans ?_
  rw [f1]

theorem lfetch (a : Reg) : Statement (.lfetch a) := by
  intro wd e hw
  obtain ⟨f0, f1, f2⟩ := cat_11_5_16 0x780#11 a 2#16 (Option.some.inj e)
  refine decode_of ((layout_3C (congrArg BitVec.toNat (field_sub f0 5 6 (by decide)))).trans ?_) hw
  refine (if_neg (fun h => (field_clash f2 0 0 6 (by decide) (by decide) rfl (by decide)) h.2.2)).trans ?_
  refine (if_neg (field_clash f2 0 0 16 (by decide) (by decide) rfl (by decide))).trans ?_
  refine (if_pos ⟨(field_sub f0 0 5 (by decide)), f2⟩).trans ?_
  rw [f1]

theorem lexit : Statement .lexit := by
  intro wd e _
  obtain rfl := Option.some.inj e
  rfl

theorem trap (a : Reg) : Statement (.trap a) := by
  intro wd e hw
  obtain ⟨f0, f1, f2⟩ := cat_11_5_16 0x7a0#11 a 0#16 (Option.some.inj e)
  refine decode_of ((layout_3D (congrArg BitVec.toNat (field_sub f0 5 6 (by decide)))).trans ?_) hw
  refine (if_pos ⟨(field_sub f0 0 5 (by decide)), f2⟩).trans ?_
  rw [f1]

theorem eret : Statement .eret := by
  intro wd e _
  obtain rfl := Option.some.inj e
  rfl

theorem mfsr (d : Reg) (h : BitVec 5) (l : BitVec 5) : Statement (.mfsr d h l) := by
  intro wd e hw
  obtain ⟨f0, f1, f2, f3, f4, f5⟩ := cat_6_5_5_5_5_6 0x3d#6 d 0#5 h l 2#6 (Option.some.inj e)
  refine decode_of ((layout_3D (congrArg BitVec.toNat f0)).trans ?_) hw
  refine (if_neg (fun h => (field_clash f5 0 0 6 (by decide) (by decide) rfl (by decide)) h.2)).trans ?_
  refine (if_neg (field_clash f5 0 0 6 (by decide) (by decide) rfl (by decide))).trans ?_
  refine (if_pos ⟨f2, f5⟩).trans ?_
  rw [f1, f3, f4]

theorem mtsr (a : Reg) (h : BitVec 5) (l : BitVec 5) : Statement (.mtsr a h l) := by
  intro wd e hw
  obtain ⟨f0, f1, f2, f3, f4⟩ := cat_11_5_5_5_6 0x7a0#11 a h l 3#6 (Option.some.inj e)
  refine decode_of ((layout_3D (congrArg BitVec.toNat (field_sub f0 5 6 (by decide)))).trans ?_) hw
  refine (if_neg (fun h => (field_clash f4 0 0 6 (by decide) (by decide) rfl (by decide)) h.2)).trans ?_
  refine (if_neg (field_clash f4 0 0 6 (by decide) (by decide) rfl (by decide))).trans ?_
  refine (if_neg (fun h => (fun e => absurd (f4.symm.trans e) (by decide)) h.2)).trans ?_
  refine (if_pos ⟨(field_sub f0 0 5 (by decide)), f4⟩).trans ?_
  rw [f1, f2, f3]

theorem halt : Statement .halt := by
  intro wd e _
  obtain rfl := Option.some.inj e
  rfl

theorem brk : Statement .brk := by
  intro wd e _
  obtain rfl := Option.some.inj e
  rfl

theorem tmark (a : Reg) : Statement (.tmark a) := by
  intro wd e hw
  obtain ⟨f0, f1, f2⟩ := cat_11_5_16 0x7a0#11 a 6#16 (Option.some.inj e)
  refine decode_of ((layout_3D (congrArg BitVec.toNat (field_sub f0 5 6 (by decide)))).trans ?_) hw
  refine (if_neg (fun h => (fun e => absurd (f2.symm.trans e) (by decide)) h.2)).trans ?_
  refine (if_neg (field_clash f2 0 0 16 (by decide) (by decide) rfl (by decide))).trans ?_
  refine (if_neg (fun h => (field_clash f2 0 0 6 (by decide) (by decide) rfl (by decide)) h.2)).trans ?_
  refine (if_neg (fun h => (field_clash f2 0 0 6 (by decide) (by decide) rfl (by decide)) h.2)).trans ?_
  refine (if_neg (field_clash f2 0 0 16 (by decide) (by decide) rfl (by decide))).trans ?_
  refine (if_neg (field_clash f2 0 0 16 (by decide) (by decide) rfl (by decide))).trans ?_
  refine (if_pos ⟨(field_sub f0 0 5 (by decide)), f2⟩).trans ?_
  rw [f1]

theorem tlbi (a : Reg) (f : BitVec 2) : Statement (.tlbi a f) := by
  intro wd e hw
  obtain ⟨f0, f1, f2, f3, f4⟩ := cat_11_5_8_2_6 0x7a0#11 a 0#8 f 7#6 (Option.some.inj e)
  refine decode_of ((layout_3D (congrArg BitVec.toNat (field_sub f0 5 6 (by decide)))).trans ?_) hw
  refine (if_neg (fun h => (field_clash f4 0 0 6 (by decide) (by decide) rfl (by decide)) h.2)).trans ?_
  refine (if_neg (field_clash f4 0 0 6 (by decide) (by decide) rfl (by decide))).trans ?_
  refine (if_neg (fun h => (fun e => absurd (f4.symm.trans e) (by decide)) h.2)).trans ?_
  refine (if_neg (fun h => (fun e => absurd (f4.symm.trans e) (by decide)) h.2)).trans ?_
  refine (if_neg (field_clash f4 0 0 6 (by decide) (by decide) rfl (by decide))).trans ?_
  refine (if_neg (field_clash f4 0 0 6 (by decide) (by decide) rfl (by decide))).trans ?_
  refine (if_neg (fun h => (field_clash f4 0 0 6 (by decide) (by decide) rfl (by decide)) h.2)).trans ?_
  refine (if_pos ⟨(field_sub f0 0 5 (by decide)), f2, f4⟩).trans ?_
  rw [f1, f3]

theorem jr (a : Reg) : Statement (.jr a) := by
  intro wd e hw
  obtain ⟨f0, f1, f2⟩ := cat_11_5_16 0x7a0#11 a 8#16 (Option.some.inj e)
  refine decode_of ((layout_3D (congrArg BitVec.toNat (field_sub f0 5 6 (by decide)))).trans ?_) hw
  refine (if_neg (fun h => (fun e => absurd (f2.symm.trans e) (by decide)) h.2)).trans ?_
  refine (if_neg (field_clash f2 0 0 16 (by decide) (by decide) rfl (by decide))).trans ?_
  refine (if_neg (fun h => (field_clash f2 0 0 6 (by decide) (by decide) rfl (by decide)) h.2)).trans ?_
  refine (if_neg (fun h => (field_clash f2 0 0 6 (by decide) (by decide) rfl (by decide)) h.2)).trans ?_
  refine (if_neg (field_clash f2 0 0 16 (by decide) (by decide) rfl (by decide))).trans ?_
  refine (if_neg (field_clash f2 0 0 16 (by decide) (by decide) rfl (by decide))).trans ?_
  refine (if_neg (fun h => (fun e => absurd (f2.symm.trans e) (by decide)) h.2)).trans ?_
  refine (if_neg (fun h => (field_clash f2 0 0 6 (by decide) (by decide) rfl (by decide)) h.2.2)).trans ?_
  refine (if_pos ⟨(field_sub f0 0 5 (by decide)), f2⟩).trans ?_
  rw [f1]

theorem ret : Statement .ret := by
  intro wd e _
  obtain rfl := Option.some.inj e
  rfl

theorem yield : Statement .yield := by
  intro wd e _
  obtain rfl := Option.some.inj e
  rfl

theorem waite (a : Reg) : Statement (.waite a) := by
  intro wd e hw
  obtain ⟨f0, f1, f2⟩ := cat_11_5_16 0x7a0#11 a 0xb#16 (Option.some.inj e)
  refine decode_of ((layout_3D (congrArg BitVec.toNat (field_sub f0 5 6 (by decide)))).trans ?_) hw
  refine (if_neg (fun h => (fun e => absurd (f2.symm.trans e) (by decide)) h.2)).trans ?_
  refine (if_neg (field_clash f2 0 0 16 (by decide) (by decide) rfl (by decide))).trans ?_
  refine (if_neg (fun h => (field_clash f2 0 0 6 (by decide) (by decide) rfl (by decide)) h.2)).trans ?_
  refine (if_neg (fun h => (field_clash f2 0 0 6 (by decide) (by decide) rfl (by decide)) h.2)).trans ?_
  refine (if_neg (field_clash f2 0 0 16 (by decide) (by decide) rfl (by decide))).trans ?_
  refine (if_neg (field_clash f2 0 0 16 (by decide) (by decide) rfl (by decide))).trans ?_
  refine (if_neg (fun h => (fun e => absurd (f2.symm.trans e) (by decide)) h.2)).trans ?_
  refine (if_neg (fun h => (field_clash f2 0 0 6 (by decide) (by decide) rfl (by decide)) h.2.2)).trans ?_
  refine (if_neg (fun h => (fun e => absurd (f2.symm.trans e) (by decide)) h.2)).trans ?_
  refine (if_neg (field_clash f2 0 0 16 (by decide) (by decide) rfl (by decide))).trans ?_
  refine (if_neg (field_clash f2 0 0 16 (by decide) (by decide) rfl (by decide))).trans ?_
  refine (if_pos ⟨(field_sub f0 0 5 (by decide)), f2⟩).trans ?_
  rw [f1]

theorem barrierEpisodeComplete (ctx : Nat) (launch : Nat) (group : Nat) (gbar : Bool) : Statement (.barrierEpisodeComplete ctx launch group gbar) := fun _ e _ => nomatch e

theorem cpixGatherComplete (seat : Nat) (tag : Nat) : Statement (.cpixGatherComplete seat tag) := fun _ e _ => nomatch e

theorem copyTransferComplete (seat : Nat) (ch : Nat) : Statement (.copyTransferComplete seat ch) := fun _ e _ => nomatch e

theorem operandsConsumed (seat : Nat) (ch : Nat) : Statement (.operandsConsumed seat ch) := fun _ e _ => nomatch e

theorem prefetchComplete (seat : Nat) (ch : Nat) : Statement (.prefetchComplete seat ch) := fun _ e _ => nomatch e

theorem imageComplete (seat : Nat) (ch : Nat) : Statement (.imageComplete seat ch) := fun _ e _ => nomatch e

theorem routineYield (seat : Nat) (ch : Nat) (bytes : List Byte) : Statement (.routineYield seat ch bytes) := fun _ e _ => nomatch e

theorem routineDone (seat : Nat) (ch : Nat) (bytes : List Byte) : Statement (.routineDone seat ch bytes) := fun _ e _ => nomatch e

theorem routineFail (seat : Nat) (ch : Nat) (code : Byte) : Statement (.routineFail seat ch code) := fun _ e _ => nomatch e

theorem routineIllegalAccess (seat : Nat) (ch : Nat) (illegal : Bool) : Statement (.routineIllegalAccess seat ch illegal) := fun _ e _ => nomatch e

theorem collectivePartStart (ctx : Nat) (collid : Word) : Statement (.collectivePartStart ctx collid) := fun _ e _ => nomatch e

theorem multicastChunkArrival (ctx : Nat) (collid : Word) (rank : Nat) (offset : Nat) (bytes : List Byte) : Statement (.multicastChunkArrival ctx collid rank offset bytes) := fun _ e _ => nomatch e

theorem collectivePartComplete (ctx : Nat) (collid : Word) : Statement (.collectivePartComplete ctx collid) := fun _ e _ => nomatch e

theorem laneBlockFetchDone (seat : Nat) (cluster : Nat) (block : Nat) : Statement (.laneBlockFetchDone seat cluster block) := fun _ e _ => nomatch e

theorem waiteDeadline (seat : Nat) : Statement (.waiteDeadline seat) := fun _ e _ => nomatch e

theorem mtsrPtroot (a : Reg) : Statement (.mtsrPtroot a) := fun _ e _ => nomatch e

theorem mtsrCvtdat (a : Reg) : Statement (.mtsrCvtdat a) := fun _ e _ => nomatch e

theorem mtsrCtxlk (a : Reg) : Statement (.mtsrCtxlk a) := fun _ e _ => nomatch e

theorem mfsrCtxlk (d : Reg) : Statement (.mfsrCtxlk d) := fun _ e _ => nomatch e

theorem mtsrVl (a : Reg) : Statement (.mtsrVl a) := fun _ e _ => nomatch e

theorem mtsrSrdptr (a : Reg) : Statement (.mtsrSrdptr a) := fun _ e _ => nomatch e

theorem mtsrGustlvl (a : Reg) : Statement (.mtsrGustlvl a) := fun _ e _ => nomatch e

theorem mtsrStatus (a : Reg) : Statement (.mtsrStatus a) := fun _ e _ => nomatch e

theorem mtsrExcflags (a : Reg) : Statement (.mtsrExcflags a) := fun _ e _ => nomatch e

theorem seatSwitch (core : Nat) : Statement (.seatSwitch core) := fun _ e _ => nomatch e

theorem issueShareSpent (core : Nat) : Statement (.issueShareSpent core) := fun _ e _ => nomatch e

theorem trapEntry (seat : Nat) (pos : Nat) : Statement (.trapEntry seat pos) := fun _ e _ => nomatch e

theorem pageParkTimeout (seat : Nat) : Statement (.pageParkTimeout seat) := fun _ e _ => nomatch e

theorem pageAnswerTimeout (ctx : Nat) (node : Word) : Statement (.pageAnswerTimeout ctx node) := fun _ e _ => nomatch e

theorem dispatchBind : Statement .dispatchBind := fun _ e _ => nomatch e

theorem preempt (seat : Nat) (cause : StopCause) : Statement (.preempt seat cause) := fun _ e _ => nomatch e

theorem preemptDeclared (stop : EngineStop) : Statement (.preemptDeclared stop) := fun _ e _ => nomatch e

theorem saveComplete (seat : Nat) : Statement (.saveComplete seat) := fun _ e _ => nomatch e

theorem restore (ctx : Nat) (node : Word) (seat : Nat) : Statement (.restore ctx node seat) := fun _ e _ => nomatch e

theorem fusionChange (quad : Nat) : Statement (.fusionChange quad) := fun _ e _ => nomatch e

theorem nodeFinish (ctx : Nat) (node : Word) : Statement (.nodeFinish ctx node) := fun _ e _ => nomatch e

theorem launchComplete (ctx : Nat) (launch : Nat) : Statement (.launchComplete ctx launch) := fun _ e _ => nomatch e

theorem doorbell (vi : Nat) (ring : RingWrite) : Statement (.doorbell vi ring) := fun _ e _ => nomatch e

theorem createCtx (vi : Nat) (root : Nat) : Statement (.createCtx vi root) := fun _ e _ => nomatch e

theorem map (vi : Nat) (frames : List Nat) (tables : List Nat) : Statement (.map vi frames tables) := fun _ e _ => nomatch e

theorem loadGraph (vi : Nat) : Statement (.loadGraph vi) := fun _ e _ => nomatch e

theorem launch (vi : Nat) : Statement (.launch vi) := fun _ e _ => nomatch e

theorem queryContext (vi : Nat) (info : List Byte) : Statement (.queryContext vi info) := fun _ e _ => nomatch e

theorem queryLaunch (vi : Nat) (info : List Byte) : Statement (.queryLaunch vi info) := fun _ e _ => nomatch e

theorem queryAttestation (vi : Nat) (nonce : List Byte) (signature : List Byte) : Statement (.queryAttestation vi nonce signature) := fun _ e _ => nomatch e

theorem kill (by_ : Killer) : Statement (.kill by_) := fun _ e _ => nomatch e

theorem reclaim (vi : Nat) : Statement (.reclaim vi) := fun _ e _ => nomatch e

theorem reclaimComplete (ctx : Nat) : Statement (.reclaimComplete ctx) := fun _ e _ => nomatch e

theorem streamNew (vi : Nat) : Statement (.streamNew vi) := fun _ e _ => nomatch e

theorem routine (vi : Nat) (signer : Nat) (image : Option (List Byte)) : Statement (.routine vi signer image) := fun _ e _ => nomatch e

theorem page (vi : Nat) (frames : List Nat) (tables : List Nat) : Statement (.page vi frames tables) := fun _ e _ => nomatch e

theorem dhalt (vi : Nat) : Statement (.dhalt vi) := fun _ e _ => nomatch e

theorem hostRmaRead (vi : Nat) (handle : Nat) (va : Word) (len : Nat) : Statement (.hostRmaRead vi handle va len) := fun _ e _ => nomatch e

theorem hostRmaWrite (vi : Nat) (handle : Nat) (va : Word) (bytes : List Byte) : Statement (.hostRmaWrite vi handle va bytes) := fun _ e _ => nomatch e

theorem hostAtomic (vi : Nat) (handle : Nat) (va : Word) (fn : AtomFn) (wide : Bool) (uns : Bool) (op : Word) (cmp : Word) : Statement (.hostAtomic vi handle va fn wide uns op cmp) := fun _ e _ => nomatch e

theorem connectionSetup (port : Nat) (opts : ConnOpts) : Statement (.connectionSetup port opts) := fun _ e _ => nomatch e

theorem packetIngress (port : Nat) (peer : Nat) (keySet : Nat) (foreign : Bool) (payload : Packet) : Statement (.packetIngress port peer keySet foreign payload) := fun _ e _ => nomatch e

theorem frameArrival (vi : Nat) (handle : Nat) (stream : Nat) (media : Word) (payload : Word) (len : BitVec 32) (barge : Bool) : Statement (.frameArrival vi handle stream media payload len barge) := fun _ e _ => nomatch e

theorem playbackAck (ctx : Nat) (stream : Nat) (q : Word) : Statement (.playbackAck ctx stream q) := fun _ e _ => nomatch e

theorem egressSend (ctx : Nat) (stream : Nat) : Statement (.egressSend ctx stream) := fun _ e _ => nomatch e

theorem unitRequestArrival (cin : BitVec 18) (addr : Nat) (req : UnitRequest) : Statement (.unitRequestArrival cin addr req) := fun _ e _ => nomatch e

theorem responseArrival (owner : Nat) (cin : BitVec 18) (dest : Requester) : Statement (.responseArrival owner cin dest) := fun _ e _ => nomatch e

theorem pageWalk (quad : Nat) (ctx : Nat) (va : Word) (store : Bool) : Statement (.pageWalk quad ctx va store) := fun _ e _ => nomatch e

theorem l1Eviction (core : Nat) (line : Nat) : Statement (.l1Eviction core line) := fun _ e _ => nomatch e

theorem compressedTileFill (pa : Nat) : Statement (.compressedTileFill pa) := fun _ e _ => nomatch e

theorem tileExpiry (tile : Nat) : Statement (.tileExpiry tile) := fun _ e _ => nomatch e

theorem fleetSweep (die : Nat) : Statement (.fleetSweep die) := fun _ e _ => nomatch e

theorem junctionReading (die : Nat) (temp : Int) : Statement (.junctionReading die temp) := fun _ e _ => nomatch e

theorem balancerSample (pair : Nat) (lower : Nat) (upper : Nat) : Statement (.balancerSample pair lower upper) := fun _ e _ => nomatch e

theorem gustInterval (pair : Nat) : Statement (.gustInterval pair) := fun _ e _ => nomatch e

theorem chainWithdraw (quad : Nat) (excess : Bool) : Statement (.chainWithdraw quad excess) := fun _ e _ => nomatch e

theorem hbmThermalReading (stack : Nat) (temp : Int) : Statement (.hbmThermalReading stack temp) := fun _ e _ => nomatch e

theorem holdRetention (quad : Nat) : Statement (.holdRetention quad) := fun _ e _ => nomatch e

theorem holdGate (quad : Nat) : Statement (.holdGate quad) := fun _ e _ => nomatch e

theorem wakeRampStart (die : Nat) : Statement (.wakeRampStart die) := fun _ e _ => nomatch e

theorem wakeRampComplete (quad : Nat) : Statement (.wakeRampComplete quad) := fun _ e _ => nomatch e

theorem placementEpoch : Statement .placementEpoch := fun _ e _ => nomatch e

theorem migrationMark (ctx : Nat) (va : Word) (frame : Nat) : Statement (.migrationMark ctx va frame) := fun _ e _ => nomatch e

theorem migrationCopy (ctx : Nat) (va : Word) : Statement (.migrationCopy ctx va) := fun _ e _ => nomatch e

theorem migrationSwitch (ctx : Nat) (va : Word) : Statement (.migrationSwitch ctx va) := fun _ e _ => nomatch e

theorem routineWatchdog (seat : Nat) (ch : Nat) : Statement (.routineWatchdog seat ch) := fun _ e _ => nomatch e

theorem collectorWatchdog (seat : Nat) : Statement (.collectorWatchdog seat) := fun _ e _ => nomatch e

theorem reclaimWatchdog (ctx : Nat) : Statement (.reclaimWatchdog ctx) := fun _ e _ => nomatch e

theorem eccCorrected (unit : Nat) : Statement (.eccCorrected unit) := fun _ e _ => nomatch e

theorem eccUncorrectable (seat : Nat) (detail : Nat) (value : Word) (site : EccSite) : Statement (.eccUncorrectable seat detail value site) := fun _ e _ => nomatch e

theorem deviceStop (unit : Nat) : Statement (.deviceStop unit) := fun _ e _ => nomatch e

theorem vsampleWrite (seat : Nat) (counts : List (BitVec 16)) (total : BitVec 32) : Statement (.vsampleWrite seat counts total) := fun _ e _ => nomatch e

theorem barographArm (die : Nat) (core : Nat) (vi : Nat) (start : BaroTrigger) (stop : BaroTrigger) (post : Nat) : Statement (.barographArm die core vi start stop post) := fun _ e _ => nomatch e

theorem barographFreeze (die : Nat) : Statement (.barographFreeze die) := fun _ e _ => nomatch e

theorem boot (version : Option Nat) (junctions : List Int) (hbm : List Int) : Statement (.boot version junctions hbm) := fun _ e _ => nomatch e

theorem effectivePriorityAging (ctx : Nat) (node : Word) : Statement (.effectivePriorityAging ctx node) := fun _ e _ => nomatch e

theorem wordNamingNoInstruction (w : BitVec 32) : Statement (.wordNamingNoInstruction w) := fun _ e _ => nomatch e

theorem instructionFetchFault : Statement .instructionFetchFault := fun _ e _ => nomatch e

theorem peerAcknowledgement (ctx : Nat) (collid : Word) : Statement (.peerAcknowledgement ctx collid) := fun _ e _ => nomatch e

theorem viProvisioning (vi : Nat) (prov : ViProvision) : Statement (.viProvisioning vi prov) := fun _ e _ => nomatch e

theorem provisioningRecordWrite (lg : Option Nat) : Statement (.provisioningRecordWrite lg) := fun _ e _ => nomatch e

theorem barographStopCommand (die : Nat) : Statement (.barographStopCommand die) := fun _ e _ => nomatch e

theorem retentionLoweringComplete (quad : Nat) : Statement (.retentionLoweringComplete quad) := fun _ e _ => nomatch e

end Encoding
end Sys2Proof.Laws
end

