-- ==== Sys2Proof/Laws/Queue.lean ====
section
/-!
SUPPORT. Sys2Proof/Laws/Queue.lean: a command that issues where nothing else is queued is performed in the same step: the state
it leaves, for commands whose address is translated at issue and for the others.
-/
namespace Sys2Proof.Machine

/-- The command waits for no engine: it is no QFENCE that names one, and nothing of system scope beside a collective. -/
def Cap.free (c : Cap) : Prop := c.sysScope = false ∧ ∀ m, c.cmd ≠ .qfence m

theorem State.engineHolds_idle {s : State} {q : Seat} {c : Cap} (hg : q.gathers = []) (hp : q.park = none) (hc : c.free) :
    s.engineHolds q c = false := by
  unfold State.engineHolds
  rw [hg, hp, hc.1]
  cases h : c.cmd <;> simp
  exact absurd h (hc.2 _)

theorem Seat.nextPos_eq (q : Seat) : q.nextPos = { q with pc := q.nextPos.pc, replay := q.nextPos.replay, sr := q.nextPos.sr } := by
  unfold Seat.nextPos
  split
  · rfl
  · split
    · rfl
    · split <;> rfl

theorem Seat.advance_eq (q : Seat) : q.advance =
    { q with pc := q.advance.pc, replay := q.advance.replay, sr := q.advance.sr, byp := none, noWatch := false, wait := none } := by
  unfold Seat.advance
  rw [Seat.nextPos_eq]
  rfl

/-- What a command leaves when it has been performed: it has left its queue, and a sampled one is to be recorded; `q` is the
seat in which it was performed. -/
def State.performed (s : State) (key : Nat) (q : Seat) (c : Cap) : State :=
  s.mapSeat key fun x => { x with pend := [], samples := x.samples ++ c.samples q s.devtime none }

/-- A command that issues beside nothing is performed at once (R201): `c'` is the command with its sample mark. -/
theorem State.issueCmd_only {s t : State} {key : Nat} {q : Seat} {c : Cap} (hi : q.Idle) (hh : s.hold = false)
    (hs : c.isStage = false) (hc : (q.countV c).2.free)
    (hp : (s.setSeat key (q.joined c id)).perform key (q.countV c).2 = .done t)
    (ht : ∃ x, t.seat key = some x ∧ x.pend = [(q.countV c).2]) :
    s.issueCmd key q c = .next (t.performed key (q.joined c id) (q.countV c).2) := by
  unfold State.issueCmd
  rw [State.issueThen_only (State.full_room hi.pend hi.room c) hs (by simp [hi.pend]) hh ?_]
  · rw [hp]
    obtain ⟨x, hx, hxp⟩ := ht
    simp [afterOnly, State.finishAt, State.performed, State.mapSeat, hx, hxp, dropAt]
  · have e : (q.joined c id).gathers = q.gathers ∧ (q.joined c id).park = q.park := by
      unfold Seat.joined
      rw [Seat.advance_eq]
      unfold Seat.countV
      split
      · unfold Seat.count; split <;> exact ⟨rfl, rfl⟩
      · exact ⟨rfl, rfl⟩
    exact State.engineHolds_idle (by rw [e.1, hi.gathers]) (by rw [e.2, hi.park]) hc

end Sys2Proof.Machine
end

