-- ==== Sys2Proof/Laws/Stream.lean ====
section
/-!
SUPPORT. Sys2Proof/Laws/Stream.lean: which entry of its ring the egress engine sends next, and when it sends none.
-/
namespace Sys2Proof.Machine

/-- The entries before the first that may go are kept, and that one is marked as sent. -/
theorem sendFirst_append (may : Egress → Bool) (l : List Egress) (e : Egress) (r : List Egress)
    (hl : ∀ x ∈ l, may x = false) (he : may e = true) :
    sendFirst may (l ++ e :: r) = some (e, l ++ { e with sent := true } :: r) := by
  induction l with
  | nil => simp [sendFirst, he]
  | cons a l ih => simp [sendFirst, hl a (by simp), ih (fun x h => hl x (by simp [h]))]

theorem sendFirst_none (may : Egress → Bool) (l : List Egress) (hl : ∀ x ∈ l, may x = false) : sendFirst may l = none := by
  induction l with
  | nil => rfl
  | cons a l ih => simp [sendFirst, hl a (by simp), ih (fun x h => hl x (by simp [h]))]

end Sys2Proof.Machine
end

