-- ==== Sys2Proof/Tests/Slice0.lean ====
section
/-!
SUPPORT. Sys2Proof/Tests/Slice0.lean: small checks of the model against the spec's own words and examples: ill-formed
terms, instruction words, single steps, and for every statement with hypotheses a state and operands that meet them.
-/
namespace Sys2Proof.Tests
open Sys2Proof Sys2Proof.Machine Sys2Proof.Claims

set_option Elab.async false

/-! ### States to test on -/

/-- The package with a program placed: context 0 on core 0, the first 64 GiB under their own addresses. -/
def placed : State := State.reset.place
/-- Its seat. -/
def s0 : Seat := startSeat placedLaunch placedNode (freshCtx 0 1 0) 0 0
/-- The package with that seat in another state. -/
def on (q : Seat) : State := placed.setSeat 0 q
/-- A page of 16 KiB at 2^37 in the core's TLB, with the leaf given. -/
def page (leaf : Word) (s : State) : State := s.setCore 0 { s.core 0 with tlb := [⟨0, 2 ^ 37, 16384, leaf, 2 ^ 20⟩] }
/-- A leaf that grants everything: its page, memory type and placement. -/
def leafOf (pa mt plc : Nat) : Word := BitVec.ofNat 64 (pa + 0x3F1 + mt * 2 ^ 58 + plc * 2 ^ 61)
/-- A page of the first die's fleeting array. -/
def fleeting (s : State) : State := page (leafOf (fleetBase 0) 1 1) s

theorem on_ctl (q : Seat) : Ctl (on q) 0 q := ⟨rfl, rfl⟩
theorem idle_s0 : s0.Idle := ⟨rfl, rfl, rfl, rfl, by decide⟩
theorem on_clear {q : Seat} (h : q.Idle) : Clear (on q) 0 q := { toCtl := on_ctl q, idle := h, hold := rfl }

/-- A translation succeeds, with `p` of what it answers. -/
def hitAnd (x : Xl × State) (p : Hit → State → Bool) : Bool :=
  match x with
  | (.ok h, s) => p h s
  | _ => false
/-- A result is there, with `p` of it. -/
def okAnd {ε α : Type} (x : Except ε α) (p : α → Bool) : Bool :=
  match x with
  | .ok a => p a
  | .error _ => false

theorem xl_ok {x : Xl × State} (p : Hit → State → Bool) (e : hitAnd x p = true) :
    ∃ h s, x = (.ok h, s) ∧ p h s = true := by
  obtain ⟨_ | _ | _, s⟩ := x
  · exact ⟨_, s, rfl, e⟩
  · cases e
  · cases e

theorem ex_ok {ε α : Type} {x : Except ε α} (p : α → Bool) (e : okAnd x p = true) :
    ∃ a, x = .ok a ∧ p a = true := by
  cases x with
  | ok a => exact ⟨a, rfl, e⟩
  | error _ => cases e

theorem settled {q : Seat} {l : List Reg} (h : (l.all fun r => !q.busy r) = true) : Settled q l := by
  intro r hr
  have := List.all_eq_true.mp h r hr
  simpa using this

/-- The hypotheses of an access at an address. -/
theorem accesses {s : State} {key : Nat} {q : Seat} {k : AKind} {a : Word} {align lo n : Nat} (p : Hit → State → Bool)
    (e : hitAnd (s.translate (q.who key) k a) p = true)
    (al : a.toNat % align = 0) (u : q.watchHit lo n k.writes = none) :
    ∃ h s', Accesses s key q k a align lo n h s' ∧ p h s' = true := by
  obtain ⟨h, s', e, hp⟩ := xl_ok p e
  exact ⟨h, s', ⟨al, e, u⟩, hp⟩

/-! ### Ill-formed terms (R311) -/

theorem test_wf_btag : (Instr.btag 1 3 0).wf = false := by decide
theorem test_wf_bmask : (Instr.bmask 1 3 0).wf = false := by decide
theorem test_wf_pub : (Instr.pub 1 2 5).wf = false := by decide
theorem test_wf_acq : (Instr.acq 1 2 5).wf = false := by decide
theorem test_wf_fence : (Instr.fence 7).wf = false := by decide
theorem test_wf_vsel : (Instr.vsel 1 2 3 0 0 0).wf = false := by decide
theorem test_wf_vcvtRm : (Instr.vcvtRm 1 2 0 0 6).wf = false := by decide
theorem test_wf_vrsumSeg : (Instr.vrsumSeg 1 2 0 0).wf = false := by decide
theorem test_wf_vrmaxSeg : (Instr.vrmaxSeg 1 2 0 0).wf = false := by decide
theorem test_wf_vrminSeg : (Instr.vrminSeg 1 2 0 0).wf = false := by decide
theorem test_wf_vscanSeg : (Instr.vscanSeg 1 2 0 0).wf = false := by decide
theorem test_wf_vcompr : (Instr.vcompr 1 2 0 0).wf = false := by decide
theorem test_wf_vexpnd : (Instr.vexpnd 1 2 0 0).wf = false := by decide
theorem test_wf_cpix : (Instr.cpix 1 2 3 1 63).wf = false := by decide
theorem test_wf_vldx : (Instr.vldx 1 2 3 0 2 0).wf = false := by decide
theorem test_wf_vstxO : (Instr.vstxO 1 2 3 0 2 0).wf = false := by decide
theorem test_wf_vstxU : (Instr.vstxU 1 2 3 0 2 0).wf = false := by decide
theorem test_wf_accrdRm : (Instr.accrdRm 1 2 6).wf = false := by decide
theorem test_wf_shrd : (Instr.shrd 1 2 2).wf = false := by decide
theorem test_wf_layout : (Instr.layout 6 0).wf = false := by decide
theorem test_wf_repf : (Instr.repf 1 16 1 0).wf = false := by decide
theorem test_wf_scur : (Instr.scur 1 2 7).wf = false := by decide
theorem test_wf_tlbi : (Instr.tlbi 1 3).wf = false := by decide
/-- `shrd` with the one register s0 is well-formed (R64). -/
theorem test_wf_shrd_zero : (Instr.shrd 1 0 0).wf = true := by decide

/-! ### Words that the spec writes out, with the instructions it says they are (Table 16.1 and the examples) -/

theorem test_word_layout : decodeWord 0xD4500802#32 = some (.layout 5 2) := by decide
theorem test_word_setvl : decodeWord 0xD4910003#32 = some (.setvl 9 2) := by decide
theorem test_word_defr : decodeWord 0xD6052C00#32 = some (.defr 32 10 11) := by decide
theorem test_word_vdiv : decodeWord 0x82086203#32 = some (.vdiv 32 33 34 0 0 0) := by decide
theorem test_word_vmov : decodeWord 0x8E58C006#32 = some (.vmov 37 35 0 0) := by decide
theorem test_word_vhadC : decodeWord 0x9FFA0003#32 = some (.vhadC 40 0 0) := by decide
theorem test_word_vqnt : decodeWord 0x9E9FEA00#32 = some (.vqnt 41 63 42 0) := by decide
theorem test_word_repf : decodeWord 0xD4101C45#32 = some (.repf 1 0 7 8) := by decide
theorem test_word_mmt : decodeWord 0xD2800101#32 = some (.mmt 40 0 1 0) := by decide
theorem test_word_vadd : decodeWord 0x80104040#32 = some (.vadd 1 1 0 0 1 0) := by decide
theorem test_word_vrsum : decodeWord 0x94004000#32 = some (.vrsum 0 1 0 0) := by decide
theorem test_word_cpix : decodeWord 0xA2180243#32 = some (.cpix 33 32 1 1 3) := by decide
theorem test_word_twall : decodeWord 0xE4060000#32 = some (.twall 6) := by decide
theorem test_word_acas : decodeWord 0x79255046#32 = some (.acas 9 5 10 0 1) := by decide
theorem test_word_fence_v : decodeWord 0x7C000143#32 = some (.fence 5) := by decide
theorem test_word_pub : decodeWord 0x7C0538C1#32 = some (.pub 5 7 3) := by decide
theorem test_word_acq : decodeWord 0x7D2500C2#32 = some (.acq 9 5 3) := by decide
theorem test_word_vld : decodeWord 0xC2008000#32 = some (.vld 32 1 0) := by decide
theorem test_word_vstxO : decodeWord 0xCA10C401#32 = some (.vstxO 33 1 34 0 0 0) := by decide
theorem test_word_fence_vs : decodeWord 0x7C000043#32 = some (.fence 1) := by decide
theorem test_word_sapp : decodeWord 0xE9815800#32 = some (.sapp 12 1 11) := by decide
theorem test_word_sckp : decodeWord 0xE941A001#32 = some (.sckp 10 1 20) := by decide
theorem test_word_scur : decodeWord 0xE9810182#32 = some (.scur 12 1 6) := by decide
theorem test_word_srecv : decodeWord 0xE9211803#32 = some (.srecv 9 1 3) := by decide
theorem test_word_strunc : decodeWord 0xE9410004#32 = some (.strunc 10 1) := by decide
theorem test_word_ldstp : decodeWord 0xD2100107#32 = some (.ldstp 33 0) := by decide
theorem test_word_swst : decodeWord 0xD0000007#32 = some .swst := by decide
theorem test_word_accrd : decodeWord 0xD2704602#32 = some (.accrd 39 8) := by decide
theorem test_word_vmul : decodeWord 0x8279E902#32 = some (.vmul 39 39 41 0 0 0) := by decide
theorem test_word_vst : decodeWord 0xC6C38000#32 = some (.vst 44 7 0) := by decide
theorem test_word_li : decodeWord 0x05200000#32 = some (.addImm 9 0 0) := by decide
theorem test_word_beq : decodeWord 0x50400004#32 = some (.beq 2 0 4) := by decide
theorem test_word_add : decodeWord 0x01291000#32 = some (.add 9 9 2) := by decide
theorem test_word_addImm : decodeWord 0x0442FFFF#32 = some (.addImm 2 2 (-1)) := by decide
theorem test_word_jmp : decodeWord 0x6BFFFFFD#32 = some (.jmp (-3)) := by decide
theorem test_word_stD : decodeWord 0x4D210000#32 = some (.stD 9 1 0) := by decide
theorem test_word_halt : decodeWord 0xF4000004#32 = some .halt := by decide
theorem test_word_vfork : decodeWord 0xF0050040#32 = some (.vfork 5 1) := by decide
theorem test_word_vjoin : decodeWord 0xF0600001#32 = some (.vjoin 3) := by decide
theorem test_word_ldst : decodeWord 0xD050000E#32 = some (.ldst 5 0 0 0 1) := by decide
theorem test_word_shrI : decodeWord 0x016A0059#32 = some (.shrI 11 10 0 1) := by decide
theorem test_word_vbcast : decodeWord 0xB4101400#32 = some (.vbcast 1 10 0) := by decide
theorem test_word_strip : decodeWord 0x7183FFFE#32 = some (.strip 12 1 (-2)) := by decide
theorem test_word_mmr : decodeWord 0xD2802900#32 = some (.mmr 40 5 1 0) := by decide
theorem test_word_amin : decodeWord 0x79255081#32 = some (.amin 9 5 10 0 1 0) := by decide
theorem test_word_aadd : decodeWord 0x79255000#32 = some (.aadd 9 5 10 0 0) := by decide
theorem test_word_lui : decodeWord 0x1D400000#32 = some (.lui 10 0) := by decide
theorem test_word_orImm : decodeWord 0x0D4A0200#32 = some (.orImm 10 10 0x200) := by decide
theorem test_word_shlI : decodeWord 0x014A8018#32 = some (.shlI 10 10 16 0) := by decide
theorem test_word_clz : decodeWord 0x01250015#32 = some (.clz 9 5) := by decide
theorem test_word_frnw : decodeWord 0xDD250000#32 = some (.frnw 9 5) := by decide
theorem test_word_flife : decodeWord 0xDD450001#32 = some (.flife 10 5) := by decide
theorem test_word_finit : decodeWord 0xDC053002#32 = some (.finit 5 6) := by decide
theorem test_word_waite : decodeWord 0xF405000B#32 = some (.waite 5) := by decide
theorem test_word_yield : decodeWord 0xF400000A#32 = some .yield := by decide
theorem test_word_rclm : decodeWord 0x7C050006#32 = some (.rclm 5) := by decide
theorem test_word_cpdrn : decodeWord 0xE0000042#32 = some (.cpdrn 1) := by decide
theorem test_word_brk : decodeWord 0xF4000005#32 = some .brk := by decide
theorem test_word_trap : decodeWord 0xF4050000#32 = some (.trap 5) := by decide
theorem test_word_eret : decodeWord 0xF4000001#32 = some .eret := by decide
theorem test_word_tclr : decodeWord 0xE4050003#32 = some (.tclr 5) := by decide
theorem test_word_twany : decodeWord 0xE5250001#32 = some (.twany 9 5) := by decide
theorem test_word_tffr : decodeWord 0xE5250002#32 = some (.tffr 9 5) := by decide
theorem test_word_nop : decodeWord 0x00000000#32 = some (.add 0 0 0) := by decide
theorem test_word_reserved : decodeWord 0xFFFFFFFF#32 = none := by decide

/-! ### Hypotheses met: the scalar core -/

/-- The seat with a register set. -/
def reg (q : Seat) (r : Nat) (w : Word) : Seat := q.setReg (BitVec.ofNat 5 r) w

/-- A seat with one virtual processor, at an address with a stack. -/
def forked (lane : Nat) (v : Vp) (q : Seat) : Seat := { q with fork := some ⟨[(lane, v)], 1, [], [], []⟩ }
def vp0 : Vp := ⟨0x10000, [], 0, false, false⟩
/-- The turn of a virtual processor. -/
def onLane (lane : Nat) (q : Seat) : State := { on q with thr := some ⟨0, some lane⟩ }

theorem test_met_control : Ctl (on s0) 0 s0 ∧ Settled s0 [1, 2, 3] := ⟨on_ctl s0, settled (by decide)⟩
theorem test_met_lane : Lane (onLane 255 (forked 255 vp0 s0)) 0 255 (forked 255 vp0 s0) vp0 ∧ mapWf 0#32 (forked 255 vp0 s0).plane = true :=
  ⟨⟨rfl, rfl, rfl⟩, by decide⟩
theorem test_met_branch : s0.maskBusy 1 = false ∧ s0.vlBusy = false ∧ someSet ({ s0 with sr := { s0.sr with vl := 1 } }.setMask 1 1).m[1] 1 ∧
    ¬ someSet (s0.mask 0) 0 ∧ allSet (s0.mask 0) 0 := by
  refine ⟨by decide, by decide, ⟨0, by decide, by decide +kernel⟩, ?_, ?_⟩
  · rintro ⟨k, h, _⟩; omega
  · intro k h; omega
theorem test_met_jr : ((reg s0 1 8).reg 1).toNat % 4 = 0 ∧ ((reg s0 1 6).reg 1).toNat % 4 ≠ 0 := by decide

/-- A seat with a return stack, and RSP at 64 × a. -/
def stacked (l : List Word) (a : Nat) : Seat := { s0 with rstack := l, sr := { s0.sr with rsp := BitVec.ofNat 58 a } }

theorem test_met_call : (stacked (List.replicate 15 4) 0).rstack.length < 16 ∧ (stacked (List.replicate 16 4) 0).rstack.length = 16 := by
  decide
theorem test_met_return : (stacked [4, 8] 0).rstack = [4] ++ [8] ∧ (8 : Word).toNat % 4 = 0 ∧ (6 : Word).toNat % 4 ≠ 0 := by decide
theorem test_met_spill : ∃ h s, (on (stacked (List.replicate 16 4) 0x800)).translate ((stacked (List.replicate 16 4) 0x800).who 0) .vstore
    ((stacked (List.replicate 16 4) 0x800).sr.rsp ++ 0#6) = (.ok h, s) ∧ decide (h.mt = 0) = true :=
  xl_ok (fun h _ => decide (h.mt = 0)) (by decide +kernel)
theorem test_met_spill_fault : ∃ f s, (on (stacked (List.replicate 16 4) (2 ^ 57))).translate
    ((stacked (List.replicate 16 4) (2 ^ 57)).who 0) .vstore ((stacked (List.replicate 16 4) (2 ^ 57)).sr.rsp ++ 0#6) = (.fault f, s) :=
  ⟨_, _, rfl⟩
theorem test_met_refill_fault : ∃ f s, (on (stacked [] 0)).translate ((stacked [] 0).who 0) .vload
    (((stacked [] 0).sr.rsp ++ 0#6) - 64) = (.fault f, s) := ⟨_, _, rfl⟩
theorem test_met_refill : ∃ h s, (on (stacked [] 0x800)).translate ((stacked [] 0x800).who 0) .vload
    (((stacked [] 0x800).sr.rsp ++ 0#6) - 64) = (.ok h, s) ∧
    okAnd (s.readRun 0 0 h 8) (fun r => decide (r.1 = List.replicate 7 0 ++ [0]) && !r.2.1) = true :=
  xl_ok (fun h s => okAnd (s.readRun 0 0 h 8) fun r => decide (r.1 = List.replicate 7 0 ++ [0]) && !r.2.1) (by decide +kernel)
theorem test_met_lane_stack : (⟨0x10000, List.replicate 7 4, 0, false, false⟩ : Vp).stack.length < 8 ∧
    (⟨0x10000, [4, 8], 0, false, false⟩ : Vp).stack = [4] ++ [8] ∧ vp0.stack = [] ∧ vp0.spilled = 0 ∧ encode .ret = some 0xF4000009#32 := by
  decide
theorem test_met_strip : s0.vlBusy = false ∧ Settled s0 [1, 24, 25, 26, 27] ∧ ∀ ch : Fin 4, s0.chan[ch] = none :=
  ⟨by decide, settled (by decide), by decide⟩

/-- A plain access that succeeds, of 8 bytes at 0x30000. -/
theorem test_met_access : ∃ h s, Accesses (on (reg s0 1 0x30000)) 0 (reg s0 1 0x30000) (.load 8) (plus ((reg s0 1 0x30000).reg 1) 0) 8
    (plus ((reg s0 1 0x30000).reg 1) 0).toNat 8 h s ∧
    okAnd (s.read 0 0 h 8) (fun r => !r.expired) = true :=
  accesses (fun h s => okAnd (s.read 0 0 h 8) fun r => !r.expired) (by decide +kernel) (by decide) (by decide)
theorem test_met_store : ∃ h s, Accesses (on (reg s0 1 0x30000)) 0 (reg s0 1 0x30000) (.store 8) (plus ((reg s0 1 0x30000).reg 1) 0) 8
    (plus ((reg s0 1 0x30000).reg 1) 0).toNat 8 h s ∧ decide (h.mt = 0) = true :=
  accesses (fun h _ => decide (h.mt = 0)) (by decide +kernel) (by decide) (by decide)
theorem test_met_clear : Clear (on s0) 0 s0 ∧ (plus ((reg s0 1 1).reg 1) 0).toNat % 8 ≠ 0 := ⟨on_clear idle_s0, by decide⟩
theorem test_met_atomic : (∃ h s, Accesses (on (reg s0 1 0x30000)) 0 (reg s0 1 0x30000) .atomic ((reg s0 1 0x30000).reg 1) (atomBytes 1)
    ((reg s0 1 0x30000).reg 1).toNat (atomBytes 1) h s ∧ decide (h.mt = 0) = true) ∧
    (on s0).inColl s0.ctx s0.launch s0.node = false ∧ ((reg s0 1 4).reg 1).toNat % atomBytes 1 ≠ 0 :=
  ⟨accesses (fun h _ => decide (h.mt = 0)) (by decide +kernel) (by decide) (by decide), by decide, by decide⟩

/-- A core whose L1 holds a line of HBM: byte 0 dirty, byte 1 clean. -/
def line0 : Line := ⟨0, 0x30000, 0, 0, [(0, 7, true), (1, 9, false)]⟩
def lined : State := (on s0).setCore 0 { (on s0).core 0 with l1 := [line0] }
theorem test_met_memory_types : (held lined 0 0 0x30000).isSome = true ∧ held lined 0 0 0x30002 = none ∧ Memory.wf lined.mem = true ∧
    0x3003F % 64 + 1 ≤ 64 := by decide +kernel

/-! ### Hypotheses met: fleeting tiles, fences, waits -/

/-- Base register s1 at the fleeting page. -/
def s1f : Seat := reg s0 1 0x2000000000
/-- The first fleeting tile live, or not. -/
def tiled (expd : Bool) (s : State) : State := s.setTile 0 ⟨0, expd⟩
theorem test_met_finit : ∃ h s, Accesses (fleeting (on s1f)) 0 s1f .fleetW (s1f.reg 1) 1 ((s1f.reg 1).toNat / 2048 * 2048) 2048 h s ∧
    decide (h.mt = 1) = true :=
  accesses (fun h _ => decide (h.mt = 1)) (by decide +kernel) (by decide) (by decide)
theorem test_met_frnw (live : Bool) : ∃ h s, Accesses (fleeting (tiled (!live) (on s1f))) 0 s1f .fleetW (s1f.reg 1) 1
    ((s1f.reg 1).toNat / 2048 * 2048) 0 h s ∧ (decide ((fleeting (tiled (!live) (on s1f))).liveAt h.pa = live)) = true :=
  match live with
  | true => accesses (fun h _ => decide ((fleeting (tiled false (on s1f))).liveAt h.pa = true)) (by decide +kernel) (by decide) (by decide)
  | false => accesses (fun h _ => decide ((fleeting (tiled true (on s1f))).liveAt h.pa = false)) (by decide +kernel) (by decide) (by decide)
theorem test_met_flife : ∃ h s, Accesses (fleeting (on s1f)) 0 s1f .fleetR (s1f.reg 1) 1 ((s1f.reg 1).toNat / 2048 * 2048) 0 h s ∧
    decide (h.mt = 1) = true :=
  accesses (fun h _ => decide (h.mt = 1)) (by decide +kernel) (by decide) (by decide)
theorem test_met_release : (4 : BitVec 3).toNat ≤ 4 ∧ (on s0).inColl s0.ctx s0.launch s0.node = false ∧ ((reg s0 1 4).reg 1).toNat % 8 ≠ 0 := by decide
theorem test_met_acquire : ∃ h s, Accesses (on (reg s0 1 0x30000)) 0 (reg s0 1 0x30000) (.load 8) ((reg s0 1 0x30000).reg 1) 8
    ((reg s0 1 0x30000).reg 1).toNat 8 h s ∧
    okAnd (((s.flushInval 0 0 h.pa).count 0 0 h.pa h.plc).homeRead h 8) (fun r => !r.expired) = true :=
  accesses (fun h s => okAnd (((s.flushInval 0 0 h.pa).count 0 0 h.pa h.plc).homeRead h 8) fun r => !r.expired) (by decide +kernel) (by decide) (by decide)
theorem test_met_fence : (2 : BitVec 3).toNat ≤ 2 ∧ (3 ≤ (3 : BitVec 3).toNat ∧ (6 : BitVec 3).toNat ≤ 6) ∧
    ((reg s0 1 511).reg 1).toNat < 512 ∧ 512 ≤ ((reg s0 1 512).reg 1).toNat ∧ encode (.qfence 1) = some 0x7C010004#32 := by decide
theorem test_met_lines : Orderly lined 0 := by
  refine ⟨by decide +kernel, ?_, ?_⟩
  · have e : lined.slices 0 = [0] := by decide +kernel
    have e1 : (lined.core 0).l1 = [line0] := by decide +kernel
    rw [e]; intro c hc l hl
    simp at hc; subst hc; rw [e1] at hl; simp at hl; subst hl
    decide +kernel
  · have e : lined.slices 0 = [0] := by decide +kernel
    have e1 : (lined.core 0).l1 = [line0] := by decide +kernel
    rw [e]; intro c hc
    simp at hc; subst hc; rw [e1]; simp

/-- A seat with group 3 in GSLOT 3. -/
def grouped : Seat := { s0 with sr := { s0.sr with gslot := s0.sr.gslot.set 3 (some 3#8) } }
theorem test_met_barrier : grouped.sr.gslot[(3 : BitVec 2).toNat] = some 3#8 ∧ s0.sr.gslot[(0 : BitVec 2).toNat] = none ∧
    Completed (on grouped) grouped 3 false 0 := by
  refine ⟨by decide, by decide, ?_⟩
  intro l _; exact Nat.zero_le _
theorem test_met_episode : ∃ l, (on s0).launch 0 1 = some l ∧ l.nodes.length = 1 := ⟨_, rfl, by decide +kernel⟩
theorem test_met_tags : Settled s0 [1, 2] ∧ (reg s0 1 1).tags &&& (reg s0 1 1).reg 1 ≠ (reg s0 1 1).reg 1 ∧ (reg s0 1 1).reg 1 ≠ 0 ∧
    (reg s0 1 1).tags &&& (reg s0 1 1).reg 1 = 0 ∧ s0.tags &&& s0.reg 1 = s0.reg 1 :=
  ⟨settled (by decide), by decide, by decide, by decide, by decide⟩
theorem test_met_waits : ((reg s0 1 0).reg 1).toNat ≤ (on s0).devtime ∧ (on s0).devtime < ((reg s0 1 1).reg 1).toNat ∧
    (on s0).ready (otherSeat 0) = false ∧ ((reg s0 1 4095).reg 1).toNat < 4096 ∧ (on s0).reclaimOf 0 = none ∧ s0.status.prv = false ∧
    encode (.rclm 1) = some 0x7C010006#32 := by decide +kernel
/-- Both seats of core 0, the first of which has held issue for some cycles. -/
def both (held : Nat) (wait : Option Wait) : State :=
  ((on { s0 with wait := wait }).setSeat 1 s0).setCore 0 { (on s0).core 0 with res := .dual, held := held }
theorem test_met_turns : (both 4096 none).ready 1 = true ∧ (both 4096 none).ready 0 = true ∧ 4096 ≤ ((both 4096 none).core 0).held ∧
    ((both 4095 none).core 0).held < 4096 ∧ (both 0 (some (.deadline 1))).ready 0 = false ∧ ((both 0 none).core 0).holder ≤ 1 := by
  decide +kernel
theorem test_met_deadline : (both 0 (some (.deadline 0))).seat 0 = some { s0 with wait := some (.deadline 0) } ∧
    (0 : Word).toNat ≤ (both 0 none).devtime ∧ (both 0 none).devtime < (1 : Word).toNat := ⟨rfl, by decide, by decide⟩

/-! ### Hypotheses met: vector instructions -/

/-- A shape of one row of the plane. -/
def rowShape (kind : ShapeKind) (row w : Nat) (fmt : Fmt) : Shape := ⟨kind, row, 0, 1, w, fmt⟩
/-- The seat with an entry. -/
def entry (q : Seat) (e : Nat) (t : Shape) : Seat := q.setEntry (BitVec.ofNat 6 e) (some t)
/-- The seat with VL. -/
def vl (q : Seat) (n : Nat) : Seat := { q with sr := { q.sr with vl := n } }
/-- Three rows of FP32, one of INT32, two RECTs of FP32, and the codes and scales of a quantisation; VL is 4. -/
def vec0 : Seat :=
  entry (entry (entry (entry (entry (entry (entry (entry (entry (vl s0 4) 1 (rowShape .row 0 4 .fp32)) 2 (rowShape .row 1 4 .fp32))
    3 (rowShape .row 2 4 .fp32)) 4 (rowShape .row 3 4 .int32)) 5 (rowShape .rect 4 32 .fp32)) 6 (rowShape .rect 5 32 .fp32))
    7 (rowShape .rect 6 32 .mxfp4)) 8 (rowShape .row 7 4 .e8m0)) 9 (rowShape .row 8 8 .uint4)

theorem idle_of {q : Seat} (h : (q.pend.isEmpty && q.fork.isNone && q.gathers.isEmpty && q.park.isNone &&
    decide (q.logHeld < 15)) = true) : q.Idle := by
  simp only [Bool.and_eq_true, List.isEmpty_iff, Option.isNone_iff_eq_none, decide_eq_true_eq] at h
  exact ⟨h.1.1.1.1, h.1.1.1.2, h.1.1.2, h.1.2, h.2⟩

theorem on_vec {q : Seat} {m : MaskNo} {n : Nat} (h : q.Idle) (hp : mapWf 0#32 q.plane = true) (hn : m = 0 ∨ n ≤ 4096) :
    Vec (on q) 0 q m n := { toClear := on_clear h, plane := hp, few := hn }

theorem quiet {q : Seat} (h : q.sr.excen = 0) (n : Nat) (act : Nat → Bool) (f : Nat → Flags) : Quiet q n act f := by
  intro j _ _; simp [h]

theorem held_in {t : Shape} {n : Nat} (h : n ≤ t.h * t.w) : Holds t n := fun _ => h

theorem test_met_vector : vec0.entry 1 = some (rowShape .row 0 4 .fp32) ∧ vec0.entry 2 = some (rowShape .row 1 4 .fp32) ∧
    vec0.entry 3 = some (rowShape .row 2 4 .fp32) ∧ InPlane (rowShape .row 0 4 .fp32) ∧
    (rowShape .row 0 4 .fp32).count vec0.sr.vl = 4 ∧ Vec (on vec0) 0 vec0 1 4 ∧ arith .fp32 .fp32 .fp32 = true ∧
    Holds (rowShape .row 0 4 .fp32) vec0.sr.vl ∧ vec0.sr.excen = 0 :=
  ⟨by decide, by decide, by decide, by show 0 + 4 ≤ 256 * 1; decide, by decide, on_vec (idle_of (by decide)) (by decide) (by decide),
    by decide, held_in (by decide), by decide⟩
theorem test_met_vector_formats : (ints .int32 .int32 .int32 && plain .fp32 .fp32 .fp32 && shifts .int32 .int32 .int32 &&
    floats .fp32 .fp16 .fp32 && widths .fp32 .int32 .fp32 && converts .int8 .fp32 .fp32) = true := by decide
theorem test_met_compare : (rowShape .row 0 4 .fp32).count vec0.sr.vl ≤ 4096 ∧ (rowShape .row 0 4 .fp32).fmt.cls ≠ .special := by decide
theorem test_met_reduce : 0 < (rowShape .row 0 4 .fp32).cap ∧
    ((List.range 4).filter fun i => i = 0 ∨ (vec0.mask 1).getLsbD i = true).length ≤ (rowShape .row 0 4 .fp32).cap ∧
    (reduceAll .sum (envNoSr vec0) .fp32 4 (leaves vec0 (rowShape .row 1 4 .fp32) 0 4 (active vec0 0))).2 &&& vec0.sr.excen &&& 0x1C#5 = 0 := by
  decide +kernel

/-- The running sums of the first two elements. -/
def sums (k : Nat) : Nat × Flags :=
  let first := deliverInto (envNoSr vec0) .fp32 .fp32 (readElem vec0.plane (rowShape .row 1 4 .fp32) 0)
  if k = 0 then first
  else redStep .scan (envNoSr vec0) .fp32 .fp32 .fp32 first.1 (readElem vec0.plane (rowShape .row 1 4 .fp32) 1) (BitVec.ofNat 64 1)
theorem test_met_scan : Running vec0 (rowShape .row 0 4 .fp32) (rowShape .row 1 4 .fp32) 2 (active vec0 0) (fun _ => false) sums := by
  intro k hk _
  have : k = 0 ∨ k = 1 := by omega
  rcases this with rfl | rfl
  · refine ⟨fun _ => rfl, ?_⟩
    rintro j _ ⟨h, _⟩; omega
  · refine ⟨?_, ?_⟩
    · rintro (h | h)
      · cases h
      · have := h 0 (by decide); simp [active] at this
    · rintro j _ ⟨h, _⟩
      have : j = 0 := by omega
      subst this; rfl
theorem test_met_integers : Fmt.int8.cls = .integer ∧ ((List.range 2).filterMap fun j => if j = 1 then some 200 else none) ≠ [] := by decide
theorem test_met_permute : vec0.entry 4 = some (rowShape .row 3 4 .int32) ∧ (rowShape .row 3 4 .int32).count vec0.sr.vl = 4 ∧
    (rowShape .row 3 4 .int32).fmt.cls = .integer ∧ (rowShape .row 1 4 .fp32).count vec0.sr.vl ≤ (rowShape .row 0 4 .fp32).cap := by decide

/-- The cells of a shape of one row lie in that row. -/
theorem occupies_row {kind : ShapeKind} {r w : Nat} {f : Fmt} {i k b : Nat} (hk : kind = .row ∨ kind = .rect) (hw : w ≤ 256)
    (hi : i < (rowShape kind r w f).cap) (h : occupies (rowShape kind r w f) i k b) : k / 256 = r := by
  have hc : (rowShape kind r w f).cap = w := by rcases hk with rfl | rfl <;> simp [Shape.cap, rowShape]
  rw [hc] at hi
  have hp : (rowShape kind r w f).pos i = (r + i / w, 0 + i % w) := by rcases hk with rfl | rfl <;> rfl
  have h1 := h.1
  simp only [Shape.cell, Shape.cellCol, hp, cellKey] at h1
  rw [Nat.div_eq_of_lt hi, Nat.mod_eq_of_lt hi, Nat.zero_add] at h1
  have h2 : i / (rowShape kind r w f).fmt.epc ≤ i := Nat.div_le_self _ _
  generalize i / (rowShape kind r w f).fmt.epc = e at h1 h2
  omega
theorem apart_rows {kind kind' : ShapeKind} {r r' w w' : Nat} {f f' : Fmt} (hk : kind = .row ∨ kind = .rect)
    (hk' : kind' = .row ∨ kind' = .rect) (hw : w ≤ 256) (hw' : w' ≤ 256) (hr : r ≠ r') :
    Apart (rowShape kind r w f) (rowShape kind' r' w' f') := by
  intro i j k b hi hj h h'
  exact hr ((occupies_row hk hw hi h).symm.trans (occupies_row hk' hw' hj h'))

theorem test_met_select : vec0.entry 9 = some (rowShape .row 8 8 .uint4) ∧ vec0.sr.nmsel = 0 ∧
    (rowShape .row 1 4 .fp32).count vec0.sr.vl % 4 = 0 ∧ 4 / 4 * 2 ≤ (rowShape .row 0 4 .fp32).cap ∧ 4 / 4 * 2 ≤ (rowShape .row 8 8 .uint4).cap ∧
    Apart (rowShape .row 0 4 .fp32) (rowShape .row 8 8 .uint4) :=
  ⟨by decide, by decide, by decide, by decide, by decide, apart_rows (.inl rfl) (.inl rfl) (by decide) (by decide) (by decide)⟩
theorem test_met_quantise : vec0.entry 7 = some (rowShape .rect 6 32 .mxfp4) ∧ vec0.entry 8 = some (rowShape .row 7 4 .e8m0) ∧
    Source vec0 5 (rowShape .rect 4 32 .fp32) (fun j => (readElem vec0.plane (rowShape .rect 4 32 .fp32) j, 0)) none ∧ Wide .fp32 ∧
    Pairs .mxfp4 .e8m0 ∧ Pairs .uint4 .qpair ∧ (quantBlocks (rowShape .rect 4 32 .fp32) 32 (block .mxfp4 vec0)).length ≤ 4 ∧
    (rowShape .rect 6 32 .mxfp4).w = block .mxfp4 vec0 * ceilDiv 32 (block .mxfp4 vec0) ∧
    Apart (rowShape .rect 6 32 .mxfp4) (rowShape .row 7 4 .e8m0) :=
  ⟨by decide, by decide, .inl ⟨by decide, rfl, rfl, rfl⟩, .inl rfl, .inl ⟨.inl rfl, rfl⟩, .inr ⟨.inl rfl, rfl⟩, by decide +kernel,
    by decide, apart_rows (.inr rfl) (.inl rfl) (by decide) (by decide) (by decide)⟩
theorem test_met_dequantise : vec0.entry 6 = some (rowShape .rect 5 32 .fp32) ∧ (rowShape .rect 5 32 .fp32).count vec0.sr.vl = 32 ∧
    (rowShape .rect 6 32 .mxfp4).count vec0.sr.vl = 32 := by decide
/-- A chain of one stage behind entry 5, and the seat in which that stage stands open. -/
def chain0 : Chain := ⟨rowShape .rect 4 32 .fp32, 5, 0, none, [4], []⟩
def stage0 : Cap := { vec0.capture (.vhadC 5 4 0) (.had 4 true) .v with a := some chain0.shape, chain := some { chain0 with stages := [] } }
/-- The same seat once nothing can follow the stage any more. -/
def stage0q : Seat := { vec0 with pend := [stage0] }
def chained : Seat := { vec0 with byp := some chain0, pend := [stage0] }
theorem test_met_hadamard : 2 ^ ((4 : BitVec 6).toNat + 1) ≤ qblock chained ∧ WholeBlocks (rowShape .rect 4 32 .fp32) 32 (qblock chained) ∧
    Chains (on chained) 0 chained ∧ ∃ src ch, Source chained 63 (rowShape .rect 4 32 .fp32) src ch :=
  ⟨by decide, by show 32 % 32 = 0; decide, { toCtl := on_ctl chained, idle := idle_of (by decide), hold := rfl, plane := by decide },
    _, _, .inr ⟨rfl, chain0, stage0, rfl, rfl, rfl, by decide, rfl, rfl, by show 32 % 32 = 0; decide, by decide⟩⟩
theorem test_met_chain_end : Seat.Idle { stage0q with pend := [] } ∧ stage0q.pend = [stage0] ∧ stage0q.byp = none ∧ stage0.d = none ∧
    stage0.partial_ = false ∧ stage0.lim = none ∧ stage0.only = none ∧ stage0.did = [] ∧ stage0.vl = stage0q.sr.vl ∧
    stage0.qblk = stage0q.sr.qblk ∧ stage0.excen = stage0q.sr.excen ∧ stage0.seed = stage0q.sr.seed ∧ stage0.ovfns = stage0q.sr.ovfns :=
  ⟨idle_of (by decide), by decide⟩

/-- Ones in the first two rows, but for the last divisor, which is 0; division by zero is enabled. -/
def divides : Seat :=
  { vec0 with plane := (List.range 4).map (fun i => (i, 0x3F800000#32)) ++ (List.range 3).map (fun i => (256 + i, 0x3F800000#32))
              sr := { vec0.sr with excen := 8 } }
theorem test_met_stop : Vec (on divides) 0 divides 0 4 ∧
    (let r := fun j => elem .div divides (rowShape .row 2 4 .fp32) (rowShape .row 0 4 .fp32) .fp32 false
      (readElem divides.plane (rowShape .row 1 4 .fp32) j) (intValue .fp32 (readElem divides.plane (rowShape .row 1 4 .fp32) j)) j
    (∀ j, j < 3 → active divides 0 j = true → (r j).2 &&& divides.sr.excen &&& 0x1C#5 = 0) ∧ (r 3).2 &&& divides.sr.excen &&& 0x1C#5 ≠ 0) :=
  ⟨on_vec (idle_of (by decide)) (by decide) (.inl rfl), by decide +kernel⟩

/-! ### Hypotheses met: vector memory -/

/-- The translations of a pass, if all of them succeed. -/
def pass (key : Nat) (q : Seat) (k : AKind) : List EAcc → State → Option (List EHit × State)
  | [], s => some ([], s)
  | a :: rest, s =>
    if a.va.toNat % a.n = 0 ∧ ({ q with noWatch := false }).watchHit a.va.toNat a.n k.writes = none then
      match s.translate (q.who key) k a.va with
      | (.ok h, s') => (pass key q k rest s').map fun r => (⟨a, h⟩ :: r.1, r.2)
      | _ => none
    else none
theorem pass_sound {key : Nat} {q : Seat} {k : AKind} {l : List EAcc} {s : State} {r : List EHit × State}
    (e : pass key q k l s = some r) : Translates key q k l s r.1 r.2 := by
  induction l generalizing s r with
  | nil => cases e; exact .nil s
  | cons a rest ih =>
    simp only [pass] at e
    split at e
    · rename_i c
      split at e
      · rename_i h s' t
        cases p : pass key q k rest s' with
        | none => simp [p] at e
        | some y => simp [p] at e; subst e; exact .cons c.1 t c.2 (ih p)
      · cases e
    · cases e

/-- The elements read, if every read succeeds. -/
def reads (key : Nat) (q : Seat) : List EHit → State → Option (List (Nat × Nat × Bool) × State)
  | [], s => some ([], s)
  | x :: rest, s =>
    match s.readElemAt key q.cin x with
    | .ok (v, e, s') => (reads key q rest s').map fun r => ((x.acc.i, v, e) :: r.1, r.2)
    | .error _ => none
theorem reads_sound {key : Nat} {q : Seat} {l : List EHit} {s : State} {r : List (Nat × Nat × Bool) × State}
    (e : reads key q l s = some r) : Fetches key q l s r.1 r.2 := by
  induction l generalizing s r with
  | nil => cases e; exact .nil s
  | cons x rest ih =>
    simp only [reads] at e
    split at e
    · rename_i v b s' t
      cases p : reads key q rest s' with
      | none => simp [p] at e
      | some y => simp [p] at e; subst e; exact .cons t (ih p)
    · cases e

/-- A pass that translates, and whose elements are read. -/
theorem passes {key : Nat} {q : Seat} {k : AKind} {l : List EAcc} {s : State}
    (e : (match pass key q k l s with | some (hs, t) => (reads key q hs t).isSome | none => false) = true) :
    ∃ hs s' got t, Translates key q k l s hs s' ∧ Fetches key q hs s' got t := by
  cases p : pass key q k l s with
  | none => simp [p] at e
  | some r =>
    cases h : reads key q r.1 r.2 with
    | none => simp [p, h] at e
    | some y => exact ⟨_, _, _, _, pass_sound p, reads_sound h⟩

/-- Entries as before; s1 holds an address and s2 a stride. -/
def mem0 : Seat := reg (reg vec0 1 0x30000) 2 0x100
theorem test_met_unit : (∃ hs s' got t, Translates 0 mem0 .vload (elements mem0 .unit (rowShape .row 0 4 .fp32) none (mem0.reg 1) 0 0) (on mem0) hs s' ∧
    Fetches 0 mem0 hs s' got t) ∧ Vec (on mem0) 0 mem0 0 4 ∧ (MemForm.mk (fun v b _ _ m => .vld v b m) .unit).fits mem0 (rowShape .row 0 4 .fp32) none (mem0.reg 1) 0 :=
  ⟨passes (by decide +kernel), on_vec (idle_of (by decide)) (by decide) (.inl rfl), rfl, by decide⟩
theorem test_met_strided : (∃ hs s' got t, Translates 0 mem0 .vload (elements mem0 .strided (rowShape .row 0 4 .fp32) none (mem0.reg 1) (mem0.reg 2) 0) (on mem0) hs s' ∧
    Fetches 0 mem0 hs s' got t) ∧ (MemForm.mk (fun v b st _ m => .vlds v b st m) .strided).fits mem0 (rowShape .row 0 4 .fp32) none (mem0.reg 1) (mem0.reg 2) :=
  ⟨passes (by decide +kernel), rfl, by decide, by decide, by decide⟩
theorem test_met_pitched : (∃ hs s' got t, Translates 0 mem0 .vload (elements mem0 .pitched (rowShape .rect 4 4 .fp32) none (mem0.reg 1) (mem0.reg 2) 0) (on mem0) hs s' ∧
    Fetches 0 mem0 hs s' got t) ∧ (MemForm.mk (fun v b st _ m => .vld2 v b st m) .pitched).fits mem0 (rowShape .rect 4 4 .fp32) none (mem0.reg 1) (mem0.reg 2) :=
  ⟨passes (by decide +kernel), rfl, rfl, by decide, by decide⟩
theorem test_met_indexed : (∃ hs s' got t, Translates 0 mem0 .vload (elements mem0 (.indexed true) (rowShape .row 0 4 .fp32) (mem0.entry 4) (mem0.reg 1) 0 0) (on mem0) hs s' ∧
    Fetches 0 mem0 hs s' got t) ∧ (MemForm.mk (fun v b _ vi m => .vldx v b vi 0 0 m) (.indexed true)).fits mem0 (rowShape .row 0 4 .fp32) (mem0.entry 4) (mem0.reg 1) 0 :=
  ⟨passes (by decide +kernel), by decide, rowShape .row 3 4 .int32, by decide, by decide, held_in (by decide), .inl rfl⟩
theorem test_met_stores : ∃ hs s', Translates 0 mem0 .vstore (elements mem0 .unit (rowShape .row 0 4 .fp32) none (mem0.reg 1) 0 0) (on mem0) hs s' := by
  have : (pass 0 mem0 .vstore (elements mem0 .unit (rowShape .row 0 4 .fp32) none (mem0.reg 1) 0 0) (on mem0)).isSome = true := by decide +kernel
  obtain ⟨r, e⟩ := Option.isSome_iff_exists.mp this
  exact ⟨_, _, pass_sound e⟩

/-- A base four bytes before the end of the mapped memory: element 1 is not mapped. -/
def edge : Seat := reg (vl vec0 2) 1 0xFFFFFFFFC
theorem test_met_shorten : ∃ hs s' f s'' got t, Translates 0 edge .vload (((List.range 1).filter (active edge 0)).map
      (element edge .unit (rowShape .row 0 4 .fp32) none (edge.reg 1) 0)) (on edge) hs s' ∧
    s'.translate (edge.who 0) .vload (element edge .unit (rowShape .row 0 4 .fp32) none (edge.reg 1) 0 1).va = (.fault f, s'') ∧
    Fetches 0 edge hs s'' got t := by
  have e1 : (match pass 0 edge .vload (((List.range 1).filter (active edge 0)).map
      (element edge .unit (rowShape .row 0 4 .fp32) none (edge.reg 1) 0)) (on edge) with
    | some (hs, u) => (match u.translate (edge.who 0) .vload (element edge .unit (rowShape .row 0 4 .fp32) none (edge.reg 1) 0 1).va with
      | (.fault _, v) => (reads 0 edge hs v).isSome | _ => false)
    | none => false) = true := by decide +kernel
  split at e1
  · rename_i hs u p
    split at e1
    · rename_i f v t
      obtain ⟨y, e⟩ := Option.isSome_iff_exists.mp e1
      exact ⟨hs, u, f, v, y.1, y.2, pass_sound p, t, reads_sound e⟩
    · cases e1
  · cases e1

/-- An element of a nibble at a fleeting address. -/
def nibble : EHit := ⟨⟨0, 0x2000000000, 1, some 1⟩, ⟨fleetBase 0, 1, 1, fleetBase 0⟩⟩
theorem test_met_nibble : (on s0).seat 0 = some s0 ∧ nibble.acc.nib = some 1 ∧ nibble.hit.mt = 1 ∧ Memory.wf (on s0).mem = true :=
  ⟨rfl, rfl, rfl, by decide +kernel⟩

/-- A ring for retired vector instructions at 0x40000, or at an address that is not mapped. -/
def ringed (base : Nat) : Seat := { s0 with sr := { s0.sr with rvbase := BitVec.ofNat 51 base } }
theorem test_met_ring : (ringed 0x20).sr.rvbase ≠ 0 ∧ (∃ h t, ({ on (ringed 0x20) with freeN := 1 } : State).translate ((ringed 0x20).engine 0) .estore
    (((ringed 0x20).sr.rvbase ++ 0#13) + BitVec.ofNat 64 (32 * ((ringed 0x20).sr.rvcnt.toNat % 256))) = (.ok h, t) ∧ decide (h.mt = 0) = true) ∧
    ∃ f t, ({ on (ringed (2 ^ 45)) with freeN := 1 } : State).translate ((ringed (2 ^ 45)).engine 0) .estore
      (((ringed (2 ^ 45)).sr.rvbase ++ 0#13) + BitVec.ofNat 64 (32 * ((ringed (2 ^ 45)).sr.rvcnt.toNat % 256))) = (.fault f, t) :=
  ⟨by decide, xl_ok (fun h _ => decide (h.mt = 0)) (by decide +kernel), _, _, rfl⟩

/-- CAP of an append buffer at 0x30000 is 2. -/
def buffer : State := (on mem0).homePut 0x30004 [2]
def appends (h : Hit) (s' : State) : Bool :=
  let u := s'.flushInval 0 mem0.cin h.pa
  let r := u.reserve mem0.cin 0 h 4
  (({ mem0 with noWatch := false }).headerWatch (mem0.reg 1) (decide (0 < u.refused h 4))).isNone &&
    decide (h.mt = 0 ∧ r.1 = 0 ∧ r.2.1 = 2 ∧ r.2.2.1 = false) &&
    (pass 0 mem0 .vstore [⟨0, mem0.reg 1 + 64, 4, none⟩, ⟨1, mem0.reg 1 + 68, 4, none⟩] r.2.2.2).isSome
theorem test_met_append : (mem0.reg 1).toNat % 64 = 0 ∧
    ∃ h s', buffer.translate (mem0.who 0) .atomic (mem0.reg 1) = (.ok h, s') ∧ appends h s' = true :=
  ⟨by decide, xl_ok appends (by decide +kernel)⟩
theorem test_met_gather : (passOver 0 mem0 { mem0.capture (.cpix 1 4 1 1 62) (.cpix 1 62) .v with unwatched := true } .vload true
    ((List.range 4).map fun j => (⟨j, mem0.reg 1, 4, none⟩ : EAcc)) (on mem0)).wait = false ∧ 62 ∉ mem0.tagsOut ∧ (62 : BitVec 6) ≠ 63 := by
  decide +kernel

/-! ### Hypotheses met: the matrix array -/

/-- A BF16 tile of zeros in both buffers; entry 1 is a RECT of two BF16 rows and entry 2 a ROW. -/
def tile0 : Tile := ⟨.bf16, .dense, 256, 0, 256, [], []⟩
def mx0 : Seat := entry (entry { s0 with buf := Vector.replicate 2 (some tile0) } 1 ⟨.rect, 0, 0, 2, 4, .bf16⟩) 2 (rowShape .row 2 4 .bf16)

theorem acc_quiet {q : Seat} (h : q.sr.excen = 0) (r c : Nat) (f : Nat → Nat → Flags) : AccQuiet q r c f := by
  intro i n _ _; simp [h]
theorem test_met_row_step : Mx (on mx0) 0 mx0 ∧ mx0.entry 2 = some (rowShape .row 2 4 .bf16) ∧ Steps mx0 (rowShape .row 2 4 .bf16) tile0 511 1 ∧
    mx0.sr.excen = 0 :=
  ⟨{ toClear := on_clear (idle_of (by decide)), acc := by decide }, by decide, ⟨by decide, by decide, by decide, by decide⟩, by decide⟩
theorem test_met_row_steps : mx0.entry 1 = some ⟨.rect, 0, 0, 2, 4, .bf16⟩ ∧ Steps mx0 ⟨.rect, 0, 0, 2, 4, .bf16⟩ tile0 510 2 ∧ 4 ≤ tile0.k :=
  ⟨by decide, ⟨by decide, by decide, by decide, by decide⟩, by decide⟩

/-- A signalling NaN at the start of the second row, and NV enabled; the tile has four rows. -/
def nans : Seat :=
  { mx0 with plane := [(256, 0x7F81#32)], sr := { mx0.sr with excen := 16 }, buf := Vector.replicate 2 (some { tile0 with k := 4 }) }
theorem test_met_row_step_stop : Mx (on nans) 0 nans ∧ Steps nans ⟨.rect, 0, 0, 2, 4, .bf16⟩ { tile0 with k := 4 } 0 2 ∧
    (∀ n, n < 128 → (column nans { tile0 with k := 4 } ⟨.rect, 0, 0, 2, 4, .bf16⟩ (nans.entry nans.sr.mxsa) 0 0 4 0 n).2 &&& nans.sr.excen &&& 0x1C#5 = 0) ∧
    (column nans { tile0 with k := 4 } ⟨.rect, 0, 0, 2, 4, .bf16⟩ (nans.entry nans.sr.mxsa) 0 1 4 1 127).2 &&& nans.sr.excen &&& 0x1C#5 ≠ 0 :=
  ⟨{ toClear := on_clear (idle_of (by decide)), acc := by decide }, ⟨by decide, by decide, by decide, by decide⟩, by decide +kernel, by decide +kernel⟩
theorem test_met_acc_moves : (510 : BitVec 9).toNat + 2 ≤ (if mx0.single then 512 else 256) ∧ InPlane ⟨.rect, 0, 0, 2, 4, .bf16⟩ ∧
    mapWf 0#32 mx0.plane = true ∧ (448 : BitVec 9).toNat + ((63 : BitVec 6).toNat + 1) ≤ (if mx0.single then 512 else 256) :=
  ⟨by decide, by show 0 + 4 ≤ 256 * 2; decide, by decide, by decide⟩

/-- LDST of a BF16 tile at 0x30000; with `.ff` at a tile of which only the first row is mapped. -/
def loads (a : Word) (ff : Bit) : Cap × Seat :=
  let q := reg s0 1 a
  ({ q.capture (.ldst 1 0 ff 0 1) (.ldst (ff == 1) .dense (blockSize q.sr.qblk) .bf16) .m with x := q.reg 1, y := 0 }, q)
theorem test_met_tile : LoadsTile (loads 0x30000 0).2 1 0 0 .bf16 256 ∧ Fmt.ofCode (1 : BitVec 4).toNat = some .bf16 :=
  ⟨⟨by decide, by decide, by decide, by decide, by decide⟩, by decide⟩
theorem test_met_tile_rows : (loadRows ((loads 0x30000 0).2.engine 0) (loads 0x30000 0).1 (List.range 4) ⟨.bf16, .dense, 4, 32, 0, [], []⟩
    (on (loads 0x30000 0).2)).2.1 = none := by decide +kernel
theorem test_met_tile_prefix : ((loadRows ((loads 0xFFFFFFF00 1).2.engine 0) (loads 0xFFFFFFF00 1).1 (List.range 4) ⟨.bf16, .dense, 4, 32, 0, [], []⟩
    (on (loads 0xFFFFFFF00 1).2)).2.1).map (·.1) = some 1 := by decide +kernel
theorem test_met_tile_plane : tileK .dense .bf16 = some 256 ∧ mx0.single = true ∧ ({ mx0 with single := false } : Seat).single = false := by decide

/-! ### Hypotheses met: copy commands -/

/-- A descriptor at 0x30000 of one element from 0x31000 to 0x32000, and the seat that names it. -/
def desc0 : Desc := ⟨0x31000, 0x32000, 0, 0, .fp32, .fp32, 1, false, 0, 62, true, 61, 0, 0⟩
def copier : Seat := reg (reg s0 1 1) 2 0x30000
def described (d : Desc) : State :=
  { (on copier).homePut 0x30000 (d.bytes (List.replicate 16 0)) with
    vis := [(copier.vi, ⟨⟨0, 0, 0, 64, [], [], 0⟩, 0, 0, [], [(copier.handle, 0x40000, [1, 2], 0)], [], 0⟩)] }

/-- What a load of the descriptor must answer, and `more` of the package behind it. -/
def reading (d : Desc) (more : State → Bool) (h : Hit) (s : State) : Bool :=
  okAnd (s.read 0 copier.cin h 64) fun r => decide (r.bytes = d.bytes (List.replicate 16 0)) && more r.st
/-- The common hypotheses of the copy commands. -/
theorem copies (d : Desc) (x : Xfer) (more : State → Bool) (ht : x.tag ∉ copier.tagsOut ∧ ∀ o, x.octag = some o → o ∉ copier.tagsOut)
    (e : hitAnd ((described d).translate (copier.who 0) (.load 64) (copier.reg 2)) (reading d more) = true) :
    ∃ e t, Copies (described d) 0 copier 3 (copier.reg 2) (copier.reg 1) x (d.bytes (List.replicate 16 0)) e t ∧ more t = true := by
  obtain ⟨h, s, a, hr⟩ := accesses (align := 64) (lo := (copier.reg 2).toNat) (n := 64) (reading d more) e (by decide) (by decide)
  obtain ⟨⟨bytes, ex, t⟩, hr, hb⟩ := ex_ok _ hr
  simp only [Bool.and_eq_true, decide_eq_true_eq] at hb
  obtain ⟨rfl, hm⟩ := hb
  exact ⟨ex, t, { toClear := { toCtl := ⟨rfl, rfl⟩, idle := idle_of (by decide), hold := rfl }, channel := by decide, tags := ht
                  load := ⟨h, s, a, hr⟩, some_ := by decide }, hm⟩

theorem test_met_copy : desc0.mode copier = some .rne ∧ desc0.common (copier.reg 1) ∧ desc0.isCopy ∧
    ∃ e t, Copies (described desc0) 0 copier 3 (copier.reg 2) (copier.reg 1) (desc0.xfer copier (copier.reg 2) (copier.reg 1) .rne)
      (desc0.bytes (List.replicate 16 0)) e t ∧ true = true :=
  ⟨by decide, ⟨by decide, by decide, by decide, by decide, by decide⟩, ⟨rfl, rfl, rfl, by decide, by decide, .inl rfl⟩,
    copies desc0 _ (fun _ => true) (by decide) (by decide +kernel)⟩
/-- A prefetch, an image and a routine. -/
def prefetch0 : Desc := { desc0 with dst := 0, kind := 0, ocv := false, octag := 0 }
def routine0 : Desc := { desc0 with routine := 0x40000 }
theorem test_met_prefetch : prefetch0.common (copier.reg 1) ∧ prefetch0.isPrefetch ∧
    ∃ e t, Copies (described prefetch0) 0 copier 3 (copier.reg 2) (copier.reg 1) (prefetch0.xfer copier (copier.reg 2) (copier.reg 1) .rne)
      (prefetch0.bytes (List.replicate 16 0)) e t ∧ true = true :=
  ⟨⟨by decide, by decide, by decide, by decide, by decide⟩, ⟨rfl, rfl, rfl, rfl, rfl, rfl, rfl, rfl, by decide⟩,
    copies prefetch0 _ (fun _ => true) (by decide) (by decide +kernel)⟩
theorem test_met_image : desc0.isImage := ⟨⟨rfl, rfl, rfl, rfl, rfl, rfl, rfl⟩, rfl, rfl, by decide⟩
theorem test_met_routine_core : ((described routine0).setSeat 0 copier).coreFree ((List.range 8).map (8 * dieOf (copier.place 0) + ·)) = some 0 := by decide
theorem test_met_routine : routine0.isRoutine ∧ (described routine0).routineImage copier.vi copier.handle routine0.routine = some [1, 2] ∧
    ∃ e t, Copies (described routine0) 0 copier 3 (copier.reg 2) (copier.reg 1) (routine0.xfer copier (copier.reg 2) (copier.reg 1) .rne)
      (routine0.bytes (List.replicate 16 0)) e t ∧
      okAnd (t.fillChunk (copier.engine 0) (routine0.xfer copier (copier.reg 2) (copier.reg 1) .rne) 0) (fun _ => true) = true :=
  ⟨⟨⟨rfl, rfl, rfl, rfl, rfl, rfl, rfl⟩, by decide⟩, by decide, copies routine0 _
    (fun t => okAnd (t.fillChunk (copier.engine 0) (routine0.xfer copier (copier.reg 2) (copier.reg 1) .rne) 0) fun _ => true) (by decide)
    (by decide +kernel)⟩

/-- A transfer at work on channel 3. -/
def active0 (cmd : Cmd) (ran : Bool) : Active :=
  ⟨s0.capture (.cpcfg 1 2 3) cmd (.c 3), 0, if ran then 0 else 1, [], 0, false, ran, none, 0, none⟩
def working (cmd : Cmd) (ran : Bool) : Seat := { s0 with chan := s0.chan.set 3 (some (active0 cmd ran)) }
def xfer0 : Xfer := desc0.xfer copier 0x30000 1 .rne
def image0 : Xfer := { xfer0 with avl := 1, src := 0x34000, dst := 0x2000000000 }
theorem test_met_copy_waits : (s0.chan[3]) = none ∧ (working (.prefetch xfer0) false).chan[3] = some (active0 (.prefetch xfer0) false) ∧
    (working (.copy xfer0) false).chan[3] = some (active0 (.copy xfer0) false) ∧ ((reg s0 1 32).reg 1).toNat % 64 ≠ 0 := by decide
theorem test_met_copy_done : xfer0.desc.toNat % 64 = 0 ∧ ∃ h s', (on (working (.copy xfer0) false)).translate ((working (.copy xfer0) false).engine 0) .estore
    (xfer0.desc + 48) = (.ok h, s') ∧ decide (h.mt = 0) = true :=
  ⟨by decide, xl_ok (fun h _ => decide (h.mt = 0)) (by decide +kernel)⟩
theorem test_met_copy_runs : Working (on (working (.copy xfer0) false)) 0 (working (.copy xfer0) false) 3 (active0 (.copy xfer0) false) ∧
    ((on (working (.copy xfer0) false)).runCopy 0 xfer0).isSome = true ∧ xfer0.octag = some 61 :=
  ⟨⟨by decide, rfl, by decide⟩, by decide +kernel, rfl⟩
theorem test_met_image_runs : ((page (leafOf 0x100000 2 0) (on (working (.image image0) false))).runImage 0 image0).isSome = true := by
  decide +kernel
theorem test_met_copy_ran : (active0 (.copy xfer0) true).ran = true ∧ (active0 (.prefetch xfer0) true).left ≤ 0 := by decide
theorem test_met_routine_drains : ∃ s', (on (working (.xform xfer0) false)).enginePut ((working (.xform xfer0) false).engine 0) [0] 2
    (xfer0.dst + BitVec.ofNat 64 0) [7] = .ok s' ∧ (s'.fillChunk ((working (.xform xfer0) false).engine 0) xfer0 0).toBool = true :=
  ex_ok (fun (s' : State) => (s'.fillChunk ((working (.xform xfer0) false).engine 0) xfer0 0).toBool) (by decide +kernel)

/-- A gather of one element in the background. -/
def gathering : Seat :=
  { vec0 with tagsOut := [62], gathers := [⟨{ vec0.capture (.cpix 1 4 1 1 62) (.cpix 1 62) .v with d := vec0.entry 1 }, [(0x30000, 0, 0, 0x30000)], 1, none⟩] }
theorem test_met_gather_ends : ∃ g, gathering.gathers.find? (fun h => h.tag = 62) = some g ∧ g.cap.cmd = .cpix 1 62 ∧ g.cap.d = some (rowShape .row 0 4 .fp32) :=
  ⟨_, rfl, rfl, rfl⟩

/-! ### Hypotheses met: streams and collectives -/

/-- A stream object at 0x30000 with rings of two entries, one key/value slot and one checkpointed row. -/
def object (g b : Word) (cfg inn : Nat) : List Byte :=
  leBytes 8 g.toNat ++ leBytes 8 1 ++ leBytes 8 4 ++ leBytes 8 b.toNat ++ leBytes 4 0 ++ leBytes 4 cfg ++ leBytes 8 1000 ++
    leBytes 4 10 ++ leBytes 4 0 ++ leBytes 8 0x31000 ++ leBytes 8 0x32000 ++ leBytes 8 0x33000 ++ leBytes 8 0x40000 ++
    leBytes 2 2 ++ leBytes 2 inn ++ leBytes 4 1
/-- Positions 1 and 2 are in the egress ring, the first sent; the input ring holds one descriptor; slot 0 checkpoints 1. -/
def stream0 : Stream :=
  ⟨0x30000, 0x30000, [⟨7, 1, 0, true⟩], 0, 1, 0, 1, [(0, 1, 0)], 1, none, []⟩
def fullStream : Stream := { stream0 with egress := [⟨7, 1, 0, true⟩, ⟨8, 2, 0, false⟩] }
def streaming (st : Stream) (obj : List Byte) (q : Seat) : State :=
  { (on q).homePut 0x30000 obj with
    streams := [(0, st)]
    vis := [(0, ⟨⟨0, 0, 0, 64, [], [], 0⟩, 0, 0, [], [], [], 0⟩)] }
def streamer : Seat := reg s0 2 0x34000
def whole (p : SObj → State → Bool) (r : SObj × State) : Bool := p r.1 r.2

/-- The hypotheses of an S-queue command on stream 0. -/
theorem on_stream (st : Stream) (obj : List Byte) (p : SObj → State → Bool)
    (e : okAnd ((streaming st obj streamer).sobj (streamEngine streamer 0) st) (whole p) = true) :
    ∃ o t, OnStream (streaming st obj streamer) 0 streamer (streamer.reg 0) st o t ∧ p o t = true := by
  obtain ⟨⟨o, t⟩, h, hp⟩ := ex_ok (whole p) e
  exact ⟨o, t, { toCtl := ⟨rfl, rfl⟩, idle := idle_of (by decide), hold := rfl
                 bound := ⟨by decide, by simp [streaming, streamer, mapFind, Seat.reg, reg]; rfl⟩, object := h, reset := rfl }, hp⟩

def done {α : Type} : Area α → Bool
  | .ok _ => true
  | _ => false
/-- The package after the two engine writes of an SAPP. -/
def appended (st : Stream) (o : SObj) (t : State) : Area State :=
  (t.areaPut (streamEngine streamer 0) [coreOf 0] (o.egbase + BitVec.ofNat 64 (16 * ((st.egHead + st.egress.length) % o.egn)))
    (leBytes 8 (streamer.reg 1).toNat ++ leBytes 4 o.g.toNat ++ leBytes 4 o.a.toNat)).bind fun t1 =>
      t1.areaPut (streamEngine streamer 0) [coreOf 0] st.obj (leBytes 8 (o.g + 1).toNat)
/-- The package after the engine writes of an SCKP. -/
def checkpointed (st : Stream) (o : SObj) (t : State) : Area State :=
  ckptGo (streamEngine streamer 0) (coreOf 0) streamer o st.nextSlot (List.range (o.cknm1 + 1)) t
/-- The package after the engine writes of an STRUNC. -/
def truncated (st : Stream) (o : SObj) (t : State) : Area State :=
  ((kvGo (streamEngine streamer 0) (coreOf 0) 0 o (List.range o.kvn) t).bind fun t1 =>
    t1.areaPut (streamEngine streamer 0) [coreOf 0] st.obj (leBytes 8 o.b.toNat)).bind fun t2 =>
      t2.areaPut (streamEngine streamer 0) [coreOf 0] (st.obj + 24) (List.replicate 8 0xFF)

theorem test_met_barge : ∃ o t, OnStream (streaming stream0 (object 3 2 0 2) streamer) 0 streamer (streamer.reg 0) stream0 o t ∧
    (decide (¬ noBarge o) && done (truncated stream0 o t)) = true :=
  on_stream stream0 _ (fun o t => decide (¬ noBarge o) && done (truncated stream0 o t)) (by decide +kernel)
theorem test_met_egress_full : ∃ o t, OnStream (streaming fullStream (object 3 (BitVec.allOnes 64) 0 2) streamer) 0 streamer (streamer.reg 0) fullStream o t ∧
    (decide (noBarge o) && decide (o.egn ≤ fullStream.egress.length)) = true :=
  on_stream fullStream _ (fun o _ => decide (noBarge o) && decide (o.egn ≤ fullStream.egress.length)) (by decide +kernel)
theorem test_met_sapp : ∃ o t, OnStream (streaming stream0 (object 3 (BitVec.allOnes 64) 0 2) streamer) 0 streamer (streamer.reg 0) stream0 o t ∧
    (decide (noBarge o) && decide (stream0.egress.length < o.egn) && done (appended stream0 o t)) = true :=
  on_stream stream0 _ (fun o t => decide (noBarge o) && decide (stream0.egress.length < o.egn) && done (appended stream0 o t)) (by decide +kernel)
theorem test_met_checkpoint : ∃ o t, OnStream (streaming stream0 (object 3 (BitVec.allOnes 64) 0 2) streamer) 0 streamer (streamer.reg 0) stream0 o t ∧
    (decide (o.ckacc + o.cknm1 < (if streamer.single then 512 else 256)) && done (checkpointed stream0 o t)) = true :=
  on_stream stream0 _ (fun o t => decide (o.ckacc + o.cknm1 < (if streamer.single then 512 else 256)) && done (checkpointed stream0 o t))
    (by decide +kernel)
theorem test_met_no_stream : mapFind (on streamer).streams (256 * streamer.ctx + (streamer.reg 0).toNat) = none ∧ Clear (on streamer) 0 streamer :=
  ⟨rfl, on_clear (idle_of (by decide))⟩

/-- What SRECV of a descriptor must find: the destination's translation, then the object, and `more` of it. -/
def receiving (st : Stream) (more : SObj → State → Bool) (_ : Hit) (s : State) : Bool :=
  okAnd (s.sobj (streamEngine streamer 0) st) (whole more)
theorem receives (st : Stream) (obj : List Byte) (more : SObj → State → Bool)
    (e : hitAnd ((streaming st obj streamer).translate (streamer.who 0) (.store 32) (streamer.reg 2)) (receiving st more) = true) :
    ∃ h s' o t, Accesses (streaming st obj streamer) 0 streamer (.store 32) (streamer.reg 2) 32 0 0 h s' ∧
      s'.sobj (streamEngine streamer 0) st = .ok (o, t) ∧ more o t = true := by
  obtain ⟨h, s', a, hr⟩ := accesses (align := 32) (lo := 0) (n := 0) (receiving st more) e (by decide) (by decide)
  obtain ⟨⟨o, t⟩, ho, hm⟩ := ex_ok (whole more) hr
  exact ⟨h, s', o, t, a, ho, hm⟩
/-- The oldest descriptor is there, and is late or not. -/
def descriptor (st : Stream) (late : Bool) (o : SObj) (t : State) : Bool :=
  match t.areaGet (streamEngine streamer 0) (o.inbase + BitVec.ofNat 64 (32 * (st.inHead % o.inn))) 32 with
  | .ok (bs, _) => (leNat bs).testBit 97 == late && o.cfg.getLsbD 0 == late
  | _ => false
theorem test_met_receive : ∃ h s' o t, Accesses (streaming stream0 (object 3 (BitVec.allOnes 64) 0 2) streamer) 0 streamer (.store 32)
    (streamer.reg 2) 32 0 0 h s' ∧ s'.sobj (streamEngine streamer 0) stream0 = .ok (o, t) ∧ descriptor stream0 false o t = true :=
  receives stream0 _ (descriptor stream0 false) (by decide +kernel)
def lateFrame : State := (streaming stream0 (object 3 (BitVec.allOnes 64) 1 2) streamer).homePut 0x3200C [2]
theorem test_met_receive_late : hitAnd (lateFrame.translate (streamer.who 0) (.store 32) (streamer.reg 2))
    (receiving stream0 (descriptor stream0 true)) = true := by decide +kernel
theorem test_met_receive_empty : Clear (streaming { stream0 with inCount := 0 } (object 3 (BitVec.allOnes 64) 1 2) streamer) 0 streamer ∧
    ({ stream0 with inCount := 0 } : Stream).inCount = 0 :=
  ⟨{ toCtl := ⟨rfl, rfl⟩, idle := idle_of (by decide), hold := rfl }, rfl⟩

/-! Events of a stream. -/

/-- The context of the stream, and the object as its events read it. -/
def ctx1 : Ctx := { freshCtx 0 1 0 with nextLaunch := 2 }
theorem test_met_unroutable : (streaming stream0 (object 3 2 0 2) streamer).ctxs.find? (fun x => x.2.vi = 0 ∧ x.2.handle = 9) = none ∧
    (mapFind (streaming stream0 (object 3 2 0 2) streamer).vis 0).isSome = true := ⟨by decide, by decide⟩
theorem test_met_no_such_stream : mapFind (streaming stream0 (object 3 2 0 2) streamer).streams (256 * 0 + 9) = none ∧ 9 < 256 := ⟨by decide, by decide⟩
/-- The object's page is not mapped, or the frame's descriptor cannot be written. -/
theorem test_met_unreachable : okAnd ((streaming { stream0 with obj := 0x1000000000 } (object 3 2 0 2) streamer).sobj (streamWho 0 ctx1)
    { stream0 with obj := 0x1000000000 }) (fun _ => true) = false := by decide +kernel
def nowhere : List Byte := (object 3 2 0 2).take 64 ++ leBytes 8 0x1000000000 ++ (object 3 2 0 2).drop 72
theorem test_met_unrecorded : okAnd ((streaming stream0 nowhere streamer).sobj (streamWho 0 ctx1) stream0) (whole fun o t =>
    decide (stream0.inCount < o.inn) && (match t.areaPut (streamWho 0 ctx1) [] (o.inbase + 32) (List.replicate 32 0) with
      | .fault => true | _ => false)) = true := by decide +kernel
theorem test_met_routable : (streaming stream0 (object 3 2 0 2) streamer).ctxs.find? (fun x => x.2.vi = 0 ∧ x.2.handle = 1) = some (0, ctx1) := by
  decide
/-- A frame's writes: its descriptor and then A. -/
def framed (st : Stream) (o : SObj) (t : State) : Bool :=
  done ((t.areaPut (streamWho 0 ctx1) [] (o.inbase + BitVec.ofNat 64 (32 * ((st.inHead + st.inCount) % o.inn)))
    (leBytes 8 2000 ++ leBytes 4 5 ++ leBytes 4 0 ++ leBytes 8 0x50000 ++ leBytes 4 o.g.toNat ++ leBytes 4 (o.a.toNat % 2 ^ 32))).bind fun t1 =>
      (t1.setStream 0 { st with inCount := st.inCount + 1 }).areaPut (streamWho 0 ctx1) [] (st.obj + 16) (leBytes 8 (o.a + 1).toNat))
theorem test_met_frame : okAnd ((streaming stream0 (object 3 (BitVec.allOnes 64) 0 2) streamer).sobj (streamWho 0 ctx1) stream0) (whole fun o t =>
    decide (stream0.inCount < o.inn) && decide ((o.mtbase + o.p * o.sdur.setWidth 64).toNat ≤ (2000 : Word).toNat) && framed stream0 o t) = true := by
  decide +kernel
/-- A late frame's writes, its descriptor and LATE; and a BARGE frame's, its descriptor, A and B. -/
def framedLate (st : Stream) (o : SObj) (t : State) : Bool :=
  done ((t.areaPut (streamWho 0 ctx1) [] (o.inbase + BitVec.ofNat 64 (32 * ((st.inHead + st.inCount) % o.inn)))
    (leBytes 8 500 ++ leBytes 4 5 ++ leBytes 4 2 ++ leBytes 8 0x50000 ++ leBytes 4 o.g.toNat ++ leBytes 4 0xFFFFFFFF)).bind fun t1 =>
      (t1.setStream 0 { st with inCount := st.inCount + 1 }).areaPut (streamWho 0 ctx1) [] (st.obj + 32) (leBytes 4 (o.late + 1).toNat))
theorem test_met_frame_late : okAnd ((streaming stream0 (object 3 (BitVec.allOnes 64) 0 2) streamer).sobj (streamWho 0 ctx1) stream0) (whole fun o t =>
    decide (stream0.inCount < o.inn) && decide ((500 : Word).toNat < (o.mtbase + o.p * o.sdur.setWidth 64).toNat) && framedLate stream0 o t) = true := by
  decide +kernel
def framedBarge (st : Stream) (o : SObj) (t : State) : Bool :=
  done (((t.areaPut (streamWho 0 ctx1) [] (o.inbase + BitVec.ofNat 64 (32 * ((st.inHead + st.inCount) % o.inn)))
    (leBytes 8 2000 ++ leBytes 4 5 ++ leBytes 4 1 ++ leBytes 8 0x50000 ++ leBytes 4 o.g.toNat ++ leBytes 4 (o.a.toNat % 2 ^ 32))).bind fun t1 =>
      (t1.setStream 0 { st with inCount := st.inCount + 1 }).areaPut (streamWho 0 ctx1) [] (st.obj + 16) (leBytes 8 (o.a + 1).toNat)).bind fun t2 =>
        t2.areaPut (streamWho 0 ctx1) [] (st.obj + 24) (leBytes 8 o.p.toNat))
theorem test_met_frame_barge : okAnd ((streaming stream0 (object 3 (BitVec.allOnes 64) 0 2) streamer).sobj (streamWho 0 ctx1) stream0) (whole fun o t =>
    decide (noBarge o) && framedBarge stream0 o t) = true := by decide +kernel
theorem test_met_frame_dropped : okAnd ((streaming stream0 (object 3 (BitVec.allOnes 64) 0 1) streamer).sobj (streamWho 0 ctx1) stream0) (whole fun o t =>
    decide (o.inn ≤ stream0.inCount) && done (t.areaPut (streamWho 0 ctx1) [] (stream0.obj + 52) (leBytes 4 (o.dropin + 1).toNat))) = true := by
  decide +kernel
theorem test_met_acknowledged : okAnd ((streaming stream0 (object 3 (BitVec.allOnes 64) 0 2) streamer).sobj (streamWho 0 ctx1) stream0) (whole fun o t =>
    decide (o.p.toNat ≤ 1) && decide (1 < o.g.toNat) && decide (noBarge o) && decide (0 < o.egn) &&
      done (t.areaPut (streamWho 0 ctx1) [] (stream0.obj + 8) (leBytes 8 (1 + 1)))) = true ∧
    (∃ e ∈ stream0.egress, e.pos = (1 : Word).toNat ∧ e.sent = true) ∧ ∀ e ∈ stream0.egress, e.pos = (2 : Word).toNat → e.sent = false :=
  ⟨by decide +kernel, ⟨_, .head _, by decide, rfl⟩, by decide⟩

theorem test_met_egress_entry : fullStream.cancels = [] ∧ fullStream.egress = [⟨7, 1, 0, true⟩] ++ ⟨8, 2, 0, false⟩ :: [] ∧
    okAnd ((streaming fullStream (object 3 (BitVec.allOnes 64) 0 2) streamer).sobj (streamWho 0 ctx1) fullStream)
      (whole fun o _ => decide (noBarge o)) = true := ⟨rfl, rfl, by decide +kernel⟩
theorem test_met_egress_marker : ({ fullStream with cancels := [2] } : Stream).cancels = 2 :: [] ∧
    okAnd ((streaming { fullStream with cancels := [2] } (object 3 (BitVec.allOnes 64) 0 2) streamer).sobj (streamWho 0 ctx1)
      { fullStream with cancels := [2] }) (whole fun _ _ => true) = true := ⟨rfl, by decide +kernel⟩
theorem test_met_egress_nothing : stream0.cancels = [] ∧ ∀ e ∈ stream0.egress, e.sent = true := by decide

/-! Collectives. -/

/-- A GCAST descriptor: 64 bytes from 0x31000 to 0x32000, one package, tag 62. -/
def castDesc (rank root : Nat) : List Byte :=
  leBytes 8 0x31000 ++ leBytes 8 0x32000 ++ leBytes 8 64 ++ leBytes 2 0 ++ [1#8, BitVec.ofNat 8 rank, BitVec.ofNat 8 root] ++
    leBytes 3 62 ++ leBytes 8 9 ++ List.replicate 24 0
def inGroup : Seat := { reg s0 1 0x30000 with sr := { s0.sr with gslot := s0.sr.gslot.set 0 (some 5) } }
def casting : State := (on inGroup).homePut 0x30000 (castDesc 0 0)
theorem test_met_group_slot : s0.sr.gslot[(0 : BitVec 2).toNat] = none ∧ inGroup.sr.gslot[(0 : BitVec 2).toNat] = some 5 := by decide
theorem test_met_group_command : Clear casting 0 inGroup ∧ (∃ h s' e t, Accesses casting 0 inGroup (.load 64) (inGroup.reg 1) 64 (inGroup.reg 1).toNat 64 h s' ∧
    s'.read (coreOf 0) inGroup.cin h 64 = .ok ⟨castDesc 0 0, e, t⟩ ∧ (decide (t.coll 0 1 5 9 = none)) = true) ∧
    collBad (castDesc 0 0) false false = false ∧ (collDescOf (castDesc 0 0)).tag ∉ inGroup.tagsOut ∧ casting.inColl inGroup.ctx inGroup.launch inGroup.node = false := by
  refine ⟨{ toCtl := ⟨rfl, rfl⟩, idle := idle_of (by decide), hold := rfl }, ?_, by decide +kernel, by decide +kernel, by decide⟩
  obtain ⟨h, s', a, hr⟩ := accesses (s := casting) (key := 0) (q := inGroup) (k := .load 64) (a := inGroup.reg 1) (align := 64)
    (lo := (inGroup.reg 1).toNat) (n := 64)
    (fun h s => okAnd (s.read 0 inGroup.cin h 64) fun r => decide (r.bytes = castDesc 0 0) && decide (r.st.coll 0 1 5 9 = none))
    (by decide +kernel) (by decide) (by decide)
  obtain ⟨⟨b, e, t⟩, hr, hb⟩ := ex_ok _ hr
  simp only [Bool.and_eq_true, decide_eq_true_eq] at hb
  obtain ⟨rfl, hm⟩ := hb
  exact ⟨h, s', e, t, a, hr, by simpa using hm⟩

/-- A part of that collective. -/
def part0 (rank root : Nat) (red : Bool) (started : Bool) : CollPart :=
  ⟨0, collDescOf (castDesc rank root), red, 1, some 5, [(0x20000, 0x30000, collDescOf (castDesc rank root), red)], started, 0, [], 0, none, 0⟩
def collecting (p : CollPart) : State := { on inGroup with colls := [p] }
theorem test_met_part : (collecting (part0 0 0 false true)).coll 0 1 5 9 = some (part0 0 0 false true) ∧
    (collecting (part0 0 0 false false)).collMissing (part0 0 0 false false) = false ∧ (part0 0 0 false false).mismatched = false ∧
    ({ part0 0 0 false false with members := [(0x20000, 0x30000, collDescOf (castDesc 0 1), false)] } : CollPart).mismatched = true ∧
    (part0 1 0 false false).desc.rank ≠ (part0 1 0 false false).desc.root := by decide
/-- The root's first chunk goes out. -/
def sent (p : CollPart) : Bool :=
  let s := collecting p
  match castChunk (s.collWho 0) (s.collCores p) (s.collVi p) p.desc 0 (s.mapColl p fun _ => { p with started := true, acks := 0 }) with
  | some (_, none) => true
  | _ => false
theorem test_met_cast : sent (part0 0 0 false false) = true ∧ (∃ x, (collecting (part0 0 0 false false)).ctx 0 = some x ∧ x.vi = 0) ∧
    (part0 0 0 false false).next = 0 ∧ 0 < ((part0 0 0 false false).desc.len + 65535) / 65536 := ⟨by decide +kernel, ⟨ctx1, by decide, rfl⟩, rfl, by decide⟩
theorem test_met_only_part (red started : Bool) : ((collecting (part0 0 0 red started)).colls.filter fun x => x.ctx == 0 && x.desc.collid == 9) =
    [part0 0 0 red started] ∧ (collecting (part0 0 0 red started)).collRunning (part0 0 0 red started) = true := by
  cases red <;> cases started <;> decide +kernel
theorem test_met_chunk : okAnd ((collecting (part0 1 0 false true)).enginePut ((collecting (part0 1 0 false true)).collWho 0)
    ((collecting (part0 1 0 false true)).collCores (part0 1 0 false true)) 2 ((part0 1 0 false true).desc.dst + BitVec.ofNat 64 0) [7]) (fun _ => true) = true := by
  decide +kernel
/-- The write of a chunk faults, and the chunk before it has arrived whole or is still to come. -/
def part1 : CollPart := { part0 1 0 false true with desc := { (part0 1 0 false true).desc with dst := 0x1000000000, len := 65540 } }
theorem test_met_chunk_faults : (match (collecting part1).enginePut ((collecting part1).collWho 0) ((collecting part1).collCores part1) 2
    (part1.desc.dst + BitVec.ofNat 64 0) [7] with | .error (some _) => true | _ => false) = true := by decide +kernel
theorem test_met_chunks : Arrived { part1 with desc := { part1.desc with len := 1 }, got := [(0, 0, [7])] } 0 ∧ ¬ Arrived part1 0 := by decide
theorem test_met_part_ends : 0 < ({ part0 0 0 false true with acks := 1 } : CollPart).acks ∧ (part0 0 0 false true).acks = 0 ∧
    ({ part0 0 0 false true with fault := some (codeIllop, 1, 0) } : CollPart).fault = some (codeIllop, 1, 0) := by decide

/-! ### Hypotheses met: virtual processors, the shape table, forks -/

/-- Lane 255 with an address in the pair at l(2). -/
def laned (va : Nat) : Seat := { forked 255 vp0 s0 with plane := [(2 * 256 + 255, BitVec.ofNat 32 va)] }
theorem test_met_lane_memory : Lane (onLane 255 (laned 0x30000)) 0 255 (laned 0x30000) vp0 ∧ mapWf 0#32 (laned 0x30000).plane = true ∧ (laned 0x30000).pend = [] ∧
    (2 : Reg).getLsbD 0 = false ∧ ¬ (1 : Reg).getLsbD 0 = false ∧ (plus ((laned 0x30001).lanePair 255 2) 0).toNat % 8 ≠ 0 ∧
    ((laned 0x30001).lanePair 255 2).toNat % 4 ≠ 0 ∧ (onLane 255 (laned 0x30000)).inColl (laned 0x30000).ctx (laned 0x30000).launch (laned 0x30000).node = false ∧
    encode (.ldD 1 1 0) ≠ none ∧ encode (.stD 1 1 0) ≠ none ∧ encode (.axchg 1 1 1 0 1) ≠ none :=
  ⟨⟨rfl, rfl, rfl⟩, by decide, rfl, by decide, by decide, by decide, by decide, by decide, by decide, by decide, by decide⟩
theorem test_met_lane_load : ∃ h s, Accesses (onLane 255 (laned 0x30000)) 0 (watchedIn (laned 0x30000) 255) (.load 8) (plus ((laned 0x30000).lanePair 255 2) 0) 8
    (plus ((laned 0x30000).lanePair 255 2) 0).toNat 8 h s ∧ okAnd (s.read 0 0 h 8) (fun r => !r.expired) = true :=
  accesses (fun h s => okAnd (s.read 0 0 h 8) fun r => !r.expired) (by decide +kernel) (by decide) (by decide)
theorem test_met_lane_store : ∃ h s, Accesses (onLane 255 (laned 0x30000)) 0 (watchedIn (laned 0x30000) 255) (.store 8) (plus ((laned 0x30000).lanePair 255 2) 0) 8
    (plus ((laned 0x30000).lanePair 255 2) 0).toNat 8 h s ∧ decide (h.mt = 0) = true :=
  accesses (fun h _ => decide (h.mt = 0)) (by decide +kernel) (by decide) (by decide)
theorem test_met_lane_atomic : ∃ h s, Accesses (onLane 255 (laned 0x30000)) 0 (watchedIn (laned 0x30000) 255) .atomic ((laned 0x30000).lanePair 255 2) (atomBytes 0)
    ((laned 0x30000).lanePair 255 2).toNat (atomBytes 0) h s ∧ decide (h.mt = 0) = true :=
  accesses (fun h _ => decide (h.mt = 0)) (by decide +kernel) (by decide) (by decide)

/-- The last ROW of a plane of 512 rows, and a DIAG that ends in its last column. -/
def lastRow : Shape := ⟨.row, 511, 0, 1, 256, .fp32⟩
def lastDiag : Shape := ⟨.diag, 0, 512 - 256, 256, 1, .bf16⟩
theorem test_met_fits : FitsTable lastRow 512 ∧ FitsTable lastDiag 256 ∧ (⟨.row, 511, 0, 2, 256, .fp32⟩ : Shape).row0 + 2 > 512 :=
  ⟨⟨by show 0 + 256 ≤ 256 * 1; decide, by decide, by decide, by decide, by decide, by decide, by decide, by decide⟩,
    ⟨by show 256 + 256 ≤ 256 * 2; decide, by decide, by decide, by decide, by decide, by decide, by decide, by decide⟩, by decide⟩
theorem test_met_defr : (reg (reg s0 1 (geometryWord lastRow)) 2 0).reg 1 = geometryWord lastRow ∧
    (reg (reg s0 1 (geometryWord lastRow)) 2 0).reg 2 = BitVec.ofNat 64 lastRow.fmt.code ∧ (reg s0 1 0).rows = 512 ∧
    Settled s0 [1, 2] ∧ ((1 : Reg) ≠ 2 ∨ (1 : Reg) = 0) :=
  ⟨by decide, by decide, by decide, settled (by decide), by decide⟩
/-- A format word of 31 describes no shape. -/
theorem test_met_defr_refused : ∀ t : Shape, FitsTable t s0.rows → ¬ ((reg s0 2 31).reg 1 = geometryWord t ∧ (reg s0 2 31).reg 2 = BitVec.ofNat 64 t.fmt.code) := by
  intro t _ h
  have h2 := h.2
  revert h2
  cases t.fmt <;> decide
theorem test_met_joins : Ctl (on (forked 0 vp0 s0)) 0 (forked 0 vp0 s0) ∧ (forked 0 vp0 s0).forked = true := ⟨⟨rfl, rfl⟩, rfl⟩
theorem test_met_layout : s0.forked = false ∧ s0.vlBusy = false ∧ (5 : BitVec 6).toNat ≤ 5 ∧ Fmt.ofCode (0 : BitVec 5).toNat = some .fp32 ∧ 17 ≤ (17 : BitVec 5).toNat ∧
    vec0.entry 1 = some (rowShape .row 0 4 .fp32) := by decide

theorem test_met_fork : Ctl (on s0) 0 s0 ∧ s0.pend = [] ∧ s0.gathers = [] ∧ s0.forked = false ∧ ((reg s0 1 4).reg 1).toNat % 4 = 0 ∧
    ((reg s0 1 6).reg 1).toNat % 4 ≠ 0 ∧ s0.sr.lrow0 + 32 ≤ s0.rows ∧ ({ s0 with sr := { s0.sr with lrow0 := 481 } } : Seat).rows < 481 + 32 ∧
    (forked 0 vp0 s0).forked = true ∧ encode (.vfork 1 0) ≠ none :=
  ⟨on_ctl s0, rfl, rfl, by decide, by decide, by decide, by decide, by decide, by decide, by decide⟩
theorem test_met_fork_lanes : forkLanes (vl s0 1) 0 = [0] ∧ forkLanes (vl s0 0) 0 = [] := by decide +kernel
theorem test_met_probes : ∃ t, Probes 0 (vl s0 1) (forkLanes (vl s0 1) 0) (on (vl s0 1)) t := by
  rw [show forkLanes (vl s0 1) 0 = [0] by decide +kernel]
  obtain ⟨h, s', e, _⟩ := xl_ok (x := (on (vl s0 1)).translate ((vl s0 1).who 0) .vstore (((vl s0 1).sr.dvsp ++ 0#9) + BitVec.ofNat 64 (512 * 0)))
    (fun _ _ => true) (by decide +kernel)
  exact ⟨s', .cons e (.nil s')⟩
theorem test_met_exit : mapOkFrom (fun _ => true) 0 [(255, vp0)] = true ∧ (forked 255 vp0 s0).fork = some ⟨[(255, vp0)], 1, [], [], []⟩ := by decide

/-- Lane 255's fork, with its block held by the cluster's buffer, or under way. -/
def fetching0 (held : Bool) : Seat :=
  { laned 0x10000 with fork := some ⟨[(255, vp0)], 1, if held then [(7, [(0x80, List.replicate 512 0)])] else [], if held then [] else [(7, 0x80)], []⟩ }
theorem test_met_block : (255 / 32, ((fetching0 true).lanePair 255 2).toNat / 512) = (7, 0x80) ∧
    ((fetching0 true).fork.map fun f => (f.buffered 7 0x80).isSome) = some true ∧ ((fetching0 false).fork.map fun f => (f.buffered 7 0x80).isSome) = some false ∧
    ((fetching0 false).fork.map (·.fetching)) = some [(7, 0x80)] ∧ Lane (onLane 255 (fetching0 true)) 0 255 (fetching0 true) vp0 :=
  ⟨by decide, by decide +kernel, by decide +kernel, by decide, ⟨rfl, rfl, rfl⟩⟩
theorem test_met_block_fetch : ∃ r, (on (fetching0 false)).fetchBlock ((fetching0 false).who 0) 0x80 = .ok r ∧ (decide (r.1.length = 512)) = true :=
  ex_ok (fun (r : List Byte × State) => decide (r.1.length = 512)) (by decide +kernel)

/-! ### Hypotheses met: replays, traps -/

/-- VADD v1, v2, v3, and a program of two of them, or of one and a HALT, behind the REPF. -/
def vaddWord : BitVec 32 := (encode (.vadd 1 2 3 0 0 0)).getD 0
def haltWord : BitVec 32 := (encode .halt).getD 0
def program (a b : BitVec 32) : State := ((on s0).homePut 0x10004 (leBytes 4 a.toNat)).homePut 0x10008 (leBytes 4 b.toNat)

theorem captured2 {s : State} {who : Accessor} {pc a : Word} {w u : BitVec 32}
    (e : okAnd (s.fetchAt who a pc) (fun r => decide (r.1 = w) && okAnd (r.2.fetchAt who (a + 4) pc) fun r => decide (r.1 = u)) = true) :
    ∃ t, Captured who pc a s [w, u] t := by
  obtain ⟨⟨w', s'⟩, h, e1⟩ := ex_ok _ e
  simp only [Bool.and_eq_true, decide_eq_true_eq] at e1
  obtain ⟨hw, e2⟩ := e1
  obtain ⟨⟨u', t⟩, h', e3⟩ := ex_ok _ e2
  simp only [decide_eq_true_eq] at e3
  exact ⟨t, hw ▸ .cons h (e3 ▸ .cons h' (.nil _ _))⟩
theorem test_met_replay : s0.forked = false ∧ s0.replay = none ∧ (1 : BitVec 5).toNat ≤ 15 ∧ (∃ t, Captured (s0.who 0) s0.pc (s0.pc + 4) (program vaddWord vaddWord) [vaddWord, vaddWord] t) ∧
    ∀ w ∈ [vaddWord, vaddWord], MayCapture w := by
  refine ⟨by decide, by decide, by decide, captured2 (by decide +kernel), ?_⟩
  intro w hw
  have : w = vaddWord := by simpa using hw
  subst this
  exact ⟨.vadd 1 2 3 0 0 0, by decide, (by intro a b f g t h; cases h), .inl (by decide)⟩
theorem test_met_replay_refused : (∃ t, Captured (s0.who 0) s0.pc (s0.pc + 4) (program vaddWord haltWord) [vaddWord, haltWord] t) ∧
    [vaddWord, haltWord][1]? = some haltWord ∧ ¬ MayCapture haltWord := by
  refine ⟨captured2 (by decide +kernel), rfl, ?_⟩
  rintro ⟨i, _, _, h⟩
  revert h; decide

/-- A replay of two instructions, twice, in every place. -/
def replay0 (w : BitVec 32) (j pos : Nat) : Replay := ⟨[w, w], 0x10004, 2, 60, 1, j, pos⟩
def replaying (w : BitVec 32) (j pos : Nat) : Seat := { s0 with replay := some (replay0 w j pos) }
theorem test_met_replay_moves : (replay0 vaddWord 0 0).pos + 1 < (replay0 vaddWord 0 0).words.length ∧
    (replay0 vaddWord 0 1).words.length ≤ (replay0 vaddWord 0 1).pos + 1 ∧ (replay0 vaddWord 0 1).j + 1 < (replay0 vaddWord 0 1).k ∧
    (replay0 vaddWord 1 1).k ≤ (replay0 vaddWord 1 1).j + 1 := by decide
theorem test_met_replay_shift : Ctl (on (replaying vaddWord 0 0)) 0 (replaying vaddWord 0 0) ∧ (replay0 vaddWord 0 0).words[0]? = some vaddWord ∧
    encode (.vadd 1 2 3 0 0 0) = some vaddWord ∧ within [1 + 0 * 60, 2 + 0 * 60, 3 + 0 * 60] ∧ ¬ within [1 + 1 * 60, 2 + 1 * 60, 3 + 1 * 60] :=
  ⟨on_ctl _, by decide, by decide, by unfold within; decide, by unfold within; decide⟩
theorem test_met_replay_matrix : encode (.mmt 1 510 0 0) ≠ none ∧ within [1 + 1 * 60] ∧ ¬ within [3 + 1 * 60] ∧ (510 : BitVec 9).toNat + 1 * 1 < 512 ∧
    512 ≤ (511 : BitVec 9).toNat + 1 * 1 := ⟨by decide, by unfold within; decide, by unfold within; decide, by decide, by decide⟩

/-- A seat with a handler, and one within it. -/
def handled : Seat := { s0 with sr := { s0.sr with tvec := 0x4000 } }
def inTrap (late lane : Bool) (q : Seat) : Seat := { q with status := { q.status with intrap := true, defer := late, lane := lane } }
theorem test_met_trap : (on handled).seat 0 = some handled ∧ handled.status.intrap = false ∧ handled.sr.tvec ≠ 0 ∧
    ((on handled).die (dieOf 0)).baro = none ∧ s0.sr.tvec = 0 ∧ mapOkFrom (fun _ => true) 0 (on s0).seats = true ∧ (inTrap false false handled).status.intrap = true ∧
    ((on s0).launch s0.ctx s0.launch).isSome = true ∧ (∀ ch : Fin 4, s0.chan[ch] = none) :=
  ⟨rfl, by decide, by decide, by decide, by decide, by decide, by decide, by decide, by decide⟩

/-- The division that stops, queued. -/
def queuedDiv : State :=
  match exec (.vdiv 3 1 2 0 0 0) { on divides with hold := true } with
  | .next s => s
  | _ => on divides
/-- What the late stop of a queued command asks of the package. -/
def stopsLate (s : State) : Bool :=
  match s.seat 0 with
  | some q => match q.pend with
    | [c] => q.gathers.isEmpty && q.park.isNone && !c.sysScope && (match c.cmd with | .qfence _ => false | _ => true) &&
        match s.perform 0 c with
        | .stop s' t _ => decide (t.code ≠ codeXlate) && (match s'.seat 0 with | some q' => decide (q'.pend = [c]) | none => false)
        | _ => false
    | _ => false
  | none => false
theorem test_met_late_stop : stopsLate queuedDiv = true := by decide +kernel

theorem test_met_eret : s0.status.intrap = false ∧ encode .eret ≠ none ∧ (inTrap false false handled).status.intrap = true ∧
    (inTrap false false handled).pend = [] ∧ (inTrap false false handled).replaySaved = none ∧ (inTrap false false handled).aside = [] ∧
    (inTrap true false handled).status.defer = true := by decide
def asided : Seat := { inTrap true false handled with aside := [s0.capture (.qfence 1) (.qfence 1) .v] }
def forkTrap : Seat := { inTrap false true handled with fork := some ⟨[(255, { vp0 with trapped := true })], 1, [], [], []⟩ }
theorem test_met_eret_aside : ({ on asided with hold := true } : State).hold = true ∧ asided.status.lane = false ∧ Ctl { on asided with hold := true } 0 asided ∧
    forkTrap.status.lane = true ∧ forkTrap.fork.isSome = true := ⟨rfl, rfl, ⟨rfl, rfl⟩, rfl, rfl⟩
def replayTrap (late : Bool) : Seat :=
  { inTrap late false handled with replaySaved := some (replay0 vaddWord 0 1), sr := { handled.sr with epc := 0x10008 } }
theorem test_met_eret_replay : (replayTrap false).replaySaved = some (replay0 vaddWord 0 1) ∧ (replayTrap false).status.lane = false ∧
    (replayTrap false).sr.epc = (replay0 vaddWord 0 1).base + BitVec.ofNat 64 (4 * (replay0 vaddWord 0 1).pos) ∧ (replayTrap true).status.defer = true := by
  decide

theorem not_of_lanes : ¬ OfLanes .halt := by
  simp [OfLanes, arithForms, bitForms, immForms, shiftForms, loadForms, storeForms, branchForms, atomForms]
theorem test_met_asked : Settled s0 [1] ∧ (∀ ch : Fin 4, s0.chan[ch] = none) ∧ decodeWord 0xFFFFFFFF = none ∧ encode (.lfetch 2) ≠ none ∧ encode .lexit ≠ none ∧
    encode .halt ≠ none ∧ ¬ OfLanes .halt :=
  ⟨settled (by decide), by decide, by decide, by decide, by decide, by decide, not_of_lanes⟩
def beyond : Seat := { s0 with pc := 2 ^ 36 }
theorem test_met_fetch_fault : beyond.replay = none ∧ ∃ f s', (on beyond).translate (beyond.who 0) .fetch beyond.pc = (.fault f, s') ∧
    (f.code ≠ codeXlate ∨ (on beyond).onDemand beyond.ctx beyond.pc = false) := ⟨rfl, _, _, rfl, .inr rfl⟩
theorem test_met_lane_trap : (forked 255 vp0 s0).fork = some ⟨[(255, vp0)], 1, [], [], []⟩ ∧ (codeTrap : BitVec 8) ≠ codeXlate := by decide

/-! ### Hypotheses met: special registers -/

def privileged (q : Seat) : Seat := { q with status := { q.status with prv := true } }
def shared0 : State :=
  { on (privileged s0) with vis := [(0, ⟨⟨0, 0, 0, 64, [], [], 0⟩, 0, 0, [], [], [], 0⟩)] }
theorem test_met_special_read : Ctl (on s0) 0 s0 ∧ s0.pend = [] ∧ (0, BitVec.ofNat 64 s0.sr.vl) ∈ seatRegisters s0 ++ sharedRegisters (on s0) 0 s0 ∧
    numberOf 0 0 = 0 ∧ numberOf 31 31 = 1023 ∧ numberOf 3 0 = 96 ∧ numberOf 3 2 = 98 ∧ s0.status.prv = false ∧ (privileged s0).status.prv = true :=
  ⟨on_ctl s0, rfl, by simp [seatRegisters], by decide, by decide, by decide, by decide, by decide, by decide⟩
theorem test_met_special_shared : (514, (0 : Word)) ∈ seatRegisters s0 ++ sharedRegisters shared0 0 (privileged s0) ∧ numberOf 16 2 = 514 :=
  ⟨List.mem_append_right _ (by decide), by decide⟩
theorem test_met_lookup : ((on s0).ctxs.find? fun x => x.2.vi = s0.sr.ctxlkVi.toNat ∧ x.2.handle = s0.sr.ctxlkHandle.toNat).isSome = false ∧
    ((on s0).ctxs.find? fun x => x.2.vi = 0 ∧ x.2.handle = 1).isSome = true := by decide
theorem test_met_special_refused : ¬ assigned 15 ∧ assigned 512 ∧ ¬ assigned 517 ∧ assigned 516 ∧ encode (.mfsr 1 0 15) ≠ none ∧ encode (.mfsr 1 16 0) ≠ none := by
  unfold assigned; decide

theorem test_met_special_write : s0.forked = false ∧ WritesNo 1 0 (.mtsrVl 1) ∧ WritesNo 1 137 (.mtsr 1 4 9) ∧ WritesNo 1 512 (.mtsr 1 16 0) ∧
    (2, { s0.sr with stripbase := 5 }) ∈ writes s0.sr 5 ∧ (4, { s0.sr with ovfns := false, mode := .sr }) ∈ writes s0.sr 5 ∧
    (∀ x ∈ writes s0.sr 6, x.1 ≠ 4) ∧ (∀ x ∈ writes s0.sr 3, x.1 ≠ 7) ∧ ((on s0).ctx s0.ctx).isSome = true ∧ (mapFind shared0.vis 0).isSome = true ∧
    ¬ Writable 1 ∧ Writable 4 ∧ ¬ Writable 513 = False ∧ encode (.mtsr 1 0 4) ≠ none ∧ encode (.mtsr 1 16 0) ≠ none :=
  ⟨by decide, .inr (by decide), .inl ⟨4, 9, by decide, rfl⟩, .inl ⟨16, 0, by decide, rfl⟩, by simp [writes], by decide +kernel, by decide +kernel, by decide +kernel,
    by decide, by decide, by unfold Writable; decide, by unfold Writable; decide, by unfold Writable; decide, by decide, by decide⟩

/-! ### Hypotheses met: the scheduler -/

/-- The placed launch with other nodes, and the package with it and the seats given. -/
def launchOf (nodes : List Node) : Launch := { placedLaunch with nodes := nodes }
def scheduling (nodes : List Node) (seats : List (Nat × Seat)) : State := { placed with seats := seats, launches := [launchOf nodes] }
/-- The node ready since tick 0, of priority 6, hinted at quad 0, with or without a saved image. -/
def ready0 (im : Option Seat) : Node := { placedNode with state := .ready, ctl := 0x80000038, image := im }

theorem waiting_one {im : Option Seat} {seats : List (Nat × Seat)} : Waiting (scheduling [ready0 im] seats) (launchOf [ready0 im]) (ready0 im) :=
  ⟨⟨.head _, rfl⟩, .head _, rfl, rfl⟩
theorem only_one {im : Option Seat} {seats : List (Nat × Seat)} : ∀ m k, Waiting (scheduling [ready0 im] seats) m k → (m, k) ≠ (launchOf [ready0 im], ready0 im) →
    Precedes 0 (launchOf [ready0 im], ready0 im) (m, k) ∨ (scheduling [ready0 im] seats).tryBind m k = none := by
  intro m k h hne
  have hm : m = launchOf [ready0 im] := by simpa [scheduling] using h.launch.1
  subst hm
  have hk : k = ready0 im := by simpa [launchOf] using h.node.1
  subst hk
  exact absurd rfl hne
theorem test_met_dispatch : ((scheduling [ready0 none] []).tryBind (launchOf [ready0 none]) (ready0 none)).isSome = true ∧
    (ready0 none).kind = 0 ∧ (launchOf [ready0 none]).coGroups (ready0 none) = [] ∧ (scheduling [ready0 none] []).pickSeat (launchOf [ready0 none]) (ready0 none) = some 0 ∧
    ((scheduling [ready0 none] []).ctx 0).isSome = true := by decide +kernel
theorem test_met_restore : (((scheduling [ready0 (some s0)] []).tryBind (launchOf [ready0 (some s0)]) (ready0 (some s0))).bind fun t =>
    (t.seat 0).map fun q => decide (q.ctx = 0 ∧ q.node = 0x20000)) = some true ∧ s0.pendingTrap = none ∧ s0.fork = none := by decide +kernel
/-- A millisecond later. -/
theorem test_met_ageing : let s := { scheduling [ready0 none] [] with devtime := 100000 }
    0 < s.devtime - (ready0 none).readyAt ∧ (s.devtime - (ready0 none).readyAt) % 100000 = 0 ∧
    ((ready0 none).ctl.extractLsb' 2 3).toNat + (s.devtime - (ready0 none).readyAt) / 100000 ≤ 7 := by decide

/-- Quad 0 is the one fused quad, nodes of priority 0 run on its four cores, and the node that waits needs a fused quad. -/
def running (k : Nat) : Node :=
  { placedNode with addr := BitVec.ofNat 64 (0x100000 + 256 * k), state := .bound, unit := 2 * k, boundPrio := 0 }
def fused0 : Node := { ready0 none with ctl := 0x80000078 }
def crowded : State :=
  { scheduling (fused0 :: (List.range 4).map running)
      ((List.range 4).map fun k => (2 * k, { s0 with node := BitVec.ofNat 64 (0x100000 + 256 * k), fuse := true })) with
    quads := mapSet {} placed.quads 0 { placed.quad 0 with fused := true } }
theorem test_met_preempt : (match crowded.preemption with | some (_, keys) => decide (0 ∈ keys) | none => false) = true := by decide +kernel
theorem test_met_no_groups : NoCoResidents crowded := by
  intro l hl n hn
  have : l = launchOf (fused0 :: (List.range 4).map running) := by simpa [crowded, scheduling] using hl
  subst this
  revert n; decide
theorem test_met_stop_request : (on s0).seat 0 = some s0 ∧ s0.stopping = none ∧ (StopCause.page : StopCause) ≠ .dispatcher := ⟨rfl, rfl, by decide⟩
def stopped (declared : Bool) : Seat := { s0 with stopping := some .page, declared := declared }
theorem test_met_stopped : (on (stopped false)).seat 0 = some (stopped false) ∧ (stopped false).declared = false ∧ (stopped true).declared = true ∧
    ∀ x ∈ (stopped false).pend ++ (stopped false).aside, x.partial_ = false := ⟨rfl, rfl, rfl, by decide⟩

/-- A seat parked on a page since tick 0, its context's request for it, and the package 100 ms later. -/
def parked : Seat := { s0 with park := some ⟨2 ^ 36, 0, 0x10000, false, none⟩ }
def asking : Ctx := { ctx1 with requests := [⟨2 ^ 36, s0.node, 0⟩] }
def asked : State := { (on parked).setCtx 0 asking with devtime := 10000000 }
theorem test_met_page : asked.seat 0 = some parked ∧ parked.park = some ⟨2 ^ 36, 0, 0x10000, false, none⟩ ∧ parked.stopping = none ∧
    asked.ctx parked.ctx = some asking ∧ asking.requests = [⟨2 ^ 36, s0.node, 0⟩] ∧ 0 + 10000000 ≤ asked.devtime ∧ 0 + 5000 ≤ asked.devtime ∧
    mapOkFrom (fun _ => true) 0 asked.seats = true ∧ (∀ l ∈ asked.launches, ∀ n ∈ l.nodes, n.blocked = none) :=
  ⟨rfl, rfl, rfl, rfl, rfl, by decide, by decide, by decide, by decide⟩
theorem test_met_page_seat : ∀ x ∈ asked.seats, x.2.ctx = parked.ctx → x.2.node = parked.node → x.1 = 0 := by
  intro x hx _ _
  have : asked.seats = [(0, parked)] := rfl
  rw [this] at hx
  simp at hx; rw [hx]

/-- A node that has halted, with a successor list or none. -/
def ending (succ : Word) : Node := { placedNode with state := .bound, unit := 0, succ := succ }
def finishing (succ : Word) : State := scheduling [ending succ] [(0, { s0 with halted := true })]
theorem test_met_finish : (∃ q, (finishing 0).seat (ending 0).unit = some q) ∧ ((finishing 0).launches.find? fun m =>
      m.ctx = (launchOf [ending 0]).ctx ∧ m.state = .running ∧ m.nodes.any fun k => k.addr = (ending 0).addr ∧ (finishing 0).canFinish k) =
    some (launchOf [ending 0]) ∧ (launchOf [ending 0]).nodes.find? (·.addr = (ending 0).addr) = some (ending 0) := ⟨⟨_, rfl⟩, rfl, rfl⟩
theorem test_met_finish_list : ((finishing 0x30000).launches.find? fun m =>
      m.ctx = (launchOf [ending 0x30000]).ctx ∧ m.state = .running ∧ m.nodes.any fun k => k.addr = (ending 0x30000).addr ∧ (finishing 0x30000).canFinish k) =
    some (launchOf [ending 0x30000]) ∧ (launchOf [ending 0x30000]).nodes.find? (·.addr = (ending 0x30000).addr) = some (ending 0x30000) ∧
    okAnd ((finishing 0x30000).engineGet ((finishing 0x30000).schedWho 0) 2 0x30000 4) (fun _ => true) = true := ⟨rfl, rfl, by decide +kernel⟩
theorem test_met_successors :
    okAnd ((finishing 0x30000).engineGet ((finishing 0x30000).schedWho 0) 2 (0x30000 + BitVec.ofNat 64 (8 + 8 * 0)) 8) (fun r =>
      decide (r.1 = List.replicate 8 0) && hitAnd (r.2.2.translate ((finishing 0x30000).schedWho 0) .atomic 4) fun h _ => decide (h.mt = 0)) = true := by
  decide +kernel
theorem test_met_complete : (scheduling [{ placedNode with state := .finished }] []).launch 0 1 = some (launchOf [{ placedNode with state := .finished }]) ∧
    ∀ n ∈ (launchOf [{ placedNode with state := .finished }]).nodes, n.state ≠ .ready ∧ n.state ≠ .bound ∧ n.state ≠ .finishing := ⟨rfl, by decide⟩
theorem test_met_fusion : 71 < Config.quads ∧ (∀ i, i < 8 → (on s0).seat (8 * 71 + i) = none) ∧ ((on s0).quad 71).power ≠ .waiting ∧
    ((on s0).quad 71).power ≠ .ramping ∧ ∀ t, ((on s0).quad 71).power ≠ .lowering t true :=
  ⟨by decide, by decide, by decide, by decide, by intro t h; have : ((on s0).quad 71).power = .gated := rfl; rw [this] at h; cases h⟩

/-! ### Hypotheses met: the commands of a VI -/

/-- VI 0 with a ring of 64 entries at 0x50000 in which one entry, `c`, waits; its context is `x`. -/
def vi0 : Vi := ⟨⟨0, 0, 0x50000, 64, [], [5], 0⟩, 1, 0, [(1, 3)], [], [], 0⟩
def commanding (x : Ctx) (c : Entry) (s : State) : State :=
  ({ s with ctxs := [(0, x)], vis := [(0, vi0)] } : State).homePut 0x50000 c.bytes

theorem test_met_doorbell : mapFind (commanding ctx1 ⟨7, 0, 1, 0, 0, 0, 0, 0, 0⟩ placed).vis 0 = some vi0 ∧
    (commanding ctx1 ⟨7, 0, 1, 0, 0, 0, 0, 0, 0⟩ placed).pkg.booted = true ∧ ({ vi0 with next := 1 } : Vi).doorbell + 0 ≤ ({ vi0 with next := 1 } : Vi).next ∧
    ({ vi0 with doorbell := 0 } : Vi).doorbell + 0 ≤ ({ vi0 with doorbell := 0 } : Vi).next := by
  decide +kernel

def entry7 : Entry := ⟨7, 9, 1, 0, 0, 0, 0, 0, 0⟩
/-- The entries of the other commands. -/
def entryOf (opc handle a0 a1 a2 a3 : Nat) : Entry :=
  ⟨BitVec.ofNat 16 opc, 9, BitVec.ofNat 64 handle, BitVec.ofNat 64 a0, BitVec.ofNat 64 a1, BitVec.ofNat 64 a2, BitVec.ofNat 64 a3, 0, 0⟩
/-- The ring holds the entry; firmware serves. -/
def turnOk (x : Ctx) (c : Entry) (s : State) : Bool :=
  decide (mapFind (commanding x c s).vis 0 = some vi0) && decide (vi0.doorbell = vi0.next + 1) &&
    decide ((commanding x c s).homeGet (vi0.prov.ringBase + 64 * (vi0.next % vi0.prov.ringSize)) 64 = c.bytes) &&
    (commanding x c s).pkg.booted && !(commanding x c s).pkg.recovery && !(commanding x c s).pkg.stopped
theorem turn {x : Ctx} {c : Entry} {s : State} (h : turnOk x c s = true) : Turn (commanding x c s) 0 vi0 c := by
  simp only [turnOk, Bool.and_eq_true, decide_eq_true_eq, Bool.not_eq_true'] at h
  exact ⟨h.1.1.1.1.1, h.1.1.1.1.2, h.1.1.1.2, h.1.1.2, h.1.2, h.2⟩
theorem on_ctx {x : Ctx} {c : Entry} {s : State} {opc : Nat} (h : turnOk x c s = true) (ho : c.opc.toNat = opc)
    (hc : (commanding x c s).ctxOf 0 c.handle.toNat = some (0, x)) : OnCtx (commanding x c s) 0 vi0 c opc 0 x :=
  { toTurn := turn h, opc := ho, ctx := hc }

theorem test_met_create : Turn (commanding ctx1 (entryOf 1 0 0 0 0 0) placed) 0 vi0 (entryOf 1 0 0 0 0 0) ∧
    ((commanding ctx1 (entryOf 1 0 0 0 0 0) placed).takeFrames (regionsFor 0 7) 0 16384 [0x200000]).isSome = true ∧
    1 ∉ (commanding ctx1 (entryOf 1 0 0 0 0 0) placed).ctxs.map (·.1) ∧ (∀ j, j < 1 → j ∈ (commanding ctx1 (entryOf 1 0 0 0 0 0) placed).ctxs.map (·.1)) ∧
    (∀ x ∈ (commanding ctx1 (entryOf 1 0 0 0 0 0) placed).ctxs, x.2.vi = 0 → x.2.handle ≠ 2) ∧
    (∀ j, 1 ≤ j → j < 2 → ∃ x ∈ (commanding ctx1 (entryOf 1 0 0 0 0 0) placed).ctxs, x.2.vi = 0 ∧ x.2.handle = j) := by
  refine ⟨turn (by decide +kernel), by decide +kernel, by decide, by decide, by decide, ?_⟩
  intro j h1 h2
  exact ⟨(0, ctx1), .head _, rfl, by show 1 = j; omega⟩
theorem test_met_bad_handle : Turn (commanding ctx1 (entryOf 2 9 0 0 0 0) placed) 0 vi0 (entryOf 2 9 0 0 0 0) ∧
    (commanding ctx1 (entryOf 2 9 0 0 0 0) placed).ctxOf 0 (entryOf 2 9 0 0 0 0).handle.toNat = none := ⟨turn (by decide +kernel), by decide⟩
theorem test_met_map_bad : OnCtx (commanding ctx1 (entryOf 2 1 0 0 0 0) placed) 0 vi0 (entryOf 2 1 0 0 0 0) 2 0 ctx1 ∧
    (commanding ctx1 (entryOf 2 1 0 0 0 0) placed).mapBad 0 0 0 0 0 = true := ⟨on_ctx (by decide +kernel) rfl rfl, by decide +kernel⟩
theorem test_met_map_on_demand : OnCtx (commanding ctx1 (entryOf 2 1 (2 ^ 36) 16384 0x30 1) placed) 0 vi0 (entryOf 2 1 (2 ^ 36) 16384 0x30 1) 2 0 ctx1 ∧
    (commanding ctx1 (entryOf 2 1 (2 ^ 36) 16384 0x30 1) placed).mapBad 0 (2 ^ 36) 16384 0x30 1 = false :=
  ⟨on_ctx (by decide +kernel) rfl rfl, by decide +kernel⟩
/-- A page of 16 KiB, with the two tables on its way. -/
def mapping : State := commanding ctx1 (entryOf 2 1 (2 ^ 36) 16384 0x30 0) placed
theorem test_met_map : OnCtx mapping 0 vi0 (entryOf 2 1 (2 ^ 36) 16384 0x30 0) 2 0 ctx1 ∧ mapping.mapBad 0 (2 ^ 36) 16384 0x30 0 = false ∧
    mapSize mapping.pkg.lg (2 ^ 36) 16384 0x30 = 16384 ∧ 1 ≤ mapping.freeFrames (regionsFor 0 0) 0 16384 ∧
    (mapping.mapPages 0 (2 ^ 36) 16384 0x30 [0x200000] [0x204000, 0x208000]).isSome = true :=
  ⟨on_ctx (by decide +kernel) rfl rfl, by decide +kernel, by decide +kernel, by decide +kernel, by decide +kernel⟩
theorem test_met_reclaim : OnCtx (commanding ctx1 entry7 placed) 0 vi0 entry7 7 0 ctx1 ∧ ctx1.reclaim = none := ⟨on_ctx (by decide +kernel) rfl rfl, rfl⟩
def newStream : State := commanding ctx1 (entryOf 8 1 0x30000 255 0 0) (streaming stream0 (object 0 0 0 2) s0)
def soundObject (l : Leaf) : Bool := !pteMig l.word && !(sobjOf (newStream.homeGet (ptePa l.word + 0x30000 % l.size) 96)).bad
theorem test_met_stream_new : OnCtx newStream 0 vi0 (entryOf 8 1 0x30000 255 0 0) 8 0 ctx1 ∧ mapFind newStream.streams 255 = none ∧
    newStream.plainPage 0 0x30000 = true ∧ okAnd (newStream.walk 0 0x30000) soundObject = true :=
  ⟨on_ctx (by decide +kernel) rfl rfl, by decide +kernel, by decide +kernel, by decide +kernel⟩
theorem test_met_routine_command : OnCtx (commanding ctx1 (entryOf 9 1 0x40000 0 0 0) placed) 0 vi0 (entryOf 9 1 0x40000 0 0 0) 9 0 ctx1 ∧
    5 ∈ vi0.prov.routineKeys ∧ 6 ∉ vi0.prov.routineKeys := ⟨on_ctx (by decide +kernel) rfl rfl, by decide, by decide⟩

/-- The context of a parked seat, with the on-demand range of its page. -/
def demanding : Ctx := { asking with onDemand := [⟨2 ^ 36, 2 ^ 20, 0x30⟩] }
def paging (a1 : Nat) : State := commanding demanding (entryOf 10 1 (2 ^ 36) a1 0 0) (on parked)
theorem test_met_page_command : OnCtx (paging 0) 0 vi0 (entryOf 10 1 (2 ^ 36) 0 0 0) 10 0 demanding ∧ OnCtx (paging 1) 0 vi0 (entryOf 10 1 (2 ^ 36) 1 0 0) 10 0 demanding ∧
    (demanding.requests.filter fun y => y.va.toNat / 16384 = 2 ^ 36 / 16384) = [⟨2 ^ 36, s0.node, 0⟩] ∧
    ((demanding.onDemand.find? fun y => y.va ≤ 2 ^ 36 ∧ 2 ^ 36 < y.va + y.size).isSome = true) ∧ (paging 0).mapped 0 (2 ^ 36) 16384 = false ∧
    ((paging 0).mapPages 0 (2 ^ 36) 16384 0x30 [0x200000] [0x204000, 0x208000]).isSome = true ∧
    (((paging 0).mapPages 0 (2 ^ 36) 16384 0x30 [0x200000] [0x204000, 0x208000]).bind (·.seat 0)).isSome = true :=
  ⟨on_ctx (by decide +kernel) rfl rfl, on_ctx (by decide +kernel) rfl rfl, by decide, by decide, by decide +kernel, by decide +kernel, by decide +kernel⟩
theorem test_met_dhalt : OnCtx (commanding ctx1 (entryOf 11 1 0x20000 0 0 0) (on s0)) 0 vi0 (entryOf 11 1 0x20000 0 0 0) 11 0 ctx1 ∧
    ((commanding ctx1 (entryOf 11 1 0x20000 0 0 0) (on s0)).seats.find? fun y => y.2.ctx = 0 ∧ y.2.node = 0x20000 ∧ y.2.stopping = none).isSome = true ∧
    (∀ y ∈ (commanding ctx1 (entryOf 11 1 0x99 0 0 0) (on s0)).seats, ¬ (y.2.ctx = 0 ∧ y.2.node = 0x99 ∧ y.2.stopping = none)) :=
  ⟨on_ctx (by decide +kernel) rfl rfl, by decide, by decide +kernel⟩

/-- A graph of one node at 0x30000, of a kind. -/
def loading (kind : Nat) : State := (commanding ctx1 (entryOf 3 1 0x30000 1 0 0) placed).homePut 0x30000 (leBytes 4 kind)
def firstOffends (kind : Nat) : Bool :=
  okAnd ((loading kind).engineGet ((loading kind).schedWho 0) 3 0x30000 128) (fun r =>
    let raw := [rawNode 0x30000 r.1]
    offends raw (raw.map fun r => (r.node.addr, (loading kind).succList ((loading kind).schedWho 0) r.node)) [] 0 (rawNode 0x30000 r.1))
theorem test_met_load_graph : OnCtx (commanding ctx1 (entryOf 3 1 0x30000 1 0 0) placed) 0 vi0 (entryOf 3 1 0x30000 1 0 0) 3 0 ctx1 ∧
    (0x30000 % 128 = 0 ∧ 0x30001 % 128 ≠ 0) ∧ (loading 0).plainPage 0 0x30000 = true ∧ (loading 0).groupTable ((loading 0).schedWho 0) 0 = some [] :=
  ⟨on_ctx (by decide +kernel) rfl rfl, by decide, by decide +kernel, rfl⟩
theorem test_met_graph_offends : firstOffends 3 = true := by decide +kernel
theorem test_met_graph_sound : okAnd ((loading 0).engineGet ((loading 0).schedWho 0) 3 0x30000 128) (fun _ => true) = true ∧ firstOffends 0 = false := by
  decide +kernel
def loaded : State := commanding ctx1 (entryOf 4 1 1 0 0 0) { placed with launches := [{ placedLaunch with state := .loaded }] }
theorem test_met_launch : OnCtx loaded 0 vi0 (entryOf 4 1 1 0 0 0) 4 0 ctx1 ∧ (loaded.launch 0 1).isSome = true ∧ loaded.launch 0 2 = none ∧
    ({ placedLaunch with state := .loaded } : Launch).inc = ctx1.inc := ⟨on_ctx (by decide +kernel) rfl rfl, by decide, by decide, rfl⟩
theorem test_met_query : Turn (commanding ctx1 (entryOf 5 0 2 0 0 0) placed) 0 vi0 (entryOf 5 0 2 0 0 0) ∧ (entryOf 5 0 2 0 0 0).opc = 5 ∧
    Turn (commanding ctx1 (entryOf 5 1 1 0 0 0) placed) 0 vi0 (entryOf 5 1 1 0 0 0) ∧
    ((commanding ctx1 (entryOf 5 1 1 0 0 0) placed).ctxOf 0 1).isSome = true ∧ (List.replicate 32 (0 : Byte)).length = 32 :=
  ⟨turn (by decide +kernel), rfl, turn (by decide +kernel), by decide, by decide⟩
def killed : Ctx := { ctx1 with reclaim := some (5, 0) }
theorem test_met_kill : OnCtx (commanding ctx1 (entryOf 6 1 0 0 0 0) placed) 0 vi0 (entryOf 6 1 0 0 0 0) 6 0 ctx1 ∧ ctx1.reclaim = none ∧
    OnCtx (commanding killed (entryOf 6 1 0 0 0 0) placed) 0 vi0 (entryOf 6 1 0 0 0 0) 6 0 killed ∧ killed.reclaim = some (5, 0) ∧
    mapOkFrom (fun _ => true) 0 placed.seats = true ∧ (commanding killed (entryOf 6 1 0 0 0 0) placed).ctx 0 = some killed :=
  ⟨on_ctx (by decide +kernel) rfl rfl, rfl, on_ctx (by decide +kernel) rfl rfl, rfl, by decide, rfl⟩
theorem test_met_killed_launch : ∃ l ∈ placed.launches, l.ctx = 0 ∧ l.state = .running := ⟨placedLaunch, .head _, rfl, rfl⟩

/-! ### Hypotheses met: hosts, peers, the memory system, migration -/

theorem test_met_hosted : Hosted (commanding ctx1 entry7 placed) 0 1 0 ctx1 := ⟨by decide, by decide, by decide, by decide⟩
/-- A host's access finds its page, with `p` of where it lies and of the package. -/
theorem pages {s : State} {k : Nat} {va : Word} {write : Bool} (p : Nat → Nat → Nat → State → Bool) (hc : va.toNat < 2 ^ 58)
    (e : okAnd (s.walk k va.toNat) (fun l => decide (pteMt l.word = 0) && !pteMig l.word &&
      p (ptePa l.word + va.toNat % l.size) (pteMt l.word) (ptePlc l.word) (s.setAD l write).1) = true) :
    ∃ pa mt plc t, Pages s k va write pa mt plc t ∧ p pa mt plc t = true := by
  obtain ⟨l, h, e⟩ := ex_ok _ e
  simp only [Bool.and_eq_true, decide_eq_true_eq, Bool.not_eq_true'] at e
  exact ⟨_, _, _, _, ⟨hc, ⟨l, h, rfl, rfl, rfl, rfl, fun _ => e.1.2⟩, by rw [e.1.1]; decide, fun _ => by rw [e.1.1]; decide⟩, e.2⟩
theorem test_met_rma_read : ∃ pa mt plc t, Pages (commanding ctx1 entry7 placed) 0 0x30020 false pa mt plc t ∧
    okAnd (t.homeRead ⟨pa, mt, plc, 0⟩ 32) (fun _ => true) = true ∧ 0x30020 % 64 + 32 ≤ 64 := by
  obtain ⟨pa, mt, plc, t, h, e⟩ := pages (s := commanding ctx1 entry7 placed) (k := 0) (va := 0x30020) (write := false)
    (fun pa mt plc t => okAnd (t.homeRead ⟨pa, mt, plc, 0⟩ 32) fun _ => true) (by decide) (by decide +kernel)
  exact ⟨pa, mt, plc, t, h, e, by decide⟩
theorem test_met_rma_write : ∃ pa mt plc t, Pages (commanding ctx1 entry7 placed) 0 0x30020 true pa mt plc t ∧
    (decide (plc ≠ 5) && decide (mt ≠ 1)) = true :=
  pages (fun _ mt plc _ => decide (plc ≠ 5) && decide (mt ≠ 1)) (by decide) (by decide +kernel)
/-- A page of MT 2 at 2^36. -/
def compressed : State := (commanding ctx1 entry7 placed).homePut 0x4008 (leBytes 8 (2 ^ 59 + 0x3F1))
theorem test_met_rma_refused : okAnd (compressed.walk 0 (2 ^ 36)) (fun l => decide (pteMt l.word = 2)) = true ∧ 2 ^ 58 ≤ (2 ^ 58 : Word).toNat := by
  decide +kernel

def plainOpts : ConnOpts := ⟨9, true, false, false, false, false, false, true, false⟩
theorem test_met_connection : (27 : Nat) < 28 ∧ placed.pkg.stopped = false ∧ plainOpts.portSpeed800 = true ∧ plainOpts.rudi = false ∧
    plainOpts.uudForData = false ∧ plainOpts.rccc = false ∧ plainOpts.deferrable = false ∧ plainOpts.rendezvous = false ∧ plainOpts.encrypted = true ∧
    plainOpts.inNetworkReduction = false ∧ ({ plainOpts with rudi := true } : ConnOpts).rudi = true := by decide
def connected : State := { commanding ctx1 entry7 placed with pkg := { placed.pkg with conns := [(23, 9)] } }
theorem test_met_packet : (23, 9) ∈ connected.pkg.conns ∧ (27, 9) ∉ connected.pkg.conns ∧ (connected.vis.find? fun x => x.2.prov.keySet = 0).isSome = true ∧
    (∀ x ∈ connected.vis, x.2.prov.keySet ≠ 1) ∧ ¬ (false = true ∧ 23 < 24) ∧ 23 < 24 := by decide
theorem test_met_unit_request : (commanding ctx1 entry7 placed).ctx 0 = some ctx1 ∧ (1 : BitVec 6) ≠ ctx1.inc ∧ regionOf placed.pkg.lg 0x30000 = .interleaved :=
  ⟨rfl, by decide, by decide⟩
theorem test_met_response : (queuedDiv.seat 0).map (fun q => decide (q.cin = s0.cin)) = some true ∧ (queuedDiv.performAt 0 0).isSome = true := by decide +kernel

theorem test_met_page_walk : ((on s0).ctx 0).isSome = true ∧ okAnd ((on s0).walk 0 0x30000) (fun _ => true) = true ∧
    okAnd ((on s0).walk 0 (2 ^ 36)) (fun _ => true) = false ∧ (2 ^ 58 - 1 : Word).toNat < 2 ^ 58 := by decide +kernel
theorem test_met_eviction : (lined.core 0).l1[0]? = some line0 ∧ line0.pa % 64 = 0 ∧ mapOkFrom (fun _ => true) 0 line0.bytes = true ∧
    (∀ x ∈ line0.bytes, x.1 < 64) ∧ Memory.wf lined.mem = true ∧ mapOkFrom (fun _ => true) 0 lined.cores = true :=
  ⟨rfl, by decide, by decide, by decide, by decide +kernel, by decide⟩
theorem test_met_fill : mapFind (on s0).llcExp (0x100000 / 64 * 64) = none ∧ regionOf (on s0).pkg.lg 0x100000 = .interleaved ∧
    okAnd (((on s0).homePut 0x100000 [0, 2]).expandAt 0x100000) (fun _ => true) = true ∧
    okAnd (((on s0).homePut 0x100000 [255, 255]).expandAt 0x100000) (fun _ => true) = false := by decide +kernel
theorem test_met_expiry : ((tiled false (on s0)).tile 0).expd = false ∧
    (({ tiled false (on s0) with devtime := 2 ^ 30 } : State).die (tileDie 0)).life ≤ (({ tiled false (on s0) with devtime := 2 ^ 30 } : State).tile 0).age 0xFFFFF := by
  decide +kernel
theorem test_met_sweep : mapOkFrom (fun _ => true) 0 (tiled false (on s0)).tiles = true ∧ mapOkFrom (fun _ => true) 0 (tiled false (on s0)).dies = true := by decide

/-- An adaptive page at 2^36 of the interleaved region, with 1 GiB per die local, and 300 requests from die 1 in this epoch. -/
def adaptive : State :=
  let s : State := { placed with pkg := { placed.pkg with lg := 1 } }
  let t := (s.mapPages 0 (2 ^ 36) 16384 (0xE000000000000030#64) [0x200000] [0x204000, 0x208000]).getD s
  { t with epoch := [(4 * 128 + 1, 300)] }
def queued0 : Mig := ⟨0, 2 ^ 36, some 1, 0, false, []⟩
theorem test_met_epoch : adaptive.devtime % 100000 = 0 := by decide
def migrating (g : Mig) : State := { adaptive with migs := [g] }
theorem test_met_migration : ((migrating queued0).migs.find? fun g => g.ctx = 0 ∧ g.va.toNat / 16384 = (2 ^ 36 : Word).toNat / 16384) = some queued0 ∧
    okAnd ((migrating queued0).walk 0 (2 ^ 36)) (fun l => decide (pteMt l.word ≠ 2)) = true ∧ mapOkFrom (fun _ => true) 0 (migrating queued0).cores = true ∧
    ((migrating queued0).takeFrames [.local_ 1] 0 16384 [localBase 1]).isSome = true ∧ Memory.wf (migrating queued0).mem = true ∧
    ({ queued0 with die := none, frame := localBase 1 } : Mig).copied = false ∧ ({ queued0 with copied := true } : Mig).copied = true := by decide +kernel

/-! ### Hypotheses met: power, heat, errors, traces, boot -/

/-- A state with one quad, die or pair changed. -/
def withQuad (k : Nat) (f : Quad → Quad) (s : State) : State := s.setQuad k (f (s.quad k))
theorem test_met_sample : (35 : Nat) < 36 ∧ placed.devtime % 50 = 0 ∧ max 100 50 < 10 * (max 100 50 - min 100 50) ∧ 20 * (max 100 100 - min 100 100) ≤ max 100 100 ∧
    10 * (max 100 100 - min 100 100) ≤ max 100 100 ∧ max 100 94 < 20 * (max 100 94 - min 100 94) ∧ 10 * (max 100 94 - min 100 94) ≤ max 100 94 := by decide
theorem test_met_interval : placed.devtime % 400 = 0 ∧ (placed.pair 35).lastInterval ≠ some placed.devtime ∧ mapOkFrom (fun _ => true) 0 placed.pairs = true ∧
    mapOkFrom (fun _ => true) 0 placed.quads = true := by decide
theorem test_met_chain : 0 < ((withQuad 71 (fun x => { x with clamp := 1 }) placed).quad 71).clamp ∧
    [1, 0, 2, 3, 4, 5].filter (fun k => ((withQuad 71 (fun x => { x with clamp := 1 }) placed).quad 71).chainperm.getLsbD k) = 1 :: [0, 2, 3, 4, 5] ∧
    ((withQuad 71 (fun x => { x with chainperm := 0 }) placed).quad 71).chainperm = 0 := by decide
def warm (life : Nat) (l : List (Nat × Int)) : State := placed.setDie 3 { placed.die 3 with life := life, readings := l }
theorem test_met_junction : placed.pkg.booted = true ∧ mapOkFrom (fun _ => true) 0 (warm 500 [(0, 96)]).dies = true ∧
    lifeClass 100 < ((warm 2000 []).die 3).life ∧ ((warm 500 [(0, 96)]).die 3).life ≤ lifeClass 90 ∧
    (∀ c ∈ [(2000, 85), (1000, 95), (500, (105 : Int))], ((warm 500 [(0, 96)]).die 3).life < c.1 →
      ∃ r ∈ ((0 : Nat), (90 : Int)) :: [(0, 96)], c.2 < r.2 + 5) ∧
    ((warm 500 []).die 3).life ≤ lifeClass 80 ∧ ((warm 500 []).die 3).life < 1000 ∧ (∀ r ∈ [((0 : Nat), (80 : Int))], r.2 + 5 ≤ 95) :=
  ⟨by decide, by decide, by decide, by decide, by decide, by decide, by decide, by decide⟩
theorem test_met_stack : (11 : Nat) < 12 ∧ mapOkFrom (fun _ => true) 0 placed.hbm = true ∧ (placed.stack 11).row < heatRow 119 ∧
    heatRow 84 = (placed.stack 11).row ∧ (120 : Int) ≤ 120 := by decide
theorem test_met_gating : (let s := { withQuad 9 (fun x => { x with power := .hold, since := 0 }) placed with devtime := 100 };
      decide ((s.quad 9).power = .hold) && decide ((s.quad 9).since + 100 ≤ s.devtime) && decide (99 < (s.quad 9).since + 100)) = true ∧
    ((withQuad 9 (fun x => { x with power := .lowering 5 true }) placed).quad 9).power = .lowering 5 true ∧
    ((withQuad 9 (fun x => { x with power := .lowering 5 false }) placed).quad 9).power = .lowering 5 false ∧
    ((withQuad 9 (fun x => { x with power := .retention }) placed).quad 9).since + 2000 ≤ 2000 ∧
    ((withQuad 9 (fun x => { x with power := .ramping }) placed).quad 9).since + 400 ≤ 400 := by decide
def waking (ramps : Nat) : State :=
  withQuad 17 (fun x => { x with power := .waiting })
    ((List.range ramps).foldl (fun s k => withQuad k (fun x => { x with power := .ramping }) s) (placed.setDie 0 { placed.die 0 with wakes := [17] }))
theorem test_met_ramps : ((waking 1).die 0).wakes = 17 :: [] ∧ ((waking 2).quad 17).power = .waiting ∧
    ((List.range 18).filter fun i => ((waking 1).quad (18 * 0 + i)).power == .ramping).length < 2 ∧
    2 ≤ ((List.range 18).filter fun i => ((waking 2).quad (18 * 0 + i)).power == .ramping).length := by decide +kernel

theorem test_met_watchdogs : (stopped false).stopSince + 20000 ≤ ({ on (stopped false) with devtime := 20000 } : State).devtime ∧
    (on (stopped false)).devtime < (stopped false).stopSince + 20000 ∧ (0 + 50000 ≤ ({ placed with devtime := 50000 } : State).devtime) ∧
    ({ placed with pkg := { placed.pkg with stopped := true } } : State).pkg.stopped = true ∧ placed.pkg.stopped = false ∧ placed.agenda = [] := by decide
/-- A seat with a trace area of 4 KiB at 0x30000 that holds 8 bytes, or is full. -/
def tracing (used : Nat) : Seat := { s0 with sr := { s0.sr with sbase := 0x30, ssize := 1, swptr := BitVec.ofNat 64 used } }
theorem test_met_record : (tracing 8).sr.ssize ≠ 0 ∧ (tracing 8).sr.trcErr = false ∧ 0 < (tracing 8).sr.swptr.toNat % 4096 ∧
    (tracing 8).sr.swptr.toNat % 4096 + 24 ≤ 4096 ∧ 24 + ((tracing 8).sr.swptr.toNat - (tracing 8).sr.srdptr.toNat) ≤ 4096 * (tracing 8).sr.ssize.toNat ∧
    4096 * (tracing 4104).sr.ssize.toNat < 24 + ((tracing 4104).sr.swptr.toNat - (tracing 4104).sr.srdptr.toNat) ∧ s0.sr.ssize = 0 ∧
    ((on s0).die (dieOf 0)).baro = none := by decide
theorem test_met_record_write : hitAnd ((on (tracing 8)).translate ((tracing 8).engine 0) .estore (((tracing 8).sr.sbase ++ 0#12) +
    BitVec.ofNat 64 ((tracing 8).sr.swptr.toNat % 4096))) (fun _ _ => true) = true := by decide +kernel
def sample0 : Sample := ⟨1, 4, 0x10000, 7, Vector.replicate 8 1⟩
theorem test_met_sampled : (on { tracing 8 with samples := [sample0] }).seat 0 = some { tracing 8 with samples := [sample0] } ∧ sample0.vl < 2 ^ 32 ∧
    (((on { tracing 8 with samples := [sample0] }).setSeat 0 { tracing 8 with samples := [] }).writeRecord 0 (List.replicate 96 0)).isSome = true :=
  ⟨rfl, by decide, by decide +kernel⟩
def baro0 (stopAt : Option Nat) (written : Nat) : Baro := ⟨0, 0, .immediate, .hostCommand, 3, true, stopAt, false, written, 0, false, []⟩
theorem test_met_barograph : dieOfCore 287 = 3 ∧ (mapFind (commanding ctx1 entry7 placed).vis 0).isSome = true ∧ BaroTrigger.pc 4 ≠ .anyTrap ∧
    BaroTrigger.pc 4 ≠ .hostCommand ∧ BaroTrigger.hostCommand ≠ .immediate ∧ (baro0 none 2).running = true ∧ (baro0 none 2).stopAt = none ∧
    (baro0 (some 2) 5).stopAt = some 2 ∧ (baro0 (some 2) 5).written = 2 + (baro0 (some 2) 5).post ∧
    ((placed.setDie 3 { placed.die 3 with baro := some (baro0 none 2) }).die 3).baro = some (baro0 none 2) := by decide

theorem test_met_boot : State.reset.pkg.booted = false ∧ State.reset.pkg.recovery = false ∧ (List.replicate 4 (60 : Int)).length = 4 ∧
    (List.replicate 12 (60 : Int)).length = 12 := by decide
def provision0 : ViProvision := ⟨1, 7, 0x100000, 4096, [], [], 143⟩
theorem test_met_provision : (1023 : Nat) < 1024 ∧ mapFind (commanding ctx1 entry7 placed).vis 1023 = none ∧ 16 ≤ provision0.ringSize ∧
    provision0.ringSize ≤ 4096 ∧ provision0.domain < 144 ∧ (∀ x ∈ (commanding ctx1 entry7 placed).vis, x.2.prov.keySet ≠ provision0.keySet ∧ x.2.prov.fabricAddr ≠ provision0.fabricAddr) ∧
    provision0.ringBase + 64 * provision0.ringSize ≤ 4 * (192 - placed.pkg.lg) * gib ∧
    (∀ f ∈ placed.frames, provision0.ringBase + 64 * provision0.ringSize ≤ f.1 ∨ f.1 + f.2 ≤ provision0.ringBase) ∧
    (∀ x ∈ (commanding ctx1 entry7 placed).vis, provision0.ringBase + 64 * provision0.ringSize ≤ x.2.prov.ringBase ∨
      x.2.prov.ringBase + 64 * x.2.prov.ringSize ≤ provision0.ringBase) := by decide
theorem test_met_tlbi : encode (.tlbi 1 0) ≠ none ∧ (∀ x ∈ (on (privileged s0)).seats, x.2.pend = []) ∧
    (reg s0 1 (5 * 2 ^ 52 + 9)).reg 1 = 5 * 2 ^ 52 + 9 ∧ ((5 * 2 ^ 52 + 9 : Word).extractLsb' 44 8 = 0) ∧ ((5 * 2 ^ 52 + 9 : Word).extractLsb' 52 12).toNat = 5 ∧
    (reg s0 1 4095).reg 1 = BitVec.ofNat 64 4095 ∧ s0.reg 1 = 0 := by decide

/-! ### Hypotheses met: steps, invariants -/

theorem test_met_turn : HasTurn (program vaddWord haltWord) 0 s0 ∧ ((program vaddWord haltWord).die (dieOf 0)).baro = none ∧
    (program vaddWord haltWord).seat (otherSeat 0) = none :=
  ⟨{ toCtl := ⟨rfl, rfl⟩, runs := rfl, booted := rfl, agenda := rfl, issues := by decide +kernel, replay := rfl }, rfl, rfl⟩
/-- The word at the seat's position is an instruction, or is none. -/
theorem test_met_step : okAnd ((on s0).fetchAt (s0.who 0) s0.pc s0.pc) (fun r => (decodeWord r.1).isSome) = true ∧
    okAnd (((on s0).homePut 0x10000 [255, 255, 255, 255]).fetchAt (s0.who 0) s0.pc s0.pc) (fun r => (decodeWord r.1).isNone) = true := by decide +kernel
theorem test_met_step_fetch : hitAnd ((on s0).translate (s0.who 0) .fetch s0.pc) (fun h _ => decide (h.mt = 0)) = true := by decide +kernel
theorem test_met_step_fault : okAnd ((on beyond).fetchAt (beyond.who 0) beyond.pc beyond.pc) (fun _ => true) = false ∧ HasTurn (on beyond) 0 beyond :=
  ⟨by decide +kernel, { toCtl := ⟨rfl, rfl⟩, runs := rfl, booted := rfl, agenda := rfl, issues := by decide +kernel, replay := rfl }⟩
theorem test_met_lane_turn : LaneTurn (onLane 255 (fetching0 true)) 0 255 (fetching0 true) vp0 ∧
    ((fetching0 true).fork.map fun f => (f.buffered (255 / 32) (vp0.pc.toNat / 512)).isSome) = some true :=
  ⟨{ toLane := ⟨rfl, rfl, rfl⟩, runs := rfl, booted := rfl, agenda := rfl, issues := by decide +kernel }, by decide +kernel⟩
theorem test_met_round_trip : (Instr.addImm 31 31 0xFFFF).wf = true ∧ encode (.addImm 31 31 0xFFFF) ≠ none ∧ decodeWord 0x00000000 = some (.add 0 0 0) := by
  decide
theorem test_met_element : Fmt.int4.cls = .integer ∧ Fmt.int32.cls = .integer ∧ Fmt.bf16.cls = .float ∧ (0x8000 : Nat) < 2 ^ Fmt.bf16.width ∧
    (∃ s, floatValue .bf16 0x7FC0 = .nan s) := ⟨by decide, by decide, by decide, by decide, ⟨_, rfl⟩⟩

theorem tidy_placed : Tidy placed where
  mem := by decide +kernel
  seats := by unfold Rising; decide
  cores := by unfold Rising; decide
  quads := by unfold Rising; decide
  pairs := by unfold Rising; decide
  dies := by unfold Rising; decide
  hbm := by unfold Rising; decide
  tiles := by unfold Rising; decide
  seat := by
    intro key q h
    have hs : placed.seat key = if 0 = key then some s0 else if key < 0 then none else none := rfl
    rw [hs] at h
    split at h
    · cases h
      refine ⟨by decide, by decide, (by intro f hf; cases hf), ?_, by decide⟩
      intro e t he
      have : s0.v = Vector.replicate 63 none := rfl
      simp [Seat.entry, this] at he
    · simp at h
  image := by
    intro l hl n hn q hq
    have h0 : placed.launches = [placedLaunch] := rfl
    have h1 : l = placedLaunch := by simpa [h0] using hl
    subst h1
    have h2 : n = placedNode := List.mem_singleton.mp hn
    subst h2
    cases hq
theorem lines_placed (core : Nat) : (placed.core core).l1 = [] := by
  have h : placed.core core = (if 0 = core then some (placed.core 0) else if core < 0 then none else none).getD {} := rfl
  rw [h]
  split
  · rfl
  · simp
theorem orderly_placed (core : Nat) : Orderly placed core := by
  refine ⟨by decide, ?_, ?_⟩
  · intro c _ l hl; rw [lines_placed] at hl; cases hl
  · intro c _; rw [lines_placed]; simp
def isNext (x : Host.Outcome State Fault Refusal) : Bool := match x with | .next _ => true | _ => false
theorem test_met_steps : isNext (step placed) = true ∧ Tidy placed ∧ ∀ core, Orderly placed core :=
  ⟨by decide +kernel, tidy_placed, orderly_placed⟩

/-! ### Single steps, against figures of the spec or hand calculation -/

/-- What an instruction leaves of a seat of the placed package. -/
def after (q : Seat) (i : Instr) : Seat :=
  match exec i (on q) with
  | .next s => (s.seat 0).getD q
  | _ => q
def two (a b : Word) : Seat := reg (reg s0 1 a) 2 b

theorem test_add_wraps : (after (two (-1) 2) (.add 3 1 2)).reg 3 = 1 ∧ (after (two (-1) 2) (.add 3 1 2)).pc = 0x10004 := by decide +kernel
theorem test_zero_register : (after (two 5 6) (.add 0 1 2)).reg 0 = 0 := by decide +kernel
theorem test_div_by_zero : (after (two 7 0) (.div 3 1 2)).reg 3 = 0xFFFFFFFFFFFFFFFF := by decide +kernel
theorem test_branch_taken : (after (two 4 4) (.beq 1 2 4)).pc = 0x10010 ∧ (after (two 4 5) (.beq 1 2 4)).pc = 0x10004 := by decide +kernel
theorem test_load_sign : (match exec (.ldB 3 1 0) ((on (two 0x30000 0)).homePut 0x30000 [0x80]) with
    | .next s => (s.seat 0).map (·.reg 3)
    | _ => none) = some 0xFFFFFFFFFFFFFF80 := by decide +kernel

/-- 04: 1 + 2^−9 rounds up to BF16 1.0078125 where rbits is 0. -/
theorem test_stochastic : (deliver (floatValue .fp32 0x3F804000) .bf16 ⟨.sr, 0, true⟩ 0).1 = 0x3F81 := by decide +kernel
/-- 12: the geometry word of v39 is a RECT of 4 × 4 BF16 elements at row 20, column 2. -/
theorem test_geometry_rect : (after (two 0x0000020060300214#64 1) (.defr 39 1 2)).entry 39 = some ⟨.rect, 20, 2, 4, 4, .bf16⟩ := by decide +kernel
/-- Table 4.11, MX: the codes and the scale of the block 3.0, −0.703125, 0.2578125, and its NX flag
(UF too, by R88: assumption 19). -/
def mxBlock : Seat := { vec0 with plane := [(1024, 0x40400000), (1025, 0xBF340000), (1026, 0x3E840000)] }
theorem test_quantise_codes : mapGet 0 (after mxBlock (.vqnt 7 5 8 0)).plane (6 * 256) = 0x1B7#32 ∧
    mapGet 0 (after mxBlock (.vqnt 7 5 8 0)).plane (7 * 256) = 0x7E#32 ∧ (after mxBlock (.vqnt 7 5 8 0)).sr.excflags.getLsbD 0 = true := by decide +kernel
/-- 04: of the group 3.0, −5.0, NaN, 5.0 positions 1 and 2 are kept at 2:4. -/
def nmGroup : Seat := { vec0 with plane := [(256, 0x40400000), (257, 0xC0A00000), (258, 0x7FC00001), (259, 0x40A00000)] }
theorem test_select : mapGet 0 (after nmGroup (.vnmsel 1 2 9 0)).plane 0 = 0xC0A00000#32 ∧ mapGet 0 (after nmGroup (.vnmsel 1 2 9 0)).plane 1 = 0x7FC00001#32 ∧
    mapGet 0 (after nmGroup (.vnmsel 1 2 9 0)).plane (8 * 256) = 0x21#32 := by decide +kernel

/-! ### Hypotheses met: waits for a page that migrates, stops within a command, and other clauses -/

/-- The page at 2^36 migrates: its leaf has MIG. -/
def migrates (s : State) : State := s.homePut 0x4008 (leBytes 8 (2 ^ 57 + 0x3F1))
/-- An access has to wait for it. -/
def waits (x : Xl × State) : Bool :=
  match x with
  | (.wait, _) => true
  | _ => false
/-- The successor list at 0x30000 names a node in that page. -/
def waitingList : State := (migrates (finishing 0x30000)).homePut 0x30008 (leBytes 8 (2 ^ 36))
theorem test_met_successor_waits : okAnd (waitingList.engineGet (waitingList.schedWho 0) 2 (0x30000 + BitVec.ofNat 64 (8 + 8 * 0)) 8) (fun r =>
    decide (leNat r.1 = 2 ^ 36) && waits (r.2.2.translate (waitingList.schedWho 0) .atomic (BitVec.ofNat 64 (2 ^ 36) + 4))) = true := by decide +kernel
/-- A trace area in it. -/
def tracingThere : Seat := { s0 with sr := { s0.sr with sbase := 0x1000000, ssize := 1, swptr := 8 } }
theorem test_met_record_waits : waits ((migrates (on tracingThere)).translate (tracingThere.engine 0) .estore ((tracingThere.sr.sbase ++ 0#12) +
    BitVec.ofNat 64 (tracingThere.sr.swptr.toNat % 4096))) = true ∧ ((migrates (on tracingThere)).writeRecord 0 (List.replicate 24 0)) = none := by
  decide +kernel
/-- A copy descriptor in it. -/
theorem test_met_completion_waits : waits ((migrates (on (working (.copy xfer0) false))).translate ((working (.copy xfer0) false).engine 0) .estore
    (({ xfer0 with desc := 2 ^ 36 } : Xfer).desc + 48)) = true := by decide +kernel

/-- Doorbells: the counter that an entry's doorbell leaves, and the entry. -/
def unlisted : State := commanding ctx1 (entryOf 12 0 0 0 0 0) placed
theorem test_met_doorbell_entry : unlisted.homeGet (vi0.prov.ringBase + 64 * (vi0.next % vi0.prov.ringSize)) 64 = Entry.bytes (entryOf 12 0 0 0 0 0) ∧
    ¬ Listed (entryOf 12 0 0 0 0 0) ∧ ¬ Listed (entryOf 5 0 3 0 0 0) ∧ Listed (entryOf 5 0 2 0 0 0) ∧
    vi0.doorbell + BitVec.ofNat 64 0 = BitVec.ofNat 64 (vi0.next + 1) ∧ ({ vi0 with next := 1 } : Vi).doorbell + BitVec.ofNat 64 0 = BitVec.ofNat 64 1 ∧
    unlisted.pkg.stopped = false ∧ unlisted.pkg.recovery = false := by
  refine ⟨by decide +kernel, ?_, ?_, ?_, by decide, by decide, by decide, by decide⟩ <;> unfold Listed <;> decide
theorem test_met_graph_complete : OnCtx (loading 0) 0 vi0 (entryOf 3 1 0x30000 1 0 0) 3 0 ctx1 ∧ ∀ i, i < (entryOf 3 1 0x30000 1 0 0).a1.toNat → i = 0 := by
  refine ⟨{ found := by decide +kernel, due := by decide, entry := by decide +kernel, serves := by decide, opc := rfl, ctx := rfl }, ?_⟩
  intro i h
  have : (entryOf 3 1 0x30000 1 0 0).a1.toNat = 1 := rfl
  omega
theorem test_met_image_read : okAnd ((commanding ctx1 (entryOf 9 1 0x40000 0 0 0) placed).engineGet
    ((commanding ctx1 (entryOf 9 1 0x40000 0 0 0) placed).schedWho 0) (2 + 1) 0x40000 2) (fun r => decide (r.1 = [0, 0])) = true := by decide +kernel

/-- An MMT of two row-steps, queued. -/
def mx4 : Seat := { mx0 with buf := Vector.replicate 2 (some { tile0 with k := 4 }) }
def queuedMmt : State :=
  match exec (.mmt 1 0 1 0) { on mx4 with hold := true } with
  | .next s => s
  | _ => on mx4
/-- It stops before its second row-step. -/
def stopsWithin (s : State) : Bool :=
  match s.seat 0 with
  | some q => match q.pend with
    | [x] => decide (x.queue = .m) && !x.sysScope && decide (x.did = []) && q.gathers.isEmpty && q.park.isNone && decide (x.cmd = .mmt .acc) &&
        decide (x.chain = none) && !x.partial_ &&
        match s.perform 0 { x with rowLim := some 1 } with
        | .part s' x' => decide (x'.queue = .m ∧ x'.row = 1) &&
            match s'.seat 0 with
            | some q' => decide (q'.pend = [x] ∧ q'.byp = none ∧ q'.replay = none ∧ q'.aside = [])
            | none => false
        | _ => false
    | _ => false
  | none => false
theorem test_met_within : stopsWithin queuedMmt = true := by decide +kernel
theorem test_met_unstopped : Unstopped s0 ∧ (stopped false).byp = none ∧ (stopped false).stopping = some .page ∧
    ∀ x ∈ (stopped false).pend ++ (stopped false).aside, x.partial_ = false ∧ x.did = [] :=
  ⟨⟨rfl, rfl, fun ch a r h => by simp [show s0.chan = Vector.replicate 4 none from rfl] at h⟩, rfl, rfl, by decide⟩
/-- An error in a page of the interleaved region, and in the first tile of a fleeting array, live or not. -/
theorem test_met_error_address : okAnd ((on s0).walk 0 0x30000) (fun l => decide (ptePlc l.word ≠ 5) &&
    decide (regionOf (on s0).pkg.lg (ptePa l.word + 0x30000 % l.size) = .interleaved)) = true := by decide +kernel
def fleetingMap : State :=
  ((on s0).mapPages 0 (2 ^ 36) 16384 (BitVec.ofNat 64 (2 ^ 58 + 2 ^ 61 + 0x30)) [fleetBase 0] [0x204000, 0x208000]).getD (on s0)
theorem test_met_error_tile (live : Bool) : okAnd (fleetingMap.walk 0 (2 ^ 36)) (fun l => decide (ptePlc l.word ≠ 5) &&
    decide (regionOf fleetingMap.pkg.lg (ptePa l.word + 2 ^ 36 % l.size) = .fleeting 0) &&
    ((tiled (!live) fleetingMap).liveAt (ptePa l.word + 2 ^ 36 % l.size) == live)) = true := by cases live <;> decide +kernel
theorem test_met_stopped_rings : ∀ x ∈ ({ placed with vis := [(0, { vi0 with next := 1 })] } : State).vis, x.2.doorbell = BitVec.ofNat 64 x.2.next := by decide
theorem test_met_firmware_kill : (on s0).seat 0 = some s0 ∧ (on s0).ctx s0.ctx = some ctx1 ∧ ctx1.reclaim = none := ⟨rfl, rfl, rfl⟩

/-- A page whose frame a queued store has been translated to. -/
def requesting : State :=
  let q : Seat := { s0 with pend := [{ s0.capture (.stD 1 1 0) (.store 8) .p with pa := some (0, 0, 7) }] }
  { migrating queued0 with seats := [(0, q)] }
theorem test_met_requests : okAnd (requesting.walk 0 (2 ^ 36)) (fun l => requesting.requestsOn 0x200000 == decide (ptePa l.word = 0)) = true ∧
    requesting.requestsOn 0 = true ∧ (migrating queued0).requestsOn 0x200000 = false := by decide +kernel
theorem test_met_held : ∃ c, ({ queued0 with die := none, copied := true, held := [(c, 48, [1, 2])] } : Mig).held = (c, 48, [1, 2]) :: [] ∧
    (migrating queued0).ctxs.isEmpty = false := ⟨BitVec.ofNat 12 1 ++ (0 : BitVec 6), rfl, by decide⟩

/-- Both quads of pair 0 run, or neither quad of pair 35; samples at tick 50 and after. -/
def paired : State :=
  let s := withQuad 1 (fun x => { x with power := .on, lvl := 1 }) (withQuad 0 (fun x => { x with power := .on, lvl := 1 }) placed)
  { s with devtime := 50 }
theorem test_met_samples : ¬ Carried paired 0 ∧ ¬ Carried paired 1 ∧ Carried placed 70 ∧ paired.devtime % 50 = 0 ∧
    (({ paired with devtime := 60 }.setPair 0 { paired.pair 0 with lastSample := some 50 } : State).pair 0).lastSample = some 50 ∧ 60 < 50 + 50 := by
  unfold Carried; decide +kernel
theorem test_met_half : Half (paired.pair 0).lastSample paired.devtime ∧ Half (some 0) 50 ∧ Half (paired.quad 0).lastWithdraw paired.devtime ∧
    Fused paired 71 := by
  refine ⟨?_, ?_, ?_, ?_⟩ <;> intro t h <;> cases h
  exact Nat.le_refl _
theorem test_met_sensor : (∀ r l, ((warm 500 [(0, 96)]).die 3).readings = r :: l → r.1 + 100000 ≤ ({ warm 500 [(0, 96)] with devtime := 100000 } : State).devtime) ∧
    ∀ t, (placed.stack 11).readAt = some t → t + 100000 ≤ placed.devtime := by
  refine ⟨?_, ?_⟩
  · intro r l h
    have e : ((warm 500 [(0, 96)]).die 3).readings = [(0, 96)] := by decide
    rw [e] at h; cases h; decide
  · intro t h; cases h

/-- ERET from a trap of a processor after WATCH, and after a handler that has written EPC. -/
def watchTrap : Seat := { forkTrap with sr := { forkTrap.sr with causeCode := codeWatch } }
theorem test_met_eret_watch : Ctl (on watchTrap) 0 watchTrap ∧ watchTrap.status.intrap = true ∧ watchTrap.sr.causeCode = codeWatch ∧ watchTrap.status.lane = true ∧
    watchTrap.trappedVp = some 255 ∧ ({ replayTrap false with sr := { (replayTrap false).sr with epc := 4 } } : Seat).sr.epc ≠
      (replay0 vaddWord 0 1).base + BitVec.ofNat 64 (4 * (replay0 vaddWord 0 1).pos) := ⟨⟨rfl, rfl⟩, rfl, rfl, rfl, by decide, by decide⟩

/-- Events of a routine at work. -/
theorem test_met_routine_events : Working (on (working (.xform xfer0) false)) 0 (working (.xform xfer0) false) 3 (active0 (.xform xfer0) false) ∧
    (active0 (.xform xfer0) false).since + 732 ≤ ({ on (working (.xform xfer0) false) with devtime := 732 } : State).devtime ∧
    (on (working (.xform xfer0) false)).devtime < (active0 (.xform xfer0) false).since + 732 ∧ 32768 < 32769 ∧ (List.replicate 3 (0 : Byte)).length ≤ 32768 :=
  ⟨⟨by decide, rfl, by decide⟩, by decide, by decide, by decide, by decide⟩
/-- A later command of the prefetch's channel waits. -/
theorem test_met_prefetch_stops : ∃ c ∈ ({ working (.prefetch xfer0) false with pend := [s0.capture (.cpcfg 1 2 3) (.copy xfer0) (.c 3)] } : Seat).pend,
    c.queue = .c (3 : Fin 4) := ⟨_, .head _, rfl⟩

/-- A GRED of two elements and two packages: its own part, its sum, and the write of it. -/
def redPart (started : Bool) (got : List (Nat × Nat × List Byte)) : CollPart := { part0 0 0 true started with desc := { (part0 0 0 true started).desc with len := 2 }, got := got }
def contributes : Bool :=
  let s := collecting (redPart false [])
  match ownPart (s.collWho 0) (redPart false []).desc 4 2 0 s with
  | (l, none, _) => decide (l.length = 8)
  | _ => false
theorem test_met_contribution : contributes = true ∧ gredFmt (redPart false []).desc.fmt = some .fp32 ∧ (part0 0 0 true false).mismatched = false := by decide +kernel
def reduces : Bool :=
  let p := redPart true [(0, 0, List.replicate 8 0), (1, 0, List.replicate 8 0)]
  let s := collecting p
  match p.reduced .fp32 with
  | some vals => match redWrite (s.collWho 0) (s.collCores p) p.desc 4 vals s with
    | some (_, none, t) => (t.endColl p vals.length).isSome
    | _ => false
  | none => false
theorem test_met_reduction : reduces = true := by decide +kernel
theorem test_met_part_completes : ((collecting (part0 0 0 false true)).endColl (part0 0 0 false true) 1).isSome = true ∧
    ((collecting (part0 0 0 false false)).endColl { part0 0 0 false false with fault := some (codeIllop, 1, 0) } 0).isSome = true := by decide +kernel

/-! ### Single steps of the new parts, against the rules -/

/-- R302: a doorbell of 1 for an entry that Table 15.3 does not list is answered BADARG. -/
theorem test_doorbell_unlisted : (match exec (.doorbell 0 ⟨3, 0⟩) unlisted with
    | .next s => s.out.head?
    | _ => none) = some (.completion 0 3 9 6 0 0 0 0 0) := by decide +kernel
/-- R162: a store to a page that migrates waits, and the seat stays where it is. -/
theorem test_store_waits : (match exec (.stD 2 1 0) (migrates (on (two (2 ^ 36) 5))) with
    | .next s => (s.seat 0).map (·.pc)
    | _ => none) = some 0x10000 := by decide +kernel
/-- R290: MARK of 24 bytes leaves SWPTR 24 further. -/
theorem test_mark : (match exec (.tmark 1) (on (tracing 8)) with
    | .next s => (s.seat 0).map (·.sr.swptr)
    | _ => none) = some 32 := by decide +kernel

/-! ### Hypotheses met: the forms added last -/

/-- A virtual processor of lane 255 with its divergence stack, and the area at 0x20000; a watchpoint on the words of spill 3. -/
def lane8 (l : List Word) (spilled : Nat) (watch : Bool) : Vp × Seat :=
  let v : Vp := ⟨0x10000, l, spilled, false, false⟩
  let q := forked 255 v s0
  (v, { q with sr := { q.sr with
    dvsp := 0x100
    wpMode := if watch then q.sr.wpMode.set 0 3 else q.sr.wpMode
    wpLow := q.sr.wpLow.set 0 0x3FEC0, wpHigh := q.sr.wpHigh.set 0 0x3FEC0 } })
theorem test_met_lane_spill (watch : Bool) : let x := lane8 (List.replicate 8 4) 3 watch
    Lane (onLane 255 x.2) 0 255 x.2 x.1 ∧ x.2.pend = [] ∧ spillOf x.2 255 3 = 0x3FEC0 ∧
    (watchedIn x.2 255).watchHit 0x3FEC0 64 true = (if watch then some 0 else none) ∧
    ∃ h s, (onLane 255 x.2).translate (x.2.who 0) .vstore (spillOf x.2 255 3) = (.ok h, s) ∧ decide (h.mt = 0) = true := by
  cases watch <;> exact ⟨⟨rfl, rfl, rfl⟩, rfl, by decide, by decide, xl_ok (fun h _ => decide (h.mt = 0)) (by decide +kernel)⟩
theorem test_met_lane_full : let x := lane8 (List.replicate 8 4) 8 false
    Lane (onLane 255 x.2) 0 255 x.2 x.1 ∧ 8 ≤ x.1.stack.length ∧ 8 ≤ x.1.spilled := ⟨⟨rfl, rfl, rfl⟩, by decide, by decide⟩
theorem test_met_lane_misaligned : (lane8 [4, 6] 0 false).1.stack = [4] ++ [6] ∧ (6 : Word).toNat % 4 ≠ 0 := by decide
theorem test_met_lane_refill (watch : Bool) : let x := lane8 [] 4 watch
    x.1.stack = [] ∧ 0 < x.1.spilled ∧ (watchedIn x.2 255).watchHit 0x3FEC0 64 false = (if watch then some 0 else none) ∧
    (hitAnd ((onLane 255 x.2).translate (x.2.who 0) .vload (spillOf x.2 255 3)) fun h s =>
      okAnd (s.readRun 0 0 h 8) fun r => decide (r.1 = List.replicate 7 0 ++ [0]) && !r.2.1) = true := by
  cases watch <;> decide +kernel
/-- The area beyond what the context maps; and a spill that was overwritten with an address that is not a multiple of 4. -/
def laneBeyond : Seat := { (lane8 [] 4 false).2 with sr := { s0.sr with dvsp := BitVec.ofNat 55 (2 ^ 40) } }
theorem test_met_lane_stack_faults : (∃ f s, (onLane 255 laneBeyond).translate (laneBeyond.who 0) .vload (spillOf laneBeyond 255 3) = (.fault f, s)) ∧
    (∃ f s, (onLane 255 laneBeyond).translate (laneBeyond.who 0) .vstore (spillOf laneBeyond 255 3) = (.fault f, s)) ∧
    (hitAnd ((((onLane 255 (lane8 [] 4 false).2).homePut (0x3FEC0 + 56) [6])).translate ((lane8 [] 4 false).2.who 0) .vload 0x3FEC0) fun h s =>
      okAnd (s.readRun 0 0 h 8) fun r => decide (r.1 = List.replicate 7 0 ++ [6])) = true := ⟨⟨_, _, rfl⟩, ⟨_, _, rfl⟩, by decide +kernel⟩

/-- A load of a compressed page, from the L1 or expanded at its home; of a window that an FRR covers, or none; from device space. -/
theorem test_met_expanded : okAnd ((((on s0).homePut 0x100000 [0, 2]).expandAt 0x100000)) (fun _ => true) = true ∧
    (expandedLine ((on s0).homePut 0x100000 [0, 2]) 0x100000).isSome = true ∧ expandedLine ((on s0).homePut 0x100000 [255, 255]) 0x100000 = none ∧
    windowByte (on s0) 0x100000 = none := by decide +kernel
theorem test_met_kinds : pteMt (leafOf 0x100000 2 0) = 2 ∧ pteMt (leafOf 0x100000 4 0) = 4 ∧ pteW (leafOf 0x100000 4 0) = true ∧
    pteR (leafOf 0x100000 3 0) = true ∧ pteU (leafOf 0x100000 3 0) = true ∧
    protFault (.store 1) true (leafOf 0x100000 4 0) = some pDevice ∧ protFault (.store 8) true (leafOf 0x100000 4 0) = none := by decide

/-- Float formats, values and fractions of the element rules. -/
theorem test_met_float : floatValue .fp32 0x3F800000 = .fin false 0x800000 (-23) false ∧ Fmt.fp32.cls = .float ∧
    floatValue .bf16 0x8000 = .zero true ∧ floatValue .fp16 0x7C00 = .inf false ∧ floatValue .fp16 0xFE00 = .nan false ∧
    floatValue .fp16 0x7D00 = .nan true ∧ magnitude .fp32 1 = 1 ∧ magnitude .bf16 0x80 = 0x80 := by decide
theorem test_met_blocks : Wide .fp32 ∧ blockValues [some (.zero true), none] = [.zero false] ∧
    Greatest (fun v w => lower v.abs w.abs) [.fin true 3 0 false, .zero false] (.fin true 3 0 false) ∧
    Greatest (fun v w => lower w v) [.fin true 3 0 false, .zero false] (.fin true 3 0 false) ∧
    Greatest lower [.fin true 3 0 false, .zero false] (.zero false) ∧ lower (.fin true 3 0 false) (.zero false) = true := by
  refine ⟨.inl rfl, by decide, ⟨by decide, by decide⟩, ⟨by decide, by decide⟩, ⟨by decide, by decide⟩, by decide⟩

/-- A dense integer tile and a grouped one, with a row that was not loaded. -/
theorem test_met_tiles : ({ tile0 with fmt := .int8, rows := 2 } : Tile).integer = true ∧ tile0.integer = false ∧
    [Machine.Num.ofInt 3, Machine.Num.ofInt (-1)] = [(3 : Int), -1].map Machine.Num.ofInt ∧ ({ tile0 with rows := 2 } : Tile).rows ≤ 2 ∧
    ({ tile0 with mode := .grouped, rows := 2 } : Tile).mode = .grouped := by decide

/-- LDST of a tile whose second row is not mapped, in the plain form and in `.ff` at row 0. -/
theorem test_met_tile_fault : ((loadRows ((loads 0xFFFFFFF00 0).2.engine 0) (loads 0xFFFFFFF00 0).1 (List.range 256) ⟨.bf16, .dense, 256, 32, 0, [], []⟩
    (on (loads 0xFFFFFFF00 0).2)).2.1).map (·.1) = some 1 ∧
    ((loadRows ((loads 0x1000000000 1).2.engine 0) (loads 0x1000000000 1).1 (List.range 4) ⟨.bf16, .dense, 4, 32, 0, [], []⟩
    (on (loads 0x1000000000 1).2)).2.1).map (·.1) = some 0 := by decide +kernel

/-- Data that a copy moves, and one whose destination is not mapped. -/
theorem test_met_copy_data : ((on (working (.copy xfer0) false)).runCopy 0 xfer0).map (fun r => (r.1, r.2.1.isNone)) = some (1, true) ∧
    ((on (working (.copy xfer0) false)).runCopy 0 { xfer0 with dst := 0x1000000000 }).map (fun r => (r.1, r.2.1.isSome)) = some (0, true) := by
  decide +kernel

/-- No reset of the context's stream waits for a migration, and one that does. -/
theorem test_met_reset : NoReset (streaming stream0 (object 3 2 0 2) streamer) 0 ∧
    ¬ NoReset { streaming stream0 (object 3 2 0 2) streamer with migs := [⟨0, 0x30000, none, 0, true, [(0, 0, [1])]⟩] } 0 := by
  constructor
  · intro y _ _ m hm; cases hm
  · intro h
    exact h (0, stream0) (.head _) rfl _ (.head _) rfl rfl _ (.head _) (by decide)
/-- A page that one die asks for in most of an epoch's requests. -/
theorem test_met_epoch_page : adaptive.devtime % 100000 = 0 ∧ okAnd (adaptive.walk 0 (2 ^ 36)) (fun l => decide (ptePlc l.word = 7) && !pteMig l.word &&
    (let n := fun e => mapGet 0 adaptive.epoch (4 * (ptePa l.word / 16384) + e)
     decide (256 ≤ n 1) && decide (3 * (n 0 + n 1 + n 2 + n 3) ≤ 4 * n 1)) &&
    decide (regionOf adaptive.pkg.lg (16384 * (ptePa l.word / 16384)) ≠ .local_ 1)) = true ∧ adaptive.migs = [] := by decide +kernel
/-- Requests and responses of a current and a stale incarnation. -/
theorem test_met_unit_requests : ctx1.inc ≠ 1 ∧ regionOf (on s0).pkg.lg 0x30000 = .interleaved ∧ 0x30000 % 8 = 0 ∧ (4095 : Nat) < 4096 ∧
    okAnd ((on s0).walk 0 0x30000) (fun _ => true) = true ∧ okAnd ((on s0).walk 0 (2 ^ 36)) (fun _ => true) = false ∧
    s0.cin ≠ BitVec.ofNat 12 0 ++ (1 : BitVec 6) ∧ (on s0).seat 1 = none ∧ mapFind (on s0).streams (256 * 0 + 255) = none := by decide +kernel
/-- A routine at work holds the declaration up, and an MMT that stands before its second row refuses the first. -/
theorem test_met_declared : NoRoutine (stopped false) ∧ ¬ NoRoutine { working (.xform xfer0) false with
      chan := s0.chan.set 3 (some { active0 (.xform xfer0) false with routine := some ⟨0, false, [], [], [], Vector.replicate 8 0⟩ }) } ∧
    0 < nextRow { s0.capture (.mmt 1 0 1 0) (.mmt .acc) .m with partial_ := true, row := 1 } := by
  refine ⟨fun ch a r h => ?_, fun h => ?_, by decide⟩
  · simp [show (stopped false).chan = Vector.replicate 4 none from rfl] at h
  · exact absurd (h 3 _ _ rfl rfl) (by decide)
/-- A die that has been cool for 100 ms, and readings that allow a higher LIFE; a pair of which neither quad claims. -/
theorem test_met_cool : (∃ c ∈ [(2000, 85), (1000, 95), (500, (105 : Int))], 500 < c.1 ∧ ∀ r ∈ [((0 : Nat), (80 : Int))], r.2 + 5 ≤ c.2) :=
  ⟨_, .tail _ (.head _), by decide, by decide⟩
/-- A row of an MMT meets an error in its own operands. -/
theorem test_met_error_row : (match queuedMmt.seat 0 with
    | some q => (match q.pend with
      | [x] => decide (0 < x.rowCount) && (match queuedMmt.perform 0 { x with rowLim := some 0 } with
        | .part s' _ => (match s'.seat 0 with | some q' => decide (q'.pend = [x]) | none => false)
        | _ => false)
      | _ => false)
    | none => false) = true := by decide +kernel
/-- A MARK behind a sample that waits; a translation in a set-aside command. -/
theorem test_met_marks : ({ tracing 8 with samples := [sample0] } : Seat).samples ≠ [] ∧ (tracing 8).samples = [] ∧ (tracing 8).sr.ssize ≠ 0 := by decide
theorem test_met_unperformed : ¬ Unperformed (on (privileged s0)) 5 ∧
    Unperformed (on { privileged s0 with aside := [{ s0.capture (.stD 1 1 0) (.store 8) .p with pa := some (0, 0, 7) }] }) 0 := by
  constructor
  · rintro ⟨q, hq, hc, _⟩
    have e : (on (privileged s0)).seats.map (·.2) ++ (on (privileged s0)).saved.map (·.2.2.2) = [privileged s0] := rfl
    rw [e] at hq; simp at hq; subst hq
    rcases hc with hc | hc
    · cases hc
    · exact absurd hc (by decide)
  · exact ⟨_, .head _, .inr rfl, .inl ⟨_, .head _, .inl (by decide)⟩⟩
/-- Rings of two endpoints, and the oldest addition all but spent. -/
theorem test_met_rings : peerOf { vi0 with rings := [(2, 3), (1, 4)] } = 3 ∧ spent [(2, 3), (1, 4)] = [(1, 3), (1, 4)] ∧ spent [(1, 3), (1, 4)] = [(1, 4)] ∧
    peerOf { vi0 with rings := [] } = 0 := by decide
/-- A node of a running launch, of one that is complete, and of one that cannot be reached. -/
theorem test_met_kill_complete : (∀ n ∈ (launchOf [{ placedNode with state := .finished }]).nodes, n.state ≠ .ready ∧ n.state ≠ .bound ∧ n.state ≠ .finishing) ∧
    ¬ (∀ n ∈ (launchOf [ready0 none]).nodes, n.state ≠ .ready ∧ n.state ≠ .bound ∧ n.state ≠ .finishing) := by decide
/-- A window of 128 KiB of decoded codes at 0x200000 over INT8 codes at 0x300000. -/
def windowed : State := { on s0 with frrs := [(0, ⟨BitVec.ofNat 64 (2 ^ 63 + 3 * 2 ^ 60 + 0x30 * 65536), 1, 0x300000, BitVec.ofNat 64 (0x20 * 65536)⟩)] }
theorem test_met_window : (servedLine windowed 3 0x200000).isSome = true ∧ servedLine windowed 3 0x400000 = none ∧
    (servedLine ((on s0).homePut 0x100000 [0, 2]) 2 0x100000).map (·.length) = some 64 := by decide +kernel

end Sys2Proof.Tests
end

section
/-!
SUPPORT. The statement about the SALU (`Obligations.ScalarResults`), in three layers: the functions of Table 16.3 in whole
numbers, at every width; which of them each form of the statement performs; and what a scalar instruction changes in the control
thread and in a virtual processor.
-/
namespace Sys2Proof.Claims
open Sys2Proof.Machine

/-! ### Words from whole numbers -/

@[simp] theorem low_toInt {n : Nat} (x : BitVec n) : low n x.toInt = x := BitVec.ofInt_toInt

@[simp] theorem low_toNat {n : Nat} (x : BitVec n) : low n (x.toNat : Int) = x := by
  simp [low, BitVec.ofInt_natCast]

theorem low_natCast (n k : Nat) : low n (k : Int) = BitVec.ofNat n k := BitVec.ofInt_natCast n k

/-- A word whose signed value is `v` is `v` modulo 2^n. -/
theorem eq_low_of_toInt {n : Nat} {x : BitVec n} {v : Int} (h : x.toInt = v) : x = low n v := by rw [← h, low_toInt]

/-- A word whose unsigned value is `v` is `v` modulo 2^n. -/
theorem eq_low_of_toNat {n : Nat} {x : BitVec n} {v : Nat} (h : x.toNat = v) : x = low n v := by rw [← h, low_toNat]

theorem toInt_eq_zero {n : Nat} (x : BitVec n) : x.toInt = 0 ↔ x = 0 := by rw [← BitVec.toInt_inj]; simp

theorem toNat_eq_zero {n : Nat} (x : BitVec n) : x.toNat = 0 ↔ x = 0 := by rw [← BitVec.toNat_inj]; simp

theorem setIf_eq_flag (n : Nat) {c : Bool} {p : Prop} [Decidable p] (h : c = true ↔ p) : setIf (n := n) c = flag n p := by
  simp only [setIf, flag, h]

/-! ### The functions of Table 16.3 in whole numbers -/

section
variable {n : Nat} (x y : BitVec n) (k : Nat)

theorem add_eq_low : x + y = low n (x.toInt + y.toInt) := by
  simp [low, BitVec.ofInt_add]

theorem sub_eq_low : x - y = low n (x.toInt - y.toInt) := by
  simp [low, Int.sub_eq_add_neg, BitVec.ofInt_add, BitVec.ofInt_neg, BitVec.sub_eq_add_neg]

theorem mul_eq_low : x * y = low n (x.toInt * y.toInt) := by
  simp [low, BitVec.ofInt_mul]

theorem mulHi_eq_low : mulHi x y = low n (x.toInt * y.toInt / 2 ^ n) := by
  simp [mulHi, low]

theorem mulHiU_eq_low : mulHiU x y = low n ((x.toNat * y.toNat / 2 ^ n : Nat) : Int) := (low_natCast n _).symm

/-- The signed quotient wraps where it overflows (R352). -/
theorem divS_eq_quot : divS x y = quot n x.toInt y.toInt := by
  have hq : x.sdiv y = low n (x.toInt.tdiv y.toInt) := by
    apply BitVec.eq_of_toInt_eq
    rw [BitVec.toInt_sdiv, low, BitVec.toInt_ofInt]
  simp only [divS, quot, toInt_eq_zero, hq]

theorem divU_eq_quot : divU x y = quot n x.toNat y.toNat := by
  have hq : x / y = low n ((x.toNat : Int).tdiv y.toNat) := by
    rw [← Int.ofNat_tdiv]
    exact eq_low_of_toNat BitVec.toNat_udiv
  simp only [divU, quot, Int.natCast_eq_zero, toNat_eq_zero, hq]

theorem remS_eq_rest : remS x y = rest n x.toInt y.toInt := by
  have hr : x.srem y = low n (x.toInt.tmod y.toInt) := eq_low_of_toInt (BitVec.toInt_srem x y)
  simp only [remS, rest, toInt_eq_zero, hr, low_toInt]

theorem remU_eq_rest : remU x y = rest n x.toNat y.toNat := by
  have hr : x % y = low n ((x.toNat : Int).tmod y.toNat) := by
    rw [← Int.ofNat_tmod]
    exact eq_low_of_toNat BitVec.toNat_umod
  simp only [remU, rest, Int.natCast_eq_zero, toNat_eq_zero, hr, low_toNat]

theorem shiftLeft_eq_low : x <<< k = low n (x.toNat * 2 ^ k : Nat) := by
  apply BitVec.eq_of_toNat_eq
  rw [low_natCast, BitVec.toNat_shiftLeft, BitVec.toNat_ofNat, Nat.shiftLeft_eq]

theorem shiftRight_eq_low : x >>> k = low n (x.toNat / 2 ^ k : Nat) :=
  eq_low_of_toNat (by rw [BitVec.toNat_ushiftRight, Nat.shiftRight_eq_div_pow])

theorem sshiftRight_eq_low : x.sshiftRight k = low n (x.toInt / 2 ^ k) :=
  eq_low_of_toInt (by rw [BitVec.toInt_sshiftRight, Int.shiftRight_eq_div_pow]; simp)

/-- The shift of LUI leaves no bit of a sign extension to 32 bits (R374). -/
theorem setWidth_shiftLeft_eq_signExtend (i : BitVec 16) : i.setWidth 32 <<< 16 = i.signExtend 32 <<< 16 := by
  ext j hj
  have hlow : j - 16 < 16 := by omega
  simp [BitVec.getElem_signExtend, hlow]

theorem signExtend_shiftLeft_eq_low (m : Nat) : x.signExtend m <<< k = low m (x.toInt * 2 ^ k) := by
  have hpow : BitVec.ofInt m (2 ^ k) = BitVec.twoPow m k := by
    apply BitVec.eq_of_toNat_eq
    have hcast : (2 : Int) ^ k = (2 ^ k : Nat) := (Int.natCast_pow 2 k).symm
    rw [hcast, BitVec.ofInt_natCast, BitVec.toNat_ofNat, BitVec.toNat_twoPow]
  rw [BitVec.shiftLeft_eq_mul_twoPow, low, BitVec.ofInt_mul, hpow, BitVec.signExtend]

theorem setIf_slt_eq_flag : setIf (x.slt y) = flag n (x.toInt < y.toInt) := setIf_eq_flag n BitVec.slt_iff_toInt_lt

theorem setIf_ult_eq_flag : setIf (x.ult y) = flag n (x.toNat < y.toNat) := setIf_eq_flag n BitVec.ult_iff_lt

theorem minS_eq_low : minS x y = low n (min x.toInt y.toInt) :=
  eq_low_of_toInt (by simp only [minS, BitVec.slt_iff_toInt_lt]; split <;> omega)

theorem minU_eq_low : minU x y = low n (min x.toNat y.toNat : Nat) :=
  eq_low_of_toNat (by simp only [minU, BitVec.ult_iff_lt, BitVec.lt_def]; split <;> omega)

theorem maxS_eq_low : maxS x y = low n (max x.toInt y.toInt) :=
  eq_low_of_toInt (by simp only [maxS, BitVec.slt_iff_toInt_lt]; split <;> omega)

theorem maxU_eq_low : maxU x y = low n (max x.toNat y.toNat : Nat) :=
  eq_low_of_toNat (by simp only [maxU, BitVec.ult_iff_lt, BitVec.lt_def]; split <;> omega)

end

/-! ### Bit counts -/

/-- Of the powers 2^0 to 2^(n−1), those above a number that is not 0: it has log2 + 1 bits. -/
theorem count_lt_two_pow {v : Nat} (hv : v ≠ 0) (n : Nat) :
    ((List.range n).map fun k => decide (v < 2 ^ k)).count true = n - (v.log2 + 1) := by
  induction n with
  | zero => simp
  | succ n ih =>
    have hlog : v.log2 < n ↔ v < 2 ^ n := Nat.log2_lt hv
    rw [List.range_succ, List.map_append, List.count_append, ih, List.map_singleton, List.count_singleton]
    simp only [beq_true, decide_eq_true_eq]
    split <;> omega

theorem clzOf_eq_zerosAbove {n : Nat} (x : BitVec n) : clzOf n x.toNat = zerosAbove n x := by
  unfold clzOf zerosAbove
  split
  case isTrue h =>
    have hall : (fun k => decide (x.toNat < 2 ^ k)) = fun _ => true :=
      funext fun k => decide_eq_true (h ▸ Nat.two_pow_pos k)
    rw [hall, List.map_const', List.length_range, List.count_replicate_self]
  case isFalse h => rw [count_lt_two_pow h]; omega

/-- Counting a number's bits from the lowest up, one halving after the other. -/
theorem popOf_eq_count (n v : Nat) : popOf n v = ((List.range n).map v.testBit).count true := by
  induction n generalizing v with
  | zero => rfl
  | succ n ih =>
    have htail : (fun k => v.testBit (k + 1)) = (v / 2).testBit := funext fun k => Nat.testBit_succ v k
    rw [popOf, ih, List.range_succ_eq_map, List.map_cons, List.map_map]
    simp only [Function.comp_def, Nat.succ_eq_add_one, htail, List.count_cons, Nat.testBit_zero]
    rcases Nat.mod_two_eq_zero_or_one v with h | h <;> simp [h, Nat.add_comm]

theorem popOf_eq_onesIn {n : Nat} (x : BitVec n) : popOf n x.toNat = onesIn n x := popOf_eq_count n x.toNat

/-! ### What each form performs -/

/-- The model performs a three-register form by its result in whole numbers, at both widths. -/
def Form.Performed (f : Form) : Prop :=
  ∀ d a b, (f.instr d a b).wf = true ∧ ∀ s, exec (f.instr d a b) s = salu (f.instr d a b) s d a b fun {n} => f.out n

/-- So it does where its own function has the form's values; `exec` and `Instr.wf` compute to what the form names. -/
theorem Form.Performed.of {f : Form} (g : {n : Nat} → BitVec n → BitVec n → BitVec n)
    (hv : ∀ {n : Nat} (x y : BitVec n), g x y = f.out n x y)
    (hw : ∀ d a b, (f.instr d a b).wf = true := by intros; rfl)
    (hg : ∀ d a b s, exec (f.instr d a b) s = salu (f.instr d a b) s d a b g := by intros; rfl) : f.Performed := by
  intro d a b
  refine ⟨hw d a b, fun s => ?_⟩
  simp only [hg, salu, hv]

/-- The model performs an immediate form by its result, with the immediate extended as the form says. -/
def ImmForm.Performed (f : ImmForm) : Prop :=
  ∀ d a i, (f.instr d a i).wf = true ∧
    ∀ s, exec (f.instr d a i) s = saluImm (f.instr d a i) s d a i f.signed fun {n} => f.out n

theorem ImmForm.Performed.of {f : ImmForm} (g : {n : Nat} → BitVec n → BitVec n → BitVec n)
    (hv : ∀ {n : Nat} (x y : BitVec n), g x y = f.out n x y)
    (hw : ∀ d a i, (f.instr d a i).wf = true := by intros; rfl)
    (hg : ∀ d a i s, exec (f.instr d a i) s = saluImm (f.instr d a i) s d a i f.signed g := by intros; rfl) :
    f.Performed := by
  intro d a i
  refine ⟨hw d a i, fun s => ?_⟩
  simp only [hg, saluImm, hv]

/-- The model performs a shift by an immediate amount by its result. -/
def ShiftForm.Performed (f : ShiftForm) : Prop :=
  ∀ d a k h, (f.instr d a k h).wf = true ∧
    ∀ s, exec (f.instr d a k h) s = saluShift (f.instr d a k h) s d a k h fun {n} => f.out n

/-- Amounts in the word are below the width: {h, k} is below 64, and k below 32 (R398). -/
theorem ShiftForm.Performed.of {f : ShiftForm} (g : {n : Nat} → BitVec n → Nat → BitVec n)
    (hv : ∀ {n : Nat} (x : BitVec n) (j : Nat), g x j = f.out n x j)
    (hw : ∀ d a k h, (f.instr d a k h).wf = true := by intros; rfl)
    (hg : ∀ d a k h s, exec (f.instr d a k h) s =
      saluShift (f.instr d a k h) s d a k h (fun {n} x j => g x (j % n)) := by intros; rfl) : f.Performed := by
  intro d a k h
  have hctl : (32 * h.toNat + k.toNat) % 64 = 32 * h.toNat + k.toNat := Nat.mod_eq_of_lt (by omega)
  have hvp : k.toNat % 32 = k.toNat := Nat.mod_eq_of_lt (by omega)
  refine ⟨hw d a k h, fun s => ?_⟩
  simp only [hg, saluShift, hctl, hvp, hv]

theorem arithForms_performed : ∀ f ∈ arithForms, f.Performed := by
  simp only [arithForms, List.forall_mem_cons, List.not_mem_nil, false_imp_iff, implies_true, and_true]
  exact ⟨
    .of (fun x y => x + y) add_eq_low,
    .of (fun x y => x - y) sub_eq_low,
    .of (fun x y => x * y) mul_eq_low,
    .of mulHi mulHi_eq_low,
    .of mulHiU mulHiU_eq_low,
    .of divS divS_eq_quot,
    .of divU divU_eq_quot,
    .of remS remS_eq_rest,
    .of remU remU_eq_rest⟩

theorem bitForms_performed : ∀ f ∈ bitForms, f.Performed := by
  simp only [bitForms, List.forall_mem_cons, List.not_mem_nil, false_imp_iff, implies_true, and_true]
  exact ⟨
    .of (fun x y => x &&& y) fun _ _ => rfl,
    .of (fun x y => x ||| y) fun _ _ => rfl,
    .of (fun x y => x ^^^ y) fun _ _ => rfl,
    .of (fun x y => shlBy x y.toNat) fun x _ => shiftLeft_eq_low x _,
    .of (fun x y => shrBy x y.toNat) fun x _ => shiftRight_eq_low x _,
    .of (fun x y => sraBy x y.toNat) fun x _ => sshiftRight_eq_low x _,
    .of (fun x y => setIf (x.slt y)) setIf_slt_eq_flag,
    .of (fun x y => setIf (x.ult y)) setIf_ult_eq_flag,
    .of minS minS_eq_low,
    .of minU minU_eq_low,
    .of maxS maxS_eq_low,
    .of maxU maxU_eq_low⟩

theorem immForms_performed : ∀ f ∈ immForms, f.Performed := by
  simp only [immForms, List.forall_mem_cons, List.not_mem_nil, false_imp_iff, implies_true, and_true]
  exact ⟨
    .of (fun x y => x + y) add_eq_low,
    .of (fun x y => x &&& y) fun _ _ => rfl,
    .of (fun x y => x ||| y) fun _ _ => rfl,
    .of (fun x y => x ^^^ y) fun _ _ => rfl,
    .of (fun x y => setIf (x.slt y)) setIf_slt_eq_flag,
    .of (fun x y => setIf (x.ult y)) setIf_ult_eq_flag⟩

theorem shiftForms_performed : ∀ f ∈ shiftForms, f.Performed := by
  simp only [shiftForms, List.forall_mem_cons, List.not_mem_nil, false_imp_iff, implies_true, and_true]
  exact ⟨
    .of (fun x j => x <<< j) shiftLeft_eq_low,
    .of (fun x j => x >>> j) shiftRight_eq_low,
    .of BitVec.sshiftRight sshiftRight_eq_low⟩

theorem exec_clz (d a : Reg) (s : State) : exec (.clz d a) s = scalar (.clz d a) s d [a]
    (fun q => BitVec.ofNat 64 (zerosAbove 64 (q.reg a))) (fun l => BitVec.ofNat 32 (zerosAbove 32 (l a))) := by
  simp only [← clzOf_eq_zerosAbove]
  rfl

theorem exec_popc (d a : Reg) (s : State) : exec (.popc d a) s = scalar (.popc d a) s d [a]
    (fun q => BitVec.ofNat 64 (onesIn 64 (q.reg a))) (fun l => BitVec.ofNat 32 (onesIn 32 (l a))) := by
  simp only [← popOf_eq_onesIn]
  rfl

theorem exec_sel (d a b : Reg) (s : State) : exec (.sel d a b) s = scalar (.sel d a b) s d [a, b]
    (fun q => if q.reg d ≠ 0 then q.reg a else q.reg b) (fun l => if l d ≠ 0 then l a else l b) := rfl

theorem exec_lui (d : Reg) (i : BitVec 16) (s : State) : exec (.lui d i) s = scalar (.lui d i) s d []
    (fun _ => low 64 (i.toInt * 2 ^ 16)) (fun _ => low 32 (i.toInt * 2 ^ 16)) := by
  rw [← signExtend_shiftLeft_eq_low, ← signExtend_shiftLeft_eq_low, ← setWidth_shiftLeft_eq_signExtend]
  rfl

/-! ### What a scalar instruction changes -/

section
variable {s : State} {key lane : Nat} {q : Seat} {v : Vp} {i : Instr} {d : Reg} {srcs : List Reg} {f : Seat → Word}
  {g : (Reg → BitVec 32) → BitVec 32}

/-- In the control thread a scalar instruction writes its destination and moves on (R313). -/
theorem sets_of_scalar (hc : Ctl s key q) (hi : exec i s = scalar i s d srcs f g) (hw : i.wf = true)
    (hr : Settled q (d :: srcs)) : Sets s key q i d (f q) := by
  refine ⟨(q.setReg d (f q)).advance, ?_, ?_, fun r => ?_⟩
  · rw [hi, scalar_ctl hc.thr hc.seat hw hr]
  · rw [Seat.setReg_advance]
  · rw [← Seat.reg_setReg]
    simp only [Seat.reg, Seat.advance_s]

/-- A virtual processor that goes on changes in nothing but its position. -/
theorem onlyVp_vpTo (hv : q.vp lane = some v) (w : BitVec 32) (a : Word) :
    OnlyVp q ((q.setLane lane d w).vpTo lane a) lane { v with pc := a } := by
  obtain ⟨fork, hfork, -⟩ := Option.bind_eq_some_iff.mp hv
  refine ⟨⟨fork.vps.map fun x => (x.1, if x.1 = lane then { x.2 with pc := a } else x.2), ?_⟩, ?_, fun l hl => ?_⟩
  · simp [Seat.vpTo, hfork]
  · simp [Seat.vp_vpTo, hv]
  · simp [Seat.vp_vpTo, hl]

/-- A lane register write leaves every other cell of the plane as it was (R46). -/
theorem onlyLanes_setLane (hp : mapWf 0#32 q.plane = true) (w : BitVec 32) (a : Word) :
    OnlyLanes q ((q.setLane lane d w).vpTo lane a) lane (· = d) := by
  intro k hk
  rw [Seat.vpTo_plane, Seat.setLane]
  split
  case isTrue => rfl
  case isFalse hd => rw [mapGet_set _ _ _ hp, if_neg (hk d rfl hd)]

/-- In a virtual processor a scalar instruction writes its lane register and moves on (R47). -/
theorem setsLane_of_scalar (hl : Lane s key lane q v) (hlane : lane < 256) (hp : mapWf 0#32 q.plane = true)
    (hi : exec i s = scalar i s d srcs f g) (hw : i.wf = true) : SetsLane s key lane q v i d (g (q.laneReg lane)) := by
  refine ⟨(q.setLane lane d (g (q.laneReg lane))).vpTo lane (v.pc + 4), ?_, ?_, onlyVp_vpTo hl.vp _ _,
    onlyLanes_setLane hp _ _, fun l r hr => ?_⟩
  · rw [hi, scalar_vp hl.thr hl.seat hl.vp hw]
  · unfold Seat.setLane; split <;> rfl
  · rw [Seat.laneReg_vpTo, Seat.laneReg_setLane hp hlane hr]

end

/-! ### The control thread -/

theorem sets_of_performed {s : State} {key : Nat} {q : Seat} (hc : Ctl s key q) {f : Form} (hf : f.Performed) {d a b : Reg}
    (hr : Settled q [d, a, b]) : Sets s key q (f.instr d a b) d (f.out 64 (q.reg a) (q.reg b)) := by
  obtain ⟨hw, hi⟩ := hf d a b
  exact sets_of_scalar hc (hi s) hw hr

theorem scalarArithmeticRule : ScalarArithmeticRule :=
  fun _ _ _ hc f hf _ _ _ hr => sets_of_performed hc (arithForms_performed f hf) hr

theorem scalarBitsRule : ScalarBitsRule :=
  fun _ _ _ hc f hf _ _ _ hr => sets_of_performed hc (bitForms_performed f hf) hr

theorem scalarImmediatesRule : ScalarImmediatesRule := by
  intro s key q hc d a hr
  refine ⟨fun f hf i => ?_, fun f hf k h => ?_, fun i => ?_⟩
  · obtain ⟨hw, hi⟩ := immForms_performed f hf d a i
    rw [BitVec.ofNat_toNat]
    exact sets_of_scalar hc (hi s) hw hr
  · obtain ⟨hw, hi⟩ := shiftForms_performed f hf d a k h
    exact sets_of_scalar hc (hi s) hw hr
  · exact sets_of_scalar hc (exec_lui d i s) rfl fun r h => hr r (List.mem_cons.mpr (.inl (List.mem_singleton.mp h)))

theorem scalarCountsRule : ScalarCountsRule := by
  intro s key q hc d a b hr
  have hda : Settled q [d, a] := fun r h => hr r (List.mem_append_left [b] h)
  exact ⟨sets_of_scalar hc (exec_clz d a s) rfl hda, sets_of_scalar hc (exec_popc d a s) rfl hda,
    sets_of_scalar hc (exec_sel d a b s) rfl hr⟩

/-! ### A virtual processor -/

theorem laneScalarsRule : LaneScalarsRule := by
  intro s key lane q v hl hlane hp d a b
  refine ⟨fun f hf => ?_, fun f hf i => ?_, fun f hf k h => ?_, fun i => ?_, ?_, ?_, ?_⟩
  · have hform : f.Performed := (List.mem_append.mp hf).elim (arithForms_performed f) (bitForms_performed f)
    obtain ⟨hw, hi⟩ := hform d a b
    exact setsLane_of_scalar hl hlane hp (hi s) hw
  · obtain ⟨hw, hi⟩ := immForms_performed f hf d a i
    exact setsLane_of_scalar hl hlane hp (hi s) hw
  · obtain ⟨hw, hi⟩ := shiftForms_performed f hf d a k h
    exact setsLane_of_scalar hl hlane hp (hi s) hw
  · exact setsLane_of_scalar hl hlane hp (exec_lui d i s) rfl
  · exact setsLane_of_scalar hl hlane hp (exec_clz d a s) rfl
  · exact setsLane_of_scalar hl hlane hp (exec_popc d a s) rfl
  · exact setsLane_of_scalar hl hlane hp (exec_sel d a b s) rfl

/-- Settles O1: each form performs its result of Table 16.3 in whole numbers, and a scalar instruction writes that result in the
control thread and in a virtual processor alike. -/
theorem scalarResults : Obligations.ScalarResults :=
  ⟨scalarArithmeticRule, scalarBitsRule, scalarImmediatesRule, scalarCountsRule, laneScalarsRule⟩

end Sys2Proof.Claims
end

section
/-!
SUPPORT. The statement about branches and jumps (`Obligations.Branching`), in three layers: where a branch goes and what it
tests, in whole numbers and single bits; what the control thread does with the answer; and what a virtual processor does, with
its divergence stack.
-/
namespace Sys2Proof.Claims
open Sys2Proof.Machine

/-! ### Destinations and conditions -/

/-- PC + 4 × offset (R310). -/
theorem target_eq_away {n : Nat} (pc : Word) (o : BitVec n) : target pc o = away pc o := by
  rw [target, away, low, BitVec.ofInt_mul, BitVec.signExtend]
  rfl

theorem someSet_iff_mod_ne_zero (m : Mask) (n : Nat) : someSet m n ↔ m.toNat % 2 ^ n ≠ 0 := by
  constructor
  · rintro ⟨k, hk, hm⟩ hzero
    have hbit : (m.toNat % 2 ^ n).testBit k = true := by simp [Nat.testBit_mod_two_pow, hk, BitVec.testBit_toNat, hm]
    simp [hzero] at hbit
  · intro hne
    obtain ⟨k, hbit⟩ := Nat.exists_testBit_of_ne_zero hne
    rw [Nat.testBit_mod_two_pow, Bool.and_eq_true, decide_eq_true_eq, BitVec.testBit_toNat] at hbit
    exact ⟨k, hbit⟩

theorem allSet_iff_mod_eq (m : Mask) (n : Nat) : allSet m n ↔ m.toNat % 2 ^ n = 2 ^ n - 1 := by
  constructor
  · intro hall
    apply Nat.eq_of_testBit_eq
    intro k
    rw [Nat.testBit_mod_two_pow, Nat.testBit_two_pow_sub_one, BitVec.testBit_toNat]
    by_cases hk : k < n
    · simp [hk, hall k hk]
    · simp [hk]
  · intro heq k hk
    have hbit : (m.toNat % 2 ^ n).testBit k = true := by rw [heq, Nat.testBit_two_pow_sub_one, decide_eq_true hk]
    rwa [Nat.testBit_mod_two_pow, decide_eq_true hk, Bool.true_and, BitVec.testBit_toNat] at hbit

/-- The model performs a conditional branch by its relation, at both widths. -/
def BranchForm.Performed (f : BranchForm) : Prop :=
  ∀ a b o, (f.instr a b o).wf = true ∧
    ∀ s, exec (f.instr a b o) s = branchOp (f.instr a b o) s a b o fun {n} => f.holds n

/-- So it does where its own relation is the form's; `exec` and `Instr.wf` compute to what the form names. -/
theorem BranchForm.Performed.of {f : BranchForm} (c : {n : Nat} → BitVec n → BitVec n → Bool)
    (hc : ∀ {n : Nat} (x y : BitVec n), c x y = f.holds n x y)
    (hw : ∀ a b o, (f.instr a b o).wf = true := by intros; rfl)
    (hg : ∀ a b o s, exec (f.instr a b o) s = branchOp (f.instr a b o) s a b o c := by intros; rfl) : f.Performed := by
  intro a b o
  refine ⟨hw a b o, fun s => ?_⟩
  simp only [hg, branchOp, hc]

section
variable {n : Nat} (x y : BitVec n)

theorem beq_eq_decide_toNat_eq : (x == y) = decide (x.toNat = y.toNat) := by
  rw [Bool.eq_iff_iff, beq_iff_eq, decide_eq_true_eq, BitVec.toNat_inj]

theorem bne_eq_decide_toNat_ne : (x != y) = decide (x.toNat ≠ y.toNat) := by
  rw [bne, beq_eq_decide_toNat_eq, decide_not]

theorem not_slt_eq_decide_toInt_le : (!x.slt y) = decide (y.toInt ≤ x.toInt) := by
  rw [BitVec.slt_eq_decide, ← decide_not, decide_eq_decide, Int.not_lt]

theorem not_ult_eq_decide_toNat_le : (!x.ult y) = decide (y.toNat ≤ x.toNat) := by
  rw [BitVec.ult_eq_decide, ← decide_not, decide_eq_decide, Nat.not_lt]

end

theorem branchForms_performed : ∀ f ∈ branchForms, f.Performed := by
  simp only [branchForms, List.forall_mem_cons, List.not_mem_nil, false_imp_iff, implies_true, and_true]
  exact ⟨
    .of (fun x y => x == y) beq_eq_decide_toNat_eq,
    .of (fun x y => x != y) bne_eq_decide_toNat_ne,
    .of (fun x y => x.slt y) fun _ _ => BitVec.slt_eq_decide,
    .of (fun x y => !x.slt y) not_slt_eq_decide_toInt_le,
    .of (fun x y => x.ult y) fun _ _ => BitVec.ult_eq_decide,
    .of (fun x y => !x.ult y) not_ult_eq_decide_toNat_le⟩

/-! ### The control thread -/

section
variable {s : State} {key : Nat} {q : Seat} {i : Instr}

theorem goes_of_jump {a : Word} (h : exec i s = .next (s.setSeat key (q.jump a))) : Goes s key q i a := h

/-- A branch whose test says what the condition says. -/
theorem chooses_of_branch {c : Bool} {p : Prop} {n : Nat} {o : BitVec n}
    (h : exec i s = .next (s.setSeat key (q.branch c (target q.curPc o)))) (hp : c = true ↔ p) :
    Chooses s key q i p (away q.curPc o) := by
  rw [Seat.branch, target_eq_away] at h
  refine ⟨fun htaken => ?_, fun hnot => ?_⟩
  · rw [if_pos (hp.mpr htaken)] at h
    exact goes_of_jump h
  · rwa [if_neg (mt hp.mp hnot)] at h

theorem chooses_of_performed (hc : Ctl s key q) {f : BranchForm} (hf : f.Performed) {a b : Reg} {o : BitVec 16}
    (hr : Settled q [a, b]) :
    Chooses s key q (f.instr a b o) (f.holds 64 (q.reg a) (q.reg b) = true) (away q.curPc o) := by
  obtain ⟨hw, hi⟩ := hf a b o
  obtain ⟨ha, hb, -⟩ : q.busy a = false ∧ q.busy b = false ∧ True := by simpa [Settled] using hr
  refine chooses_of_branch ?_ Iff.rfl
  rw [hi, branchOp, both_ctl hc.thr hc.seat hw, waitOn_of (by rw [ha, hb]; rfl)]

/-- BTAG with condition `c` branches on the tags that its register selects (R344). -/
theorem exec_btag_ctl (hc : Ctl s key q) {a : Reg} {c : BitVec 5} {o : BitVec 16} (hw : c.toNat ≤ 2) (hr : Settled q [a]) :
    exec (.btag a c o) s = .next (s.setSeat key (q.branch
      (if c = 0 then q.tags &&& q.reg a != 0 else if c = 1 then q.tags &&& q.reg a == q.reg a else q.tags &&& q.reg a == 0)
      (target q.curPc o))) := by
  have hwf : (Instr.btag a c o).wf = true := decide_eq_true hw
  change execBtag a c o s = _
  rw [execBtag, ctl_ctl hc.thr hc.seat hwf, waitOn_of (hr a (List.mem_singleton_self a))]

/-- BMASK with condition `c` branches on the mask's value below 2^VL (R342). -/
theorem exec_bmask_ctl (hc : Ctl s key q) {m : MaskNo} {c : BitVec 5} {o : BitVec 16} (hw : c.toNat ≤ 2)
    (hm : q.maskBusy m = false) (hvl : q.vlBusy = false) :
    exec (.bmask m c o) s = .next (s.setSeat key (q.branch
      (if c = 0 then (q.mask m).toNat % 2 ^ q.sr.vl != 0 else if c = 1 then (q.mask m).toNat % 2 ^ q.sr.vl == 0
        else (q.mask m).toNat % 2 ^ q.sr.vl == 2 ^ q.sr.vl - 1)
      (target q.curPc o))) := by
  have hwf : (Instr.bmask m c o).wf = true := decide_eq_true hw
  change execBmask m c o s = _
  rw [execBmask, ctl_ctl hc.thr hc.seat hwf, waitOn_of (by rw [hm, hvl]; rfl)]

/-- ALIGN is no fault that the host may settle (R248), so it is a precise trap. -/
theorem raise_align {v pc : Word} (hq : s.seat key = some q) :
    s.raise key ⟨codeAlign, 0, v, pc⟩ = s.takeTrap key ⟨codeAlign, 0, v, pc⟩ false false := by
  have hhost : s.hostPage q ⟨codeAlign, 0, v, pc⟩ = false := rfl
  simp only [State.raise, hq, hhost, State.preciseTrap, Bool.false_eq_true, if_false]

theorem exec_jr_ctl (hc : Ctl s key q) {a : Reg} (hr : Settled q [a]) :
    exec (.jr a) s = if (q.reg a).toNat % 4 ≠ 0 then .next (s.raise key ⟨codeAlign, 0, q.reg a, q.curPc⟩)
      else .next (s.setSeat key (q.jump (q.reg a))) := by
  change execJr a s = _
  rw [execJr, ctl_ctl hc.thr hc.seat rfl, waitOn_of (hr a (List.mem_singleton_self a))]

theorem exec_jmp_ctl (hc : Ctl s key q) (o : BitVec 26) :
    exec (.jmp o) s = .next (s.setSeat key (q.jump (target q.curPc o))) := by
  change execJmp o s = _
  rw [execJmp, both_ctl hc.thr hc.seat rfl]

end

theorem branchesRule : BranchesRule := by
  intro s key q hc
  refine ⟨fun f hf a b o hr => chooses_of_performed hc (branchForms_performed f hf) hr, fun a o hr => ⟨?_, ?_, ?_⟩,
    fun m o hm hvl => ⟨?_, ?_, ?_⟩, fun o => ?_, fun a hr => ⟨fun hal => ?_, fun hmis => ?_⟩⟩
  · exact chooses_of_branch (exec_btag_ctl hc (by decide) hr) bne_iff_ne
  · exact chooses_of_branch (exec_btag_ctl hc (by decide) hr) beq_iff_eq
  · exact chooses_of_branch (exec_btag_ctl hc (by decide) hr) beq_iff_eq
  · exact chooses_of_branch (exec_bmask_ctl hc (by decide) hm hvl) (bne_iff_ne.trans (someSet_iff_mod_ne_zero _ _).symm)
  · refine chooses_of_branch (exec_bmask_ctl hc (by decide) hm hvl) (beq_iff_eq.trans ?_)
    rw [someSet_iff_mod_ne_zero, Classical.not_not]
  · exact chooses_of_branch (exec_bmask_ctl hc (by decide) hm hvl) (beq_iff_eq.trans (allSet_iff_mod_eq _ _).symm)
  · rw [← target_eq_away]
    exact goes_of_jump (exec_jmp_ctl hc o)
  · have hex := exec_jr_ctl hc hr
    rw [if_neg (Classical.not_not.mpr hal)] at hex
    exact goes_of_jump hex
  · rw [Traps, exec_jr_ctl hc hr, if_pos hmis, raise_align hc.seat]

/-! ### A virtual processor -/

section
variable {s : State} {key lane : Nat} {q : Seat} {v v' : Vp} {i : Instr}

/-- Two changes of one virtual processor, one after the other. -/
theorem OnlyVp.trans {q' q'' : Seat} (h : OnlyVp q q' lane v) (h' : OnlyVp q' q'' lane v') : OnlyVp q q'' lane v' := by
  obtain ⟨⟨vps, hfork⟩, -, hother⟩ := h
  obtain ⟨⟨vps', hfork'⟩, hself', hother'⟩ := h'
  refine ⟨⟨vps', ?_⟩, hself', fun l hl => (hother' l hl).trans (hother l hl)⟩
  rw [hfork', hfork, Option.map_map]
  rfl

theorem onlyVp_setVp (hv : q.vp lane = some v) (v' : Vp) : OnlyVp q (q.setVp lane v') lane v' := by
  obtain ⟨fork, hfork, -⟩ := Option.bind_eq_some_iff.mp hv
  refine ⟨⟨mapInsert fork.vps lane v', ?_⟩, ?_, fun l hl => ?_⟩
  · simp [Seat.setVp, hfork]
  · simp [Seat.vp, Seat.setVp, hfork, mapFind_insert_self]
  · simp [Seat.vp, Seat.setVp, hfork, mapFind_insert_ne _ _ hl]

/-- A virtual processor that goes on without writing a lane register (l0 has none to write, R46). -/
theorem onlyVp_goOn (hv : q.vp lane = some v) (a : Word) : OnlyVp q (q.vpTo lane a) lane { v with pc := a } :=
  onlyVp_vpTo (d := 0) hv 0 a

theorem onlyVp_setVp_vpTo (hv : q.vp lane = some v) (v' : Vp) (a : Word) :
    OnlyVp q ((q.setVp lane v').vpTo lane a) lane { v' with pc := a } :=
  have hset := onlyVp_setVp hv v'
  hset.trans (onlyVp_goOn hset.2.1 a)

theorem goesLane_of_vpTo (hl : Lane s key lane q v) {a : Word} (h : exec i s = .next (s.setSeat key (q.vpTo lane a))) :
    GoesLane s key lane q v i a :=
  ⟨q.vpTo lane a, h, rfl, onlyVp_goOn hl.vp a⟩

/-- A virtual processor whose divergence stack changes and which makes no access: channels and STATUS stay. -/
theorem diverges_of_setVp_vpTo (hl : Lane s key lane q v) {a : Word}
    (h : exec i s = .next (s.mapSeat key fun x => (x.setVp lane v').vpTo lane a)) :
    Diverges s key lane q i { v' with pc := a } q.chan false s := by
  rw [State.mapSeat_of s _ hl.seat] at h
  refine ⟨(q.setVp lane v').vpTo lane a, h, onlyVp_setVp_vpTo hl.vp v' a, ?_⟩
  rw [Bool.or_false]
  rfl

theorem goesLane_of_performed (hl : Lane s key lane q v) {f : BranchForm} (hf : f.Performed) {a b : Reg} {o : BitVec 16} :
    GoesLane s key lane q v (f.instr a b o)
      (if f.holds 32 (q.laneReg lane a) (q.laneReg lane b) then away v.pc o else v.pc + 4) := by
  obtain ⟨hw, hi⟩ := hf a b o
  refine goesLane_of_vpTo hl ?_
  rw [hi, branchOp, both_vp hl.thr hl.seat hl.vp hw, target_eq_away]

theorem exec_jmp_vp (hl : Lane s key lane q v) (o : BitVec 26) :
    exec (.jmp o) s = .next (s.setSeat key (q.vpTo lane (target v.pc o))) := by
  change execJmp o s = _
  rw [execJmp, both_vp hl.thr hl.seat hl.vp rfl]

theorem exec_jal_vp (hl : Lane s key lane q v) (o : BitVec 26) :
    exec (.jal o) s = s.vpPush key q lane v (v.pc + 4) (target v.pc o) := by
  change execJal o s = _
  rw [execJal, both_vp hl.thr hl.seat hl.vp rfl]

theorem exec_ret_vp (hl : Lane s key lane q v) : exec .ret s = s.vpPop key q lane v := by
  change execRet s = _
  rw [execRet, both_vp hl.thr hl.seat hl.vp rfl]

/-- A push on a divergence stack with room spills nothing (R48). -/
theorem vpPush_of_room (hroom : v.stack.length < 8) (ra dest : Word) :
    s.vpPush key q lane v ra dest =
      .next (s.mapSeat key fun x => (x.setVp lane { v with stack := v.stack ++ [ra] }).vpTo lane dest) := by
  rw [State.vpPush, if_pos hroom]

/-- A pop of a divergence stack that holds entries takes the last one (R48, R393). -/
theorem vpPop_of_aligned {l : List Word} {ra : Word} (hst : v.stack = l ++ [ra]) (hal : ra.toNat % 4 = 0) :
    s.vpPop key q lane v = .next (s.mapSeat key fun x => (x.setVp lane { v with stack := l }).vpTo lane ra) := by
  simp [State.vpPop, State.vpRet, hst, hal]

theorem vpPop_of_nothing (hst : v.stack = []) (hsp : v.spilled = 0) :
    s.vpPop key q lane v = .next (s.vpIllop key lane .ret v) := by
  simp [State.vpPop, hst, hsp]

/-- JR is an instruction of the control thread alone (R47, R368). -/
theorem exec_jr_vp (hl : Lane s key lane q v) (a : Reg) : exec (.jr a) s = .next (s.vpIllop key lane (.jr a) v) := by
  change execJr a s = _
  rw [execJr, ctl_vp hl.thr hl.seat hl.vp, State.vpIllop]

theorem vpIllop_of_encode {w : BitVec 32} (h : encode i = some w) :
    s.vpIllop key lane i v = s.vpTrap key lane ⟨codeIllop, 0, w.setWidth 64, v.pc⟩ := by
  rw [State.vpIllop, Instr.word, h, Option.getD_some, BitVec.setWidth_eq]

end

theorem laneBranchesRule : LaneBranchesRule := by
  intro s key lane q v hl
  refine ⟨fun f hf a b o => goesLane_of_performed hl (branchForms_performed f hf), fun o => ?_, fun o hroom => ?_,
    fun l ra hst hal => ?_, fun w hw hst hsp => ?_, fun a w hw => ?_⟩
  · rw [← target_eq_away]
    exact goesLane_of_vpTo hl (exec_jmp_vp hl o)
  · rw [← target_eq_away]
    exact diverges_of_setVp_vpTo hl ((exec_jal_vp hl o).trans (vpPush_of_room hroom _ _))
  · exact diverges_of_setVp_vpTo hl ((exec_ret_vp hl).trans (vpPop_of_aligned hst hal))
  · rw [exec_ret_vp hl, vpPop_of_nothing hst hsp, vpIllop_of_encode hw]
  · rw [exec_jr_vp hl, vpIllop_of_encode hw]

/-- Settles O3: each conditional branch performs its relation in whole numbers at the width of the thread's registers, the tests
of BTAG and BMASK are the stated ones bit by bit, and jumps, calls and returns go where the rules say or raise their trap. -/
theorem branching : Obligations.Branching := ⟨branchesRule, laneBranchesRule⟩

end Sys2Proof.Claims
end
